-- ==== Sys2Proof/Word.lean ====
section
/-!
DEFINITION. Word.lean: the widths the manual gives its values (spec/00_scope.md R1, spec/06_streams_and_words.md R120, R130, R132).
-/
namespace Sys2Proof

/-- A scalar register, CSR or record word. -/
abbrev Word := BitVec 64
/-- A byte of memory. -/
abbrev Byte := BitVec 8
/-- An instruction word (R120). -/
abbrev IWord := BitVec 32
/-- A device virtual address (R120, R198). -/
abbrev VA := BitVec 57
/-- A vector register: 512 bytes (R130). -/
abbrev VecReg := BitVec 4096
/-- A predicate register: 512 bits (R130). -/
abbrev PredReg := BitVec 512

/-- A scalar register number (R142). -/
abbrev SReg := BitVec 4
/-- A vector register number (R142). -/
abbrev VReg := BitVec 5
/-- A predicate register number (R142). -/
abbrev KReg := BitVec 3
/-- A capability pair number; 0 means none where the operand is optional (R142). -/
abbrev Pair := BitVec 3
/-- A queue number (R127). -/
abbrev QNum := BitVec 3
/-- A completion counter number (R204). -/
abbrev Cc := BitVec 4

end Sys2Proof
end

