-- ==== Sys2Proof/Config.lean ====
section
/-!
DEFINITION. Config.lean: what one implementation fixes, and the values the manual leaves open, as constants without a body
(notes/assumptions 8 to 12, 16, 17, 47 and 48). Nothing can be proved about the value of an opaque constant here.
-/
namespace Sys2Proof.Config

/-- The number of logical cores of the package the model describes: a GZ960-192 (R10). A GZ960-184 is described by the
SHORTCL field of the descriptor that BOOT fills. -/
def coresPerCluster : Nat := 8

/-- Whether an access record that software wrote with a value naming a live party counts as that party's record at the
`n`-th such meeting (R403 leaves it open; log 8). -/
opaque softRecordCounts : Nat → Bool

/-- The bits of a special function (number, format code, operand bits) where the enclosure that the model computes does
not decide the rounding (R273 fixes the value; log 10). -/
opaque specialBits : Nat → Nat → Nat → Nat

/-- The interleaving of the words of a die's Vat over its banks, which is the device's own, as a list of exchanges: the words
of each bank fill 2 MiB whatever the list is (R8, R323; log 48). -/
opaque vatSwaps : Fin 4 → List (Nat × Nat)

/-- The release sets that a home holds beyond the number that the manual guarantees (R323; log 48). -/
opaque moreSets : Nat → Nat

/-- AES-256-GMAC (R388), as an uninterpreted function of key, nonce and message (log 9). -/
opaque gmac : BitVec 256 → Nat → List (BitVec 8) → BitVec 128

/-- SHAKE256 with 32 bytes of output (R162, R398), as an uninterpreted function of the message (log 9). -/
opaque shake256 : List (BitVec 8) → BitVec 256

/-- Whether the 2,820 bytes of an XMSS signature of a 32-byte message verify against one of the given public-key hashes
(R162; log 9). -/
opaque signatureVerifies : List (BitVec 256) → BitVec 256 → List (BitVec 8) → Bool

/-- The firmware and the configuration record whose measurements a quote holds, and the identity certificate (R398; log 9). -/
opaque firmwareBytes : List (BitVec 8)
/-- The bytes of the configuration record. -/
opaque configBytes : List (BitVec 8)
/-- The identity certificate. -/
opaque certificate : List (BitVec 8)

/-- The XMSS signature of the device identity key over a message at the `n`-th signature (R398; log 9). -/
opaque sign : BitVec 256 → Nat → List (BitVec 8)

/-- The words of a quote as the mailbox shows them: their layout is the firmware's own (R398; log 9). -/
opaque quoteWord : List (BitVec 8) → Nat → BitVec 64

/-- The interleaving of the granules of package memory over its 64 channels, which is the device's own, as a list of
exchanges: each die holds 256 GiB and each channel 16 GiB whatever the list is (R8, R343; log 16). -/
opaque pkgSwaps : List (Nat × Nat)

/-- The coordinates (x, y, z) that word 2 of an IMPORT names, whose layout no rule gives (R391, R396; log 47). -/
opaque coordsOf : BitVec 64 → Nat × Nat × Nat

/-- The compute die at which an access of the host comes in, by the number of the byte's key or of the tile: each die has a UCIe module,
and traffic for another die crosses the links between dies (R8, R338, R379; log 82). -/
opaque hostModule : Nat → Fin 4

/-- The die at whose root port the CXL device stands that reads tiles: R8 puts a port on each die, and nothing says which device
stands where (R338; log 82). -/
opaque cxlDie : Fin 4

/-- Whether the `n`-th change of a tile reclaims the old versions that the watermark allows it to (R344; log 17). -/
opaque watermarkReclaims : Nat → Bool

/-- The value of a lane of a load that the manual leaves open, by the counter of free values (log 12). -/
opaque freeWord : Nat → BitVec 64

/-- The cycles that a matrix command waited for the Press decoders, by the counter of free values (R88; log 11). -/
opaque stallCycles : Nat → BitVec 64

end Sys2Proof.Config
end

