-- ==== Sys2Proof/Syntax.lean ====
section
/-!
DEFINITION. Syntax.lean: the instructions and steps of spec/opcode_table.json, one constructor of `Instr` for each row.
The encoded instructions (rows 0 to 194) carry the Wheel bits of their word (R141) and their fields (R142). The steps
without an encoding (rows 195 to 257) carry the operands that their rules name; they reach the machine through
`State.agenda`.
-/
namespace Sys2Proof

/-- The Wheel bits [31:28] of an instruction word (R141, R123, R124). -/
structure Wheel where
  wp : Bool
  ws : Bool
  sp : Bool
  ss : Bool
  deriving DecidableEq, Repr

/-- The four streams of a job, in ring order A, M, V, E (R119). -/
inductive StreamId where
  | A | M | V | E
  deriving DecidableEq, Repr

/-- The element formats of R20, in code order 0x0 to 0xD. -/
inductive Fmt where
  | fp32 | bf16 | f16 | e4m3 | e5m2 | e2m1 | i8 | i16 | i32 | i64 | n8 | n16 | n32 | n64
  deriving DecidableEq, Repr

/-- The rounding modes of R26, codes 0 to 4. Where a field may also hold DYN (7) it is an `Option RMode`. -/
inductive RMode where
  | rne | rz | rup | rdn | sr
  deriving DecidableEq, Repr

/-- The ordering option of an atomic (R211). -/
inductive AmoOrd where
  | none | acq | rel | ord
  deriving DecidableEq, Repr

/-- The scopes of R300, codes 0 to 5. -/
inductive Scope where
  | core | cluster | die | pkg | grant | sys
  deriving DecidableEq, Repr

/-- The tiers of R51 that hold bytes, with HOST of R199. -/
inductive Tier where
  | scratch | cluster | vat | pkg | far | peer | host
  deriving DecidableEq, Repr

/-- The symbol kinds that TFILL makes (R218). -/
inductive FillKind where
  | zero | const | ramp | had
  deriving DecidableEq, Repr

/-- The masked-element values of MMAT (R254). -/
inductive MaskKind where
  | zero | ninf | keep
  deriving DecidableEq, Repr

/-- The quantization modes of MDRAIN (R257). -/
inductive QuantKind where
  | none | tile | row
  deriving DecidableEq, Repr

/-- An accumulator field: ACC0, ACC1, ACC2 or ACCV (R142). -/
inductive AccId where
  | acc0 | acc1 | acc2 | accv
  deriving DecidableEq, Repr

/-- What the signed configuration record and host time give BOOT (R12, R335, R364, R397). -/
structure BootRecord where
  variant184 : Bool
  shortCl : BitVec 24
  fwVer : BitVec 16
  torusX : Nat
  torusY : Nat
  torusZ : Nat
  /-- The package's own coordinates in the torus (R101, R397). -/
  atX : Nat
  atY : Nat
  atZ : Nat
  epochNs : Word
  /-- The fault ring of each die: SZ and first granule. -/
  rings : List (Nat × Nat)
  /-- Whether the ROM and the firmware accepted every signature (R397 steps 1 and 2). -/
  verified : Bool
  deriving DecidableEq, Repr

/-- The atomics of R211. -/
inductive AmoOp where
  | add | and | or | xor | min | max | minn | maxn | xchg | cas | incb | fadd
  deriving DecidableEq, Repr

/-- What a peer package asks of a window (R391): a read or a write of bytes at an offset of the window, an atomic with its
operand and compare value, with or without release (R309), or a member of the importer's ordered batch `id` with a key. -/
inductive PeerOp where
  | read (off : Nat) (len : Nat)
  | write (off : Nat) (bytes : List Byte)
  | atomic (off : Nat) (op : AmoOp) (v c : Word) (release : Bool)
  | member (off : Nat) (op : AmoOp) (v c : Word) (id : BitVec 16) (key : BitVec 32)
  deriving DecidableEq, Repr

/-- Such a request, and the Ulukin port on which it reaches this package. -/
structure PeerReq where
  port : Nat
  op : PeerOp
  deriving DecidableEq, Repr

/-- What the other packages of a grant report (R103): their jobs are loaded, all their jobs have halted, or a job of theirs
has ended by a trap. -/
inductive GrantReport where
  | loaded | halted | trapped (code : BitVec 8) (stage job : Nat)
  deriving DecidableEq, Repr

/-- Such a report on a launch. -/
structure GrantNote where
  launch : Nat
  report : GrantReport
  deriving DecidableEq, Repr

/-- The jobs of an instance have arrived at a BAR of a scope (R317): those of this package are seen in State, and `others` says
that those on the other packages of the grant have. -/
structure Arrivals where
  scope : Scope
  others : Bool
  deriving DecidableEq, Repr

/-- An access of the management window: its size in bytes and its offset (R380). -/
structure WinAccess where
  size : Nat
  off : BitVec 16
  deriving DecidableEq, Repr

/-- A GRANT-scope publish on another package of a running launch (R350). -/
structure Publish where
  owner : BitVec 16
  dom : BitVec 16
  version : BitVec 16
  stamp : Word
  launch : Nat
  deriving DecidableEq, Repr

/-- What a floor report carries for grants: floors by launch (R338), and publishes on their packages (R350). -/
structure GrantKnown where
  floors : List (Nat × Word)
  pubs : List Publish
  deriving DecidableEq, Repr

/-- A fabric flit: its header fields and its 56 payload bytes (R387). -/
structure Flit where
  owner : BitVec 16
  kind : BitVec 4
  vc : Bool
  ksel : Bool
  lseq : BitVec 10
  crc : BitVec 32
  payload : List Byte
  deriving DecidableEq, Repr

/-- The latest value of a beacon's interval, and the floors that the beacon carries: for the package, and for grants by the
launch here (R336, R338). -/
structure BeaconEnd where
  latest : Word
  package : Word
  floors : List (Nat × Word)
  deriving DecidableEq, Repr

/-- A flit that arrives, the commands that lose a transfer with the group that it closes (R388), and the sender's known floors
of grants, by the launch here (R338). -/
structure Received where
  flit : Flit
  lost : List Nat
  floors : List (Nat × Word)
  deriving DecidableEq, Repr

/-- The tag of a group, and the commands that lose a transfer if it fails (R388). -/
structure TagEnd where
  tag : BitVec 128
  lost : List Nat
  deriving DecidableEq, Repr

/-- A link that goes down, and the commands with a transfer on it (R393). -/
structure LinkLoss where
  port : Nat
  lost : List Nat
  deriving DecidableEq, Repr

/-- The instructions and steps of spec/opcode_table.json, in its order. -/
inductive Instr where
  -- major 0x01 (R167)
  | add (w : Wheel) (d a b : SReg) | sub (w : Wheel) (d a b : SReg) | mul (w : Wheel) (d a b : SReg)
  | mulh (w : Wheel) (d a b : SReg) | mulhn (w : Wheel) (d a b : SReg) | div (w : Wheel) (d a b : SReg)
  | divn (w : Wheel) (d a b : SReg) | rem (w : Wheel) (d a b : SReg) | remn (w : Wheel) (d a b : SReg)
  | and (w : Wheel) (d a b : SReg) | or (w : Wheel) (d a b : SReg) | xor (w : Wheel) (d a b : SReg)
  | shl (w : Wheel) (d a b : SReg) | shr (w : Wheel) (d a b : SReg) | sra (w : Wheel) (d a b : SReg)
  | slt (w : Wheel) (d a b : SReg) | sltn (w : Wheel) (d a b : SReg) | min (w : Wheel) (d a b : SReg)
  | max (w : Wheel) (d a b : SReg) | minn (w : Wheel) (d a b : SReg) | maxn (w : Wheel) (d a b : SReg)
  | clz (w : Wheel) (d a : SReg) | popc (w : Wheel) (d a : SReg)
  -- immediates (R169, R170)
  | addi (w : Wheel) (d a : SReg) (imm : BitVec 14) | andi (w : Wheel) (d a : SReg) (imm : BitVec 14)
  | ori (w : Wheel) (d a : SReg) (imm : BitVec 14) | xori (w : Wheel) (d a : SReg) (imm : BitVec 14)
  | shli (w : Wheel) (d a : SReg) (imm : BitVec 6) | shri (w : Wheel) (d a : SReg) (imm : BitVec 6)
  | srai (w : Wheel) (d a : SReg) (imm : BitVec 6) | slti (w : Wheel) (d a : SReg) (imm : BitVec 14)
  | sltni (w : Wheel) (d a : SReg) (imm : BitVec 14) | lui (w : Wheel) (d : SReg) (imm : BitVec 18)
  | li64 (w : Wheel) (d : SReg) (imm : BitVec 40)
  -- branches and jumps (R171, R172)
  | beq (w : Wheel) (a b : SReg) (off : BitVec 14) | bne (w : Wheel) (a b : SReg) (off : BitVec 14)
  | blt (w : Wheel) (a b : SReg) (off : BitVec 14) | bge (w : Wheel) (a b : SReg) (off : BitVec 14)
  | bltn (w : Wheel) (a b : SReg) (off : BitVec 14) | bgen (w : Wheel) (a b : SReg) (off : BitVec 14)
  | jmp (w : Wheel) (off : BitVec 22) | jal (w : Wheel) (off : BitVec 22)
  -- queues and spill (R180, R186, R187)
  | spush (w : Wheel) (q : QNum) (a : SReg) | spop (w : Wheel) (d : SReg) (q : QNum)
  | qcnt (w : Wheel) (d : SReg) (q : QNum)
  | sspill (w : Wheel) (s : SReg) (slot : BitVec 6) | sfill (w : Wheel) (d : SReg) (slot : BitVec 6)
  | bqz (w : Wheel) (q : QNum) (off : BitVec 14) | bqnz (w : Wheel) (q : QNum) (off : BitVec 14)
  | vpush (w : Wheel) (v : VReg) (q : QNum) (k : KReg) | vpop (w : Wheel) (v : VReg) (q : QNum) (k : KReg)
  | vspill (w : Wheel) (v : VReg) (slot : BitVec 5) | vfill (w : Wheel) (v : VReg) (slot : BitVec 5)
  -- synchronisation (R314)
  | nop (w : Wheel) | safe (w : Wheel) (id : BitVec 10) | halt (w : Wheel) | rdv (w : Wheel)
  | mark (w : Wheel) (eng : BitVec 4) (scope : Scope) | join (w : Wheel) | bar (w : Wheel) (scope : Scope)
  | waitc (w : Wheel) (d : SReg) (cc : Cc) | disc (w : Wheel) (cc : Cc)
  -- system (R193)
  | trap (w : Wheel) (d a : SReg) | uret (w : Wheel)
  | csrr (w : Wheel) (d : SReg) (csr : BitVec 10) | csrw (w : Wheel) (a : SReg) (csr : BitVec 10)
  | fqack (w : Wheel) (d a : SReg) (endJob : Bool) | sret (w : Wheel) (d a r : SReg)
  | launch (w : Wheel) (cc : Cc) (a : SReg)
  -- loops and JR (R173, R177, R178)
  | loop (w : Wheel) (a : SReg) (off : BitVec 14) | endl (w : Wheel) (off : BitVec 14) | jr (w : Wheel) (a : SReg)
  -- scalar loads and stores (R209)
  | ldb (w : Wheel) (d a : SReg) (off : BitVec 11) | ldbn (w : Wheel) (d a : SReg) (off : BitVec 11)
  | ldh (w : Wheel) (d a : SReg) (off : BitVec 11) | ldhn (w : Wheel) (d a : SReg) (off : BitVec 11)
  | ldw (w : Wheel) (d a : SReg) (off : BitVec 11) | ldwn (w : Wheel) (d a : SReg) (off : BitVec 11)
  | ldd (w : Wheel) (d a : SReg) (off : BitVec 11)
  | stb (w : Wheel) (s a : SReg) (off : BitVec 11) | sth (w : Wheel) (s a : SReg) (off : BitVec 11)
  | stw (w : Wheel) (s a : SReg) (off : BitVec 11) | std (w : Wheel) (s a : SReg) (off : BitVec 11)
  -- atomics (R211)
  | amoadd (w : Wheel) (o : AmoOrd) (d a b : SReg) | amoand (w : Wheel) (o : AmoOrd) (d a b : SReg)
  | amoor (w : Wheel) (o : AmoOrd) (d a b : SReg) | amoxor (w : Wheel) (o : AmoOrd) (d a b : SReg)
  | amomin (w : Wheel) (o : AmoOrd) (d a b : SReg) | amomax (w : Wheel) (o : AmoOrd) (d a b : SReg)
  | amominn (w : Wheel) (o : AmoOrd) (d a b : SReg) | amomaxn (w : Wheel) (o : AmoOrd) (d a b : SReg)
  | amoxchg (w : Wheel) (o : AmoOrd) (d a b : SReg) | amocas (w : Wheel) (o : AmoOrd) (d a b : SReg)
  | amoincb (w : Wheel) (o : AmoOrd) (d a b : SReg) | amofadd (w : Wheel) (o : AmoOrd) (d a b : SReg)
  -- ordered batches (R213, R217)
  | obopen (w : Wheel) (cc : Cc) (a b : SReg) (id : BitVec 16) | obclose (w : Wheel) (cc : Cc) (a b : SReg)
  -- Copy Engine commands (R218)
  | tld (w : Wheel) (a b : Pair) (s : SReg) (cc : Cc) (uint : Bool)
  | tldas (w : Wheel) (a b : Pair) (s : SReg) (cc : Cc) (uint : Bool) (scope : Scope)
  | tpref (w : Wheel) (a : Pair) (s : SReg) (cc : Cc) (uint : Bool)
  | tgath (w : Wheel) (a b : Pair) (s : SReg) (cc : Cc) (uint : Bool)
  | tst (w : Wheel) (a b : Pair) (s : SReg) (cc : Cc) (uint : Bool)
  | tstash (w : Wheel) (a b : Pair) (s : SReg) (cc : Cc) (uint : Bool)
  | tscat (w : Wheel) (a b : Pair) (s : SReg) (cc : Cc) (uint : Bool)
  | tredst (w : Wheel) (a b : Pair) (s : SReg) (cc : Cc) (uint : Bool)
  | tcommit (w : Wheel) (a b : Pair) (s : SReg) (cc : Cc) (uint : Bool) (scope : Scope)
  | tcopy (w : Wheel) (a b : Pair) (s : SReg) (cc : Cc) (uint : Bool)
  | tfill (w : Wheel) (a : Pair) (s : SReg) (cc : Cc) (uint : Bool) (kind : FillKind)
  | tdedup (w : Wheel) (a b : Pair) (s : SReg) (cc : Cc) (uint : Bool)
  | tpromo (w : Wheel) (a : Pair) (s : SReg) (cc : Cc) (uint : Bool)
  | talias (w : Wheel) (a b : Pair) (s : SReg) (cc : Cc) (uint : Bool)
  | tinfo (w : Wheel) (a : Pair) (s : SReg) (word : BitVec 3)
  -- capabilities (R188)
  | cnarrow (w : Wheel) (d a : Pair) (b : SReg) | cperm (w : Wheel) (d a : Pair) (b : SReg)
  | cget (w : Wheel) (d : SReg) (a : Pair) (sel : BitVec 4) | ctag (w : Wheel) (d : SReg) (a : Pair)
  -- matrix (R236, R245, R254 to R261)
  | mma (w : Wheel) (acc : AccId) (a b c : Pair) (cc : Cc) (uint tb ta hold ovr : Bool)
  | macc (w : Wheel) (acc : AccId) (c : Pair) (cc : Cc) (uint ovr : Bool)
  | mzero (w : Wheel) (acc : AccId) (cc : Cc) (uint : Bool)
  | mdrain (w : Wheel) (acc : AccId) (d : Pair) (cc : Cc) (uint : Bool) (mode : Option RMode) (q : QuantKind) (int : Bool)
  | mstat (w : Wheel) (acc : AccId) (d : SReg) (clrs clrf : Bool)
  | mmov (w : Wheel) (acc : AccId) (src : AccId) (cc : Cc) (uint swap : Bool)
  | mmat (w : Wheel) (acc : AccId) (a b c : Pair) (cc : Cc) (uint tb ta hold ovr : Bool)
      (mask : MaskKind) (lower : Bool) (diag : BitVec 16)
  -- floating-point vectors (R272)
  | vadd (w : Wheel) (d a b : VReg) (k : KReg) | vsub (w : Wheel) (d a b : VReg) (k : KReg)
  | vmul (w : Wheel) (d a b : VReg) (k : KReg) | vfma (w : Wheel) (d a b : VReg) (k : KReg)
  | vfms (w : Wheel) (d a b : VReg) (k : KReg) | vfnma (w : Wheel) (d a b : VReg) (k : KReg)
  | vmin (w : Wheel) (d a b : VReg) (k : KReg) | vmax (w : Wheel) (d a b : VReg) (k : KReg)
  | vabs (w : Wheel) (d a : VReg) (k : KReg) | vneg (w : Wheel) (d a : VReg) (k : KReg)
  | vdiv (w : Wheel) (d a b : VReg) (k : KReg)
  -- special functions and compares (R273, R274)
  | vsqrt (w : Wheel) (d a : VReg) (k : KReg) | vrsq (w : Wheel) (d a : VReg) (k : KReg)
  | vrcp (w : Wheel) (d a : VReg) (k : KReg) | vexp2 (w : Wheel) (d a : VReg) (k : KReg)
  | vlog2 (w : Wheel) (d a : VReg) (k : KReg) | vtanh (w : Wheel) (d a : VReg) (k : KReg)
  | vsigm (w : Wheel) (d a : VReg) (k : KReg)
  | vceq (w : Wheel) (d : KReg) (a b : VReg) (k : KReg) | vcne (w : Wheel) (d : KReg) (a b : VReg) (k : KReg)
  | vclt (w : Wheel) (d : KReg) (a b : VReg) (k : KReg) | vcle (w : Wheel) (d : KReg) (a b : VReg) (k : KReg)
  | vcun (w : Wheel) (d : KReg) (a b : VReg) (k : KReg)
  -- integer, bitwise and shift vectors (R275)
  | viadd (w : Wheel) (d a b : VReg) (k : KReg) | visub (w : Wheel) (d a b : VReg) (k : KReg)
  | vimul (w : Wheel) (d a b : VReg) (k : KReg) | vand (w : Wheel) (d a b : VReg) (k : KReg)
  | vor (w : Wheel) (d a b : VReg) (k : KReg) | vxor (w : Wheel) (d a b : VReg) (k : KReg)
  | vshl (w : Wheel) (d a b : VReg) (k : KReg) | vshr (w : Wheel) (d a b : VReg) (k : KReg)
  | vsra (w : Wheel) (d a b : VReg) (k : KReg) | vimin (w : Wheel) (d a b : VReg) (k : KReg)
  | vimax (w : Wheel) (d a b : VReg) (k : KReg)
  -- reductions (R276)
  | vrsum (w : Wheel) (a : VReg) (s : SReg) (k : KReg) | vrmax (w : Wheel) (a : VReg) (s : SReg) (k : KReg)
  | vrmin (w : Wheel) (a : VReg) (s : SReg) (k : KReg) | vrargmx (w : Wheel) (a : VReg) (s : SReg) (k : KReg)
  -- predicates (R277)
  | kand (w : Wheel) (d a b : KReg) (k : KReg) | kor (w : Wheel) (d a b : KReg) (k : KReg)
  | kxor (w : Wheel) (d a b : KReg) (k : KReg) | knot (w : Wheel) (d a : KReg) (k : KReg)
  | kpop (w : Wheel) (a : KReg) (s : SReg) (k : KReg) | kfirst (w : Wheel) (a : KReg) (s : SReg) (k : KReg)
  | kset (w : Wheel) (d : KReg) (s : SReg) (k : KReg)
  -- conversions and VCFG (R279 to R283, R266)
  | vcvt (w : Wheel) (d a : VReg) (s : SReg) (k : KReg) | vquant (w : Wheel) (d a : VReg) (s : SReg) (k : KReg)
  | vdeq (w : Wheel) (d a : VReg) (s : SReg) (k : KReg) | vcfg (w : Wheel) (et : Fmt) (rm : Option RMode)
  -- permutes (R278)
  | vcomp (w : Wheel) (d a : VReg) (k : KReg) | vexpd (w : Wheel) (d a : VReg) (k : KReg)
  | vperm (w : Wheel) (d a b : VReg) (k : KReg) | vslide (w : Wheel) (d a : VReg) (s : SReg) (k : KReg)
  | vbcast (w : Wheel) (d : VReg) (s : SReg) (k : KReg) | viota (w : Wheel) (d : VReg) (s : SReg) (k : KReg)
  | vsel (w : Wheel) (d a b : VReg) (k : KReg) | vmov (w : Wheel) (d a : VReg) (k : KReg)
  | vext (w : Wheel) (a : VReg) (s : SReg) | vins (w : Wheel) (d a : VReg) (s : SReg) (k : KReg)
  -- vector memory (R231)
  | vld (w : Wheel) (v : VReg) (a : SReg) (imm : BitVec 6) (k : KReg) (tile queue : Bool)
  | vldg (w : Wheel) (v : VReg) (a : SReg) (vi : VReg) (k : KReg) (queue : Bool)
  | vst (w : Wheel) (v : VReg) (a : SReg) (imm : BitVec 6) (k : KReg) (tile queue : Bool)
  | vsts (w : Wheel) (v : VReg) (a : SReg) (vi : VReg) (k : KReg) (queue : Bool)
  -- Culture (R290 to R294)
  | qrn (w : Wheel) (d a : VReg) (s : SReg) (k : KReg) | qcfg (w : Wheel) (set : BitVec 8)
  | qldt (w : Wheel) (a : SReg) (dim : BitVec 6)
  -- versions, tokens and clocks (R340 to R356)
  | vtok (w : Wheel) (d a : VReg) (s : SReg) (k : KReg) | pvset (w : Wheel) (a : SReg) | tokbnd (w : Wheel)
  | publ (w : Wheel) (cc : Cc) (a : Pair) (v : SReg) (scope : Scope) | clkr (w : Wheel) (d : SReg) | cwait (w : Wheel)
  -- CSR writes with a behaviour of their own (R293, R134, R364)
  | qselWrite (v : Word) | rcfgWrite (v : Word) | fqheadWrite (v : Word)
  -- the management window (R380 to R384)
  | submit (v : Word) | tapselWrite (v : Word) | inval (v : Word) | invalComplete
  | mgmtRegisterWrite (acc : WinAccess) (v : Word)
  -- the mailbox commands, whose operands stand in MAILBOX (R396)
  | ownerNew | ownerDel | setRoot | setTtb | keyLoad | keyUse | keyRetire | exportWin | revoke | importWin | unimport
  | sigPolicy | errRead | quote | mailboxResult
  -- outside accesses (R383, R384, R64, R391)
  | hostRawAccess (write : Bool) (tier : Tier) (pa : Nat) (bytes : List Byte)
  | tileApertureRead (off len : Nat) | tileApertureWrite (off : Nat) (bytes : List Byte)
  | outsideAgentRead (port : Option Nat) (owner : BitVec 16) (index : BitVec 32)
  | peerRequest (owner : BitVec 16) (window : BitVec 16) (op : PeerReq)
  -- launches (R102, R103, R107, R109, R110, R376, R378)
  | dispatch | probeAck (launch : Nat) | probeTimeout (launch : Nat) | gangStart (launch : Nat)
  | grantRelease (note : GrantNote) | launchAgeing (launch : Nat) | preemptSave | safeHoldRelease | resume (uid : Nat)
  -- faults (R365, R369, R117, R373, R360)
  | faultEntryWrite (die : BitVec 2) | faultResume (seq : BitVec 32) | wheelStall | uintDelivery | machineError
  -- engine threads and queues (R220, R237, R214, R329, R129, R317, R318)
  | copyEngineCompletion (n : Nat) | matrixCommandCompletion | orderedRequestArrival (n : Nat)
  | aonWriteHold (n : Nat) | queueSlotFill (q : QNum) (slot : Nat) | barrierComplete (arrivals : Arrivals) | markerHead (n : Nat)
  -- clocks and versions (R337, R338, R346)
  | beacon (die : BitVec 2) (now earliest : Word) (latest : BeaconEnd)
  | floorReport (die : BitVec 2) (package : Word) (known : GrantKnown) | versionCurrent (entry : Nat)
  -- the fabric (R387 to R392)
  | flitReceived (port : Nat) (rec : Received) | linkDown (loss : LinkLoss) | linkTraining (port : Nat) (pressCap symCap : Bool)
  | tagFlit (port : Nat) (owner : BitVec 16) (ksel : Bool) (tag : TagEnd) | transferRevoked (n : Nat)
  -- power, boot and die state (R399, R397, R338, R339, R347)
  | throttle (mhz : Nat) | thermalShutdown (die : BitVec 2) | boot (rec : BootRecord) | dieReset (die : BitVec 2)
  | clockWide | knownFloorPassesStamp (die : BitVec 2) (now : Word)
  deriving DecidableEq, Repr

end Sys2Proof
end

