-- ==== Sys2Proof/WellFormed.lean ====
section
/-!
DEFINITION. WellFormed.lean: the field limits that the manual's entries put on an instruction word, where the type of a
field does not already give them (R143 and the entry of each instruction). Each check is a Bool function of its own.
-/
namespace Sys2Proof

/-- A pair field that names a capability (R188, R218, R245). -/
def pairOk (p : Pair) : Bool := p != 0

/-- An even scalar register from 2 to 14 (R216, R218, R340, R345). -/
def evenOk (s : SReg) : Bool := s != 0 && s.getLsbD 0 == false

/-- A scalar queue, q4 to q7 (R181). -/
def scalarQueueOk (q : QNum) : Bool := q.getLsbD 2

/-- A vector queue, q0 to q3 (R181). -/
def vectorQueueOk (q : QNum) : Bool := !q.getLsbD 2

/-- A BAR scope: CLUSTER, DIE, PKG or GRANT (R317). -/
def barScopeOk : Scope → Bool
  | .cluster | .die | .pkg | .grant => true
  | .core | .sys => false

/-- A commit scope: DIE, PKG or GRANT (R345). -/
def commitScopeOk : Scope → Bool
  | .die | .pkg | .grant => true
  | .core | .cluster | .sys => false

/-- An element type that VTYPE may hold (R264). -/
def etOk : Fmt → Bool
  | .e2m1 | .i64 | .n64 => false
  | _ => true

/-- A CSR number of the table of R195. -/
def csrKnown (n : BitVec 10) : Bool :=
  let n := n.toNat
  n ≤ 3 || (8 ≤ n && n ≤ 0x0D) || n == 0x10 || n == 0x11 || n == 0x18 || (0x20 ≤ n && n ≤ 0x24) ||
    n == 0x28 || n == 0x29 || (0x200 ≤ n && n ≤ 0x205) || (0x210 ≤ n && n ≤ 0x216)

/-- A CSR number whose CSRW column in R195 is not "no". -/
def csrWritable (n : BitVec 10) : Bool :=
  csrKnown n && !(n.toNat ≤ 3 || n.toNat == 0x18 || n.toNat == 0x22)

/-- The operand pair of an ordered AMO (R216): with .ord the b field is even, 2 to 14. -/
def amoOk (o : AmoOrd) (b : SReg) : Bool :=
  match o with
  | .ord => evenOk b
  | .none | .acq | .rel => true

/-- The A pair of an MMA or MMAT: with A pair 0, TA and HOLD are 0 (R244). -/
def heldOk (a : Pair) (ta hold : Bool) : Bool := a != 0 || (!ta && !hold)

/-- The v field of a vector memory form: a vector queue when Q = 1 (R231). -/
def vmemRegOk (v : VReg) (queue : Bool) : Bool := !queue || v.toNat < 4

/-- The imm6 field of VLD and VST: in tile mode a pair 1 to 7 and an increment of 0 or 1 (R231). -/
def vmemImmOk (imm : BitVec 6) (tile : Bool) : Bool :=
  !tile || (imm.extractLsb' 3 3 != 0 && (imm.extractLsb' 0 3).toNat ≤ 1)

/-- A well-formed instruction or step. -/
def Instr.wf : Instr → Bool
  | .spush _ q _ | .spop _ _ q | .bqz _ q _ | .bqnz _ q _ => scalarQueueOk q
  | .vpush _ _ q _ | .vpop _ _ q _ => vectorQueueOk q
  | .mark _ eng _ => eng != 0
  | .bar _ scope => barScopeOk scope
  | .csrr _ _ n => csrKnown n
  | .csrw _ _ n => csrWritable n
  | .amoadd _ o _ _ b | .amoand _ o _ _ b | .amoor _ o _ _ b | .amoxor _ o _ _ b | .amomin _ o _ _ b
  | .amomax _ o _ _ b | .amominn _ o _ _ b | .amomaxn _ o _ _ b | .amoxchg _ o _ _ b | .amocas _ o _ _ b
  | .amoincb _ o _ _ b | .amofadd _ o _ _ b => amoOk o b
  | .tld _ a b _ _ _ | .tgath _ a b _ _ _ | .tst _ a b _ _ _ | .tstash _ a b _ _ _ | .tscat _ a b _ _ _
  | .tcopy _ a b _ _ _ | .tdedup _ a b _ _ _ | .talias _ a b _ _ _ => pairOk a && pairOk b
  | .tldas _ a b s _ _ scope | .tcommit _ a b s _ _ scope => pairOk a && pairOk b && evenOk s && commitScopeOk scope
  | .tredst _ a b s _ _ => pairOk a && pairOk b && evenOk s
  | .tfill _ a s _ _ _ => pairOk a && evenOk s
  | .tpref _ a _ _ _ | .tpromo _ a _ _ _ | .tinfo _ a _ _ => pairOk a
  | .cnarrow _ d a _ | .cperm _ d a _ => pairOk d && pairOk a
  | .cget _ _ a sel => pairOk a && decide (sel.toNat ≤ 6)
  | .ctag _ _ a => pairOk a
  | .mma _ _ a b _ _ _ _ ta hold _ => pairOk b && heldOk a ta hold
  | .mmat _ _ a b _ _ _ _ ta hold _ _ _ _ => pairOk b && heldOk a ta hold
  | .macc _ _ c _ _ _ => pairOk c
  | .mdrain _ _ d _ _ _ _ _ => pairOk d
  | .vquant _ d _ _ _ => !d.getLsbD 0
  | .vdeq _ _ a _ _ => !a.getLsbD 0
  | .vcfg _ et _ => etOk et
  | .vld _ v _ imm _ tile queue | .vst _ v _ imm _ tile queue => vmemRegOk v queue && vmemImmOk imm tile
  | .vldg _ v _ _ _ queue | .vsts _ v _ _ _ queue => vmemRegOk v queue
  | .publ _ _ a _ scope => pairOk a && commitScopeOk scope
  | .clkr _ d => evenOk d
  | _ => true

/-- Whether the instruction has an encoding (rows 0 to 194 of the opcode table). -/
def Instr.encoded : Instr → Bool
  | .qselWrite _ | .rcfgWrite _ | .fqheadWrite _ | .submit _ | .tapselWrite _ | .inval _ | .invalComplete
  | .mgmtRegisterWrite _ _ | .ownerNew | .ownerDel | .setRoot | .setTtb | .keyLoad | .keyUse | .keyRetire | .exportWin
  | .revoke | .importWin | .unimport | .sigPolicy | .errRead | .quote | .mailboxResult | .hostRawAccess _ _ _ _
  | .tileApertureRead _ _ | .tileApertureWrite _ _ | .outsideAgentRead _ _ _ | .peerRequest _ _ _ | .dispatch
  | .probeAck _ | .probeTimeout _ | .gangStart _ | .grantRelease _ | .launchAgeing _ | .preemptSave | .safeHoldRelease
  | .resume _ | .faultEntryWrite _ | .faultResume _ | .wheelStall | .uintDelivery | .machineError
  | .copyEngineCompletion _ | .matrixCommandCompletion | .orderedRequestArrival _ | .aonWriteHold _ | .queueSlotFill _ _
  | .barrierComplete _ | .markerHead _ | .beacon _ _ _ _ | .floorReport _ _ _ | .versionCurrent _ | .flitReceived _ _
  | .linkDown _ | .linkTraining _ _ _ | .tagFlit _ _ _ _ | .transferRevoked _ | .throttle _ | .thermalShutdown _
  | .boot _ | .dieReset _ | .clockWide | .knownFloorPassesStamp _ _ => false
  | _ => true

end Sys2Proof
end

