-- ==== Sys2Proof/Decode.lean ====
section
/-!
DEFINITION. Decode.lean: from instruction words to instructions and back (spec/06_streams_and_words.md R141 to R145 and
the encoding diagram of each entry). `decode` is total and rejects by name; every rejection is ILLEGAL_ENCODING (R143).
`encode` is written from the same diagrams.
-/
namespace Sys2Proof

/-- Why a word is not an instruction (R143). -/
inductive DecodeError where
  /-- The major opcode is 0x00 or reserved. -/
  | majorOpcode
  /-- The function code, long opcode or sub-function is not assigned. -/
  | functionCode
  /-- An RZ field or a zero field is non-zero. -/
  | reservedField
  /-- A field holds a value that its entry forbids. -/
  | forbiddenField
  /-- The second word has a non-zero Wheel nibble. -/
  | secondWheel
  /-- There are too few bytes for the instruction. -/
  | truncated
  deriving DecidableEq, Repr

/-- Field [lo + len - 1 : lo] of a word (R1). -/
def fld (w : IWord) (lo len : Nat) : BitVec len := w.extractLsb' lo len

/-- The Wheel bits of a word (R141). -/
def wheelOf (w : IWord) : Wheel :=
  ⟨w.getLsbD 31, w.getLsbD 30, w.getLsbD 29, w.getLsbD 28⟩

/-- Require a check of R143 before giving a decoded instruction. -/
def need (e : DecodeError) (ok : Bool) (r : Except DecodeError Instr) : Except DecodeError Instr :=
  if ok then r else .error e

/-- Require that RZ bits are zero (R6, R143). -/
def needZero (w : IWord) (lo len : Nat) (r : Except DecodeError Instr) : Except DecodeError Instr :=
  need .reservedField ((fld w lo len) == 0) r

/-- Require the entry's own field limits. -/
def needWf (i : Instr) : Except DecodeError Instr := need .forbiddenField i.wf (.ok i)

/-- A format code of R20. -/
def fmtOfCode : Nat → Option Fmt
  | 0 => some .fp32 | 1 => some .bf16 | 2 => some .f16 | 3 => some .e4m3 | 4 => some .e5m2 | 5 => some .e2m1
  | 6 => some .i8 | 7 => some .i16 | 8 => some .i32 | 9 => some .i64 | 10 => some .n8 | 11 => some .n16
  | 12 => some .n32 | 13 => some .n64 | _ => none

/-- The code of a format (R20). -/
def Fmt.code : Fmt → Nat
  | .fp32 => 0 | .bf16 => 1 | .f16 => 2 | .e4m3 => 3 | .e5m2 => 4 | .e2m1 => 5 | .i8 => 6 | .i16 => 7 | .i32 => 8
  | .i64 => 9 | .n8 => 10 | .n16 => 11 | .n32 => 12 | .n64 => 13

/-- A rounding field: a mode of R26, `some none` for DYN, and nothing for codes 5, 6 and above 7. -/
def modeOfCode : Nat → Option (Option RMode)
  | 0 => some (some .rne) | 1 => some (some .rz) | 2 => some (some .rup) | 3 => some (some .rdn) | 4 => some (some .sr)
  | 7 => some none | _ => none

/-- The code of a rounding field (R26). -/
def modeCode : Option RMode → Nat
  | some .rne => 0 | some .rz => 1 | some .rup => 2 | some .rdn => 3 | some .sr => 4 | none => 7

/-- A scope code of R300. -/
def scopeOfCode : Nat → Option Scope
  | 0 => some .core | 1 => some .cluster | 2 => some .die | 3 => some .pkg | 4 => some .grant | 5 => some .sys
  | _ => none

/-- The code of a scope (R300). -/
def Scope.code : Scope → Nat
  | .core => 0 | .cluster => 1 | .die => 2 | .pkg => 3 | .grant => 4 | .sys => 5

/-- The ordering option of an atomic (R211). -/
def ordOfCode : BitVec 2 → AmoOrd
  | 0 => .none | 1 => .acq | 2 => .rel | 3 => .ord

/-- The code of an ordering option (R211). -/
def AmoOrd.code : AmoOrd → BitVec 2
  | .none => 0 | .acq => 1 | .rel => 2 | .ord => 3

/-- The accumulator that a two-bit field names (R142). -/
def accOfCode : BitVec 2 → AccId
  | 0 => .acc0 | 1 => .acc1 | 2 => .acc2 | 3 => .accv

/-- The code of an accumulator field (R142). -/
def AccId.code : AccId → BitVec 2
  | .acc0 => 0 | .acc1 => 1 | .acc2 => 2 | .accv => 3

/-- A TFILL kind (R218). -/
def fillOfCode : Nat → Option FillKind
  | 1 => some .zero | 2 => some .const | 3 => some .ramp | 4 => some .had | _ => none

/-- The code of a TFILL kind (R218). -/
def FillKind.code : FillKind → BitVec 3
  | .zero => 1 | .const => 2 | .ramp => 3 | .had => 4

/-- A mask kind of MMAT (R254). -/
def maskOfCode : BitVec 2 → Option MaskKind
  | 0 => some .zero | 1 => some .ninf | 2 => some .keep | 3 => none

/-- The code of a mask kind (R254). -/
def MaskKind.code : MaskKind → BitVec 2
  | .zero => 0 | .ninf => 1 | .keep => 2

/-- A quantization mode of MDRAIN (R257). -/
def quantOfCode : BitVec 2 → Option QuantKind
  | 0 => some .none | 1 => some .tile | 2 => some .row | 3 => Option.none

/-- The code of a quantization mode (R257). -/
def QuantKind.code : QuantKind → BitVec 2
  | .none => 0 | .tile => 1 | .row => 2

/-- A capability pair held in a four-bit field: 1 to 7, or nothing (R188, R351). -/
def pairOfField (b : BitVec 4) : Option Pair :=
  if b != 0 && !b.getLsbD 3 then some (b.extractLsb' 0 3) else none

/-- A queue held in a four-bit field: 0 to 7, or nothing (R142). -/
def queueOfField (b : BitVec 4) : Option QNum :=
  if b.getLsbD 3 then none else some (b.extractLsb' 0 3)

/-- A predicate register held in a five-bit field: 0 to 7, or nothing (R268). -/
def predOfField (b : BitVec 5) : Option KReg :=
  if b.extractLsb' 3 2 == 0 then some (b.extractLsb' 0 3) else none

/-- Give an instruction made from a field that may be forbidden. -/
def withField {α : Type} (o : Option α) (f : α → Except DecodeError Instr) : Except DecodeError Instr :=
  match o with
  | some x => f x
  | none => .error .forbiddenField

/-- Major 0x01 (R167). -/
def decodeAlu (w : IWord) : Except DecodeError Instr :=
  let wh := wheelOf w
  let d := fld w 18 4
  let a := fld w 14 4
  let b := fld w 10 4
  needZero w 0 4 <|
    match (fld w 4 6).toNat with
    | 0 => .ok (.add wh d a b)
    | 1 => .ok (.sub wh d a b)
    | 2 => .ok (.mul wh d a b)
    | 3 => .ok (.mulh wh d a b)
    | 4 => .ok (.mulhn wh d a b)
    | 5 => .ok (.div wh d a b)
    | 6 => .ok (.divn wh d a b)
    | 7 => .ok (.rem wh d a b)
    | 8 => .ok (.remn wh d a b)
    | 9 => .ok (.and wh d a b)
    | 10 => .ok (.or wh d a b)
    | 11 => .ok (.xor wh d a b)
    | 12 => .ok (.shl wh d a b)
    | 13 => .ok (.shr wh d a b)
    | 14 => .ok (.sra wh d a b)
    | 15 => .ok (.slt wh d a b)
    | 16 => .ok (.sltn wh d a b)
    | 17 => .ok (.min wh d a b)
    | 18 => .ok (.max wh d a b)
    | 19 => .ok (.minn wh d a b)
    | 20 => .ok (.maxn wh d a b)
    | 21 => needZero w 10 4 (.ok (.clz wh d a))
    | 22 => needZero w 10 4 (.ok (.popc wh d a))
    | _ => .error .functionCode

/-- Major 0x18 (R180). -/
def decodeQueue (w : IWord) : Except DecodeError Instr :=
  let wh := wheelOf w
  let d := fld w 18 4
  let a := fld w 14 4
  needZero w 0 4 <| needZero w 10 4 <|
    match (fld w 4 6).toNat with
    | 0 => withField (queueOfField d) fun q => needWf (.spush wh q a)
    | 1 => withField (queueOfField a) fun q => needWf (.spop wh d q)
    | 2 => withField (queueOfField a) fun q => .ok (.qcnt wh d q)
    | _ => .error .functionCode

/-- Major 0x19 (R186). -/
def decodeSpill (w : IWord) : Except DecodeError Instr :=
  let wh := wheelOf w
  needZero w 6 8 <|
    match (fld w 14 4).toNat with
    | 0 => .ok (.sspill wh (fld w 18 4) (fld w 0 6))
    | 1 => .ok (.sfill wh (fld w 18 4) (fld w 0 6))
    | _ => .error .functionCode

/-- Major 0x1A (R180). -/
def decodeQueueBranch (w : IWord) : Except DecodeError Instr :=
  let wh := wheelOf w
  match (fld w 14 4).toNat with
  | 0 => withField (queueOfField (fld w 18 4)) fun q => needWf (.bqz wh q (fld w 0 14))
  | 1 => withField (queueOfField (fld w 18 4)) fun q => needWf (.bqnz wh q (fld w 0 14))
  | _ => .error .functionCode

/-- Major 0x1B (R180, R187). -/
def decodeVecQueue (w : IWord) : Except DecodeError Instr :=
  let wh := wheelOf w
  let v := fld w 17 5
  match (fld w 0 4).toNat with
  | 0 => needZero w 7 6 <| withField (queueOfField (fld w 13 4)) fun q => needWf (.vpush wh v q (fld w 4 3))
  | 1 => needZero w 7 6 <| withField (queueOfField (fld w 13 4)) fun q => needWf (.vpop wh v q (fld w 4 3))
  | 2 => needZero w 4 3 <| needZero w 13 4 <| need .forbiddenField (!w.getLsbD 12) (.ok (.vspill wh v (fld w 7 5)))
  | 3 => needZero w 4 3 <| needZero w 13 4 <| need .forbiddenField (!w.getLsbD 12) (.ok (.vfill wh v (fld w 7 5)))
  | _ => .error .functionCode

/-- Major 0x1C (R314 to R321). -/
def decodeSync (w : IWord) : Except DecodeError Instr :=
  let wh := wheelOf w
  let d := fld w 18 4
  let a := fld w 14 4
  match (fld w 0 4).toNat with
  | 0 => needZero w 4 18 (.ok (.nop wh))
  | 1 => needZero w 14 8 (.ok (.safe wh (fld w 4 10)))
  | 2 => needZero w 4 18 (.ok (.halt wh))
  | 3 => needZero w 4 18 (.ok (.rdv wh))
  | 4 => needZero w 11 11 <| withField (scopeOfCode (fld w 8 3).toNat) fun sc => needWf (.mark wh (fld w 4 4) sc)
  | 5 => needZero w 4 18 (.ok (.join wh))
  | 6 => needZero w 7 15 <| withField (scopeOfCode (fld w 4 3).toNat) fun sc => needWf (.bar wh sc)
  | 7 => needZero w 4 10 (.ok (.waitc wh d a))
  | 8 => needZero w 18 4 <| needZero w 4 10 (.ok (.disc wh a))
  | _ => .error .functionCode

/-- Major 0x1D (R193, R194, R327, R367, R368, R374). -/
def decodeSystem (w : IWord) : Except DecodeError Instr :=
  let wh := wheelOf w
  let d := fld w 18 4
  let a := fld w 14 4
  match (fld w 0 4).toNat with
  | 0 => needZero w 4 10 (.ok (.trap wh d a))
  | 1 => needZero w 4 18 (.ok (.uret wh))
  | 2 => needZero w 14 4 (needWf (.csrr wh d (fld w 4 10)))
  | 3 => needZero w 18 4 (needWf (.csrw wh a (fld w 4 10)))
  | 4 => needZero w 5 9 (.ok (.fqack wh d a (w.getLsbD 4)))
  | 5 => needZero w 8 6 (.ok (.sret wh d a (fld w 4 4)))
  | 6 => needZero w 4 10 (.ok (.launch wh d a))
  | _ => .error .functionCode

/-- Major 0x1E (R173, R177, R178). -/
def decodeLoop (w : IWord) : Except DecodeError Instr :=
  let wh := wheelOf w
  match (fld w 14 4).toNat with
  | 0 => .ok (.loop wh (fld w 18 4) (fld w 0 14))
  | 1 => needZero w 18 4 (.ok (.endl wh (fld w 0 14)))
  | 2 => needZero w 0 14 (.ok (.jr wh (fld w 18 4)))
  | _ => .error .functionCode

/-- Major 0x20 (R209). -/
def decodeLoad (w : IWord) : Except DecodeError Instr :=
  let wh := wheelOf w
  let d := fld w 18 4
  let a := fld w 14 4
  let off := fld w 0 11
  match (fld w 11 3).toNat with
  | 0 => .ok (.ldb wh d a off)
  | 1 => .ok (.ldbn wh d a off)
  | 2 => .ok (.ldh wh d a off)
  | 3 => .ok (.ldhn wh d a off)
  | 4 => .ok (.ldw wh d a off)
  | 5 => .ok (.ldwn wh d a off)
  | 6 => .ok (.ldd wh d a off)
  | _ => .error .functionCode

/-- Major 0x21 (R209). -/
def decodeStore (w : IWord) : Except DecodeError Instr :=
  let wh := wheelOf w
  let d := fld w 18 4
  let a := fld w 14 4
  let off := fld w 0 11
  match (fld w 11 3).toNat with
  | 0 => .ok (.stb wh d a off)
  | 1 => .ok (.sth wh d a off)
  | 2 => .ok (.stw wh d a off)
  | 3 => .ok (.std wh d a off)
  | _ => .error .functionCode

/-- Major 0x22 (R211). -/
def decodeAtomic (w : IWord) : Except DecodeError Instr :=
  let wh := wheelOf w
  let d := fld w 18 4
  let a := fld w 14 4
  let b := fld w 10 4
  let o := ordOfCode (fld w 8 2)
  needZero w 0 4 <|
    match (fld w 4 4).toNat with
    | 0 => needWf (.amoadd wh o d a b)
    | 1 => needWf (.amoand wh o d a b)
    | 2 => needWf (.amoor wh o d a b)
    | 3 => needWf (.amoxor wh o d a b)
    | 4 => needWf (.amomin wh o d a b)
    | 5 => needWf (.amomax wh o d a b)
    | 6 => needWf (.amominn wh o d a b)
    | 7 => needWf (.amomaxn wh o d a b)
    | 8 => needWf (.amoxchg wh o d a b)
    | 9 => needWf (.amocas wh o d a b)
    | 10 => needWf (.amoincb wh o d a b)
    | 11 => needWf (.amofadd wh o d a b)
    | _ => .error .functionCode

/-- Major 0x28 (R218, R349). -/
def decodeTileLoad (w : IWord) : Except DecodeError Instr :=
  let wh := wheelOf w
  let a := fld w 19 3
  let b := fld w 16 3
  let s := fld w 12 4
  let cc := fld w 8 4
  let u := w.getLsbD 3
  match (fld w 4 4).toNat with
  | 0 => needZero w 0 3 (needWf (.tld wh a b s cc u))
  | 1 => withField (scopeOfCode (fld w 0 3).toNat) fun sc => needWf (.tldas wh a b s cc u sc)
  | 2 => needZero w 0 3 <| needZero w 16 3 (needWf (.tpref wh a s cc u))
  | 3 => needZero w 0 3 (needWf (.tgath wh a b s cc u))
  | _ => .error .functionCode

/-- Major 0x29 (R218, R345). -/
def decodeTileStore (w : IWord) : Except DecodeError Instr :=
  let wh := wheelOf w
  let a := fld w 19 3
  let b := fld w 16 3
  let s := fld w 12 4
  let cc := fld w 8 4
  let u := w.getLsbD 3
  match (fld w 4 4).toNat with
  | 0 => needZero w 0 3 (needWf (.tst wh a b s cc u))
  | 1 => needZero w 0 3 (needWf (.tstash wh a b s cc u))
  | 2 => needZero w 0 3 (needWf (.tscat wh a b s cc u))
  | 3 => needZero w 0 3 (needWf (.tredst wh a b s cc u))
  | 4 => withField (scopeOfCode (fld w 0 3).toNat) fun sc => needWf (.tcommit wh a b s cc u sc)
  | _ => .error .functionCode

/-- Major 0x2A (R218). -/
def decodeTileCopy (w : IWord) : Except DecodeError Instr :=
  let wh := wheelOf w
  let a := fld w 19 3
  let b := fld w 16 3
  let s := fld w 12 4
  let cc := fld w 8 4
  let u := w.getLsbD 3
  match (fld w 4 4).toNat with
  | 0 => needZero w 0 3 (needWf (.tcopy wh a b s cc u))
  | 1 => needZero w 16 3 <| withField (fillOfCode (fld w 0 3).toNat) fun kd => needWf (.tfill wh a s cc u kd)
  | 2 => needZero w 0 3 (needWf (.tdedup wh a b s cc u))
  | 3 => needZero w 0 3 <| needZero w 16 3 (needWf (.tpromo wh a s cc u))
  | 4 => needZero w 0 3 (needWf (.talias wh a b s cc u))
  | _ => .error .functionCode

/-- Major 0x2B (R218, R226). -/
def decodeTileInfo (w : IWord) : Except DecodeError Instr :=
  needZero w 16 3 <| needZero w 8 4 <| needZero w 3 1 <|
    match (fld w 4 4).toNat with
    | 0 => needWf (.tinfo (wheelOf w) (fld w 19 3) (fld w 12 4) (fld w 0 3))
    | _ => .error .functionCode

/-- Major 0x2C (R188). -/
def decodeCap (w : IWord) : Except DecodeError Instr :=
  let wh := wheelOf w
  let d := fld w 18 4
  let a := fld w 14 4
  let b := fld w 10 4
  needZero w 0 4 <|
    match (fld w 4 6).toNat with
    | 0 => withField (pairOfField d) fun pd => withField (pairOfField a) fun pa => .ok (.cnarrow wh pd pa b)
    | 1 => withField (pairOfField d) fun pd => withField (pairOfField a) fun pa => .ok (.cperm wh pd pa b)
    | 2 => withField (pairOfField a) fun pa => needWf (.cget wh d pa b)
    | 3 => withField (pairOfField a) fun pa => needZero w 10 4 (.ok (.ctag wh d pa))
    | _ => .error .functionCode

/-- Major 0x30 (R245). -/
def decodeMma (w : IWord) : Except DecodeError Instr :=
  let wh := wheelOf w
  let acc := accOfCode (fld w 20 2)
  let cc := fld w 7 4
  let u := w.getLsbD 6
  needZero w 4 2 (needWf (.mma wh acc (fld w 17 3) (fld w 14 3) (fld w 11 3) cc u (w.getLsbD 3) (w.getLsbD 2)
    (w.getLsbD 1) (w.getLsbD 0)))

/-- Major 0x31 (R255). -/
def decodeMacc (w : IWord) : Except DecodeError Instr :=
  let wh := wheelOf w
  let acc := accOfCode (fld w 20 2)
  let cc := fld w 7 4
  let u := w.getLsbD 6
  needZero w 14 6 <| needZero w 1 5 (needWf (.macc wh acc (fld w 11 3) cc u (w.getLsbD 0)))

/-- Major 0x32 (R256). -/
def decodeMzero (w : IWord) : Except DecodeError Instr :=
  let wh := wheelOf w
  let acc := accOfCode (fld w 20 2)
  let cc := fld w 7 4
  let u := w.getLsbD 6
  needZero w 11 9 <| needZero w 0 6 (.ok (.mzero wh acc cc u))

/-- Major 0x33 (R257). -/
def decodeMdrain (w : IWord) : Except DecodeError Instr :=
  let wh := wheelOf w
  let acc := accOfCode (fld w 20 2)
  let cc := fld w 7 4
  let u := w.getLsbD 6
  needZero w 11 6 <| withField (modeOfCode (fld w 3 3).toNat) fun md => withField (quantOfCode (fld w 1 2)) fun q =>
    needWf (.mdrain wh acc (fld w 17 3) cc u md q (w.getLsbD 0))

/-- Major 0x34 (R260): the op field takes 0 to 3. -/
def decodeMstat (w : IWord) : Except DecodeError Instr :=
  let wh := wheelOf w
  needZero w 7 13 <| need .forbiddenField (!w.getLsbD 2)
    (.ok (.mstat wh (accOfCode (fld w 20 2)) (fld w 3 4) (w.getLsbD 1) (w.getLsbD 0)))

/-- Major 0x35 (R261). -/
def decodeMmov (w : IWord) : Except DecodeError Instr :=
  let wh := wheelOf w
  let acc := accOfCode (fld w 20 2)
  let cc := fld w 7 4
  let u := w.getLsbD 6
  needZero w 11 9 <| needZero w 3 3 (.ok (.mmov wh acc (accOfCode (fld w 0 2)) cc u (w.getLsbD 2)))

/-- Major 0x38 (R272). -/
def decodeVecFloat (w : IWord) : Except DecodeError Instr :=
  let wh := wheelOf w
  let d := fld w 17 5
  let a := fld w 12 5
  let b := fld w 7 5
  let k := fld w 4 3
  match (fld w 0 4).toNat with
  | 0 => .ok (.vadd wh d a b k)
  | 1 => .ok (.vsub wh d a b k)
  | 2 => .ok (.vmul wh d a b k)
  | 3 => .ok (.vfma wh d a b k)
  | 4 => .ok (.vfms wh d a b k)
  | 5 => .ok (.vfnma wh d a b k)
  | 6 => .ok (.vmin wh d a b k)
  | 7 => .ok (.vmax wh d a b k)
  | 8 => needZero w 7 5 (.ok (.vabs wh d a k))
  | 9 => needZero w 7 5 (.ok (.vneg wh d a k))
  | 10 => .ok (.vdiv wh d a b k)
  | _ => .error .functionCode

/-- Major 0x39 (R273, R274). -/
def decodeVecSpecial (w : IWord) : Except DecodeError Instr :=
  let wh := wheelOf w
  let d := fld w 17 5
  let a := fld w 12 5
  let b := fld w 7 5
  let k := fld w 4 3
  match (fld w 0 4).toNat with
  | 0 => needZero w 7 5 (.ok (.vsqrt wh d a k))
  | 1 => needZero w 7 5 (.ok (.vrsq wh d a k))
  | 2 => needZero w 7 5 (.ok (.vrcp wh d a k))
  | 3 => needZero w 7 5 (.ok (.vexp2 wh d a k))
  | 4 => needZero w 7 5 (.ok (.vlog2 wh d a k))
  | 5 => needZero w 7 5 (.ok (.vtanh wh d a k))
  | 6 => needZero w 7 5 (.ok (.vsigm wh d a k))
  | 7 => withField (predOfField d) fun kd => .ok (.vceq wh kd a b k)
  | 8 => withField (predOfField d) fun kd => .ok (.vcne wh kd a b k)
  | 9 => withField (predOfField d) fun kd => .ok (.vclt wh kd a b k)
  | 10 => withField (predOfField d) fun kd => .ok (.vcle wh kd a b k)
  | 11 => withField (predOfField d) fun kd => .ok (.vcun wh kd a b k)
  | _ => .error .functionCode

/-- Major 0x3A (R275, R276). -/
def decodeVecInt (w : IWord) : Except DecodeError Instr :=
  let wh := wheelOf w
  let d := fld w 17 5
  let a := fld w 12 5
  let b := fld w 7 5
  let s := fld w 8 4
  let k := fld w 4 3
  match (fld w 0 4).toNat with
  | 0 => .ok (.viadd wh d a b k)
  | 1 => .ok (.visub wh d a b k)
  | 2 => .ok (.vimul wh d a b k)
  | 3 => .ok (.vand wh d a b k)
  | 4 => .ok (.vor wh d a b k)
  | 5 => .ok (.vxor wh d a b k)
  | 6 => .ok (.vshl wh d a b k)
  | 7 => .ok (.vshr wh d a b k)
  | 8 => .ok (.vsra wh d a b k)
  | 9 => .ok (.vimin wh d a b k)
  | 10 => .ok (.vimax wh d a b k)
  | 11 => needZero w 17 5 <| needZero w 7 1 (.ok (.vrsum wh a s k))
  | 12 => needZero w 17 5 <| needZero w 7 1 (.ok (.vrmax wh a s k))
  | 13 => needZero w 17 5 <| needZero w 7 1 (.ok (.vrmin wh a s k))
  | 14 => needZero w 17 5 <| needZero w 7 1 (.ok (.vrargmx wh a s k))
  | _ => .error .functionCode

/-- Major 0x3B (R266, R277, R279 to R283). -/
def decodeVecPred (w : IWord) : Except DecodeError Instr :=
  let wh := wheelOf w
  let d := fld w 17 5
  let a := fld w 12 5
  let b := fld w 7 5
  let s := fld w 8 4
  let k := fld w 4 3
  match (fld w 0 4).toNat with
  | 0 => withField (predOfField d) fun kd => withField (predOfField a) fun ka => withField (predOfField b) fun kb =>
      .ok (.kand wh kd ka kb k)
  | 1 => withField (predOfField d) fun kd => withField (predOfField a) fun ka => withField (predOfField b) fun kb =>
      .ok (.kor wh kd ka kb k)
  | 2 => withField (predOfField d) fun kd => withField (predOfField a) fun ka => withField (predOfField b) fun kb =>
      .ok (.kxor wh kd ka kb k)
  | 3 => needZero w 7 5 <| withField (predOfField d) fun kd => withField (predOfField a) fun ka =>
      .ok (.knot wh kd ka k)
  | 4 => needZero w 17 5 <| needZero w 7 1 <| withField (predOfField a) fun ka => .ok (.kpop wh ka s k)
  | 5 => needZero w 17 5 <| needZero w 7 1 <| withField (predOfField a) fun ka => .ok (.kfirst wh ka s k)
  | 6 => needZero w 12 5 <| needZero w 7 1 <| withField (predOfField d) fun kd => .ok (.kset wh kd s k)
  | 7 => needZero w 7 1 (.ok (.vcvt wh d a s k))
  | 8 => needZero w 7 1 (needWf (.vquant wh d a s k))
  | 9 => needZero w 7 1 (needWf (.vdeq wh d a s k))
  | 10 => needZero w 4 8 <| withField (fmtOfCode (fld w 17 5).toNat) fun et =>
      withField (modeOfCode (fld w 12 5).toNat) fun md => needWf (.vcfg wh et md)
  | _ => .error .functionCode

/-- Major 0x3C (R278). -/
def decodeVecPerm (w : IWord) : Except DecodeError Instr :=
  let wh := wheelOf w
  let d := fld w 17 5
  let a := fld w 12 5
  let b := fld w 7 5
  let s := fld w 8 4
  let k := fld w 4 3
  match (fld w 0 4).toNat with
  | 0 => needZero w 7 5 (.ok (.vcomp wh d a k))
  | 1 => needZero w 7 5 (.ok (.vexpd wh d a k))
  | 2 => .ok (.vperm wh d a b k)
  | 3 => needZero w 7 1 (.ok (.vslide wh d a s k))
  | 4 => needZero w 7 1 <| needZero w 12 5 (.ok (.vbcast wh d s k))
  | 5 => needZero w 7 1 <| needZero w 12 5 (.ok (.viota wh d s k))
  | 6 => .ok (.vsel wh d a b k)
  | 7 => needZero w 7 5 (.ok (.vmov wh d a k))
  | 8 => needZero w 17 5 <| needZero w 7 1 <| needZero w 4 3 (.ok (.vext wh a s))
  | 9 => needZero w 7 1 (.ok (.vins wh d a s k))
  | _ => .error .functionCode

/-- Major 0x3D (R231). -/
def decodeVecMem (w : IWord) : Except DecodeError Instr :=
  let wh := wheelOf w
  let v := fld w 17 5
  let a := fld w 13 4
  let k := fld w 4 3
  let t := w.getLsbD 3
  let q := w.getLsbD 2
  match (fld w 0 2).toNat with
  | 0 => needWf (.vld wh v a (fld w 7 6) k t q)
  | 1 => needZero w 12 1 <| needZero w 3 1 (needWf (.vldg wh v a (fld w 7 5) k q))
  | 2 => needWf (.vst wh v a (fld w 7 6) k t q)
  | _ => needZero w 12 1 <| needZero w 3 1 (needWf (.vsts wh v a (fld w 7 5) k q))

/-- Major 0x3E (R290). -/
def decodeMisc (w : IWord) : Except DecodeError Instr :=
  let wh := wheelOf w
  match (fld w 0 4).toNat with
  | 0 => needZero w 7 1 (.ok (.qrn wh (fld w 17 5) (fld w 12 5) (fld w 8 4) (fld w 4 3)))
  | 1 => needZero w 12 10 (.ok (.qcfg wh (fld w 4 8)))
  | 2 => needZero w 18 4 <| needZero w 10 4 (.ok (.qldt wh (fld w 14 4) (fld w 4 6)))
  | 3 => needZero w 7 1 (.ok (.vtok wh (fld w 17 5) (fld w 12 5) (fld w 8 4) (fld w 4 3)))
  | 4 => needZero w 18 4 <| needZero w 4 10 (.ok (.pvset wh (fld w 14 4)))
  | 5 => needZero w 4 18 (.ok (.tokbnd wh))
  | 6 => needZero w 11 3 <| withField (pairOfField (fld w 14 4)) fun pa => withField (scopeOfCode (fld w 8 3).toNat) fun sc =>
      needWf (.publ wh (fld w 18 4) pa (fld w 4 4) sc)
  | 7 => needZero w 4 14 (needWf (.clkr wh (fld w 18 4)))
  | 8 => needZero w 4 18 (.ok (.cwait wh))
  | _ => .error .functionCode

/-- Major 0x3F: the long forms, whose second word is `w2` (R145, R170, R213, R254). -/
def decodeLong (w w2 : IWord) : Except DecodeError Instr :=
  let wh := wheelOf w
  need .secondWheel ((fld w2 28 4) == 0) <|
    match (fld w2 22 6).toNat with
    | 1 => .ok (.li64 wh (fld w 18 4) (fld w2 0 22 ++ fld w 0 18))
    | 2 => needZero w 0 10 <| needZero w2 16 6 (.ok (.obopen wh (fld w 18 4) (fld w 14 4) (fld w 10 4) (fld w2 0 16)))
    | 3 => needZero w 4 2 <| needZero w2 16 3 <| withField (maskOfCode (fld w2 20 2)) fun mk =>
        needWf (.mmat wh (accOfCode (fld w 20 2)) (fld w 17 3) (fld w 14 3) (fld w 11 3) (fld w 7 4) (w.getLsbD 6)
          (w.getLsbD 3) (w.getLsbD 2) (w.getLsbD 1) (w.getLsbD 0) mk (w2.getLsbD 19) (fld w2 0 16))
    | _ => .error .functionCode

/-- Decode a one-word instruction by its major opcode (R144). -/
def decodeShort (w : IWord) : Except DecodeError Instr :=
  let wh := wheelOf w
  let d := fld w 18 4
  let a := fld w 14 4
  let i14 := fld w 0 14
  match (fld w 22 6).toNat with
  | 0x01 => decodeAlu w
  | 0x02 => .ok (.addi wh d a i14)
  | 0x03 => .ok (.andi wh d a i14)
  | 0x04 => .ok (.ori wh d a i14)
  | 0x05 => .ok (.xori wh d a i14)
  | 0x06 => needZero w 6 8 (.ok (.shli wh d a (fld w 0 6)))
  | 0x07 => needZero w 6 8 (.ok (.shri wh d a (fld w 0 6)))
  | 0x08 => needZero w 6 8 (.ok (.srai wh d a (fld w 0 6)))
  | 0x09 => .ok (.slti wh d a i14)
  | 0x0A => .ok (.sltni wh d a i14)
  | 0x0B => .ok (.lui wh d (fld w 0 18))
  | 0x10 => .ok (.beq wh d a i14)
  | 0x11 => .ok (.bne wh d a i14)
  | 0x12 => .ok (.blt wh d a i14)
  | 0x13 => .ok (.bge wh d a i14)
  | 0x14 => .ok (.bltn wh d a i14)
  | 0x15 => .ok (.bgen wh d a i14)
  | 0x16 => .ok (.jmp wh (fld w 0 22))
  | 0x17 => .ok (.jal wh (fld w 0 22))
  | 0x18 => decodeQueue w
  | 0x19 => decodeSpill w
  | 0x1A => decodeQueueBranch w
  | 0x1B => decodeVecQueue w
  | 0x1C => decodeSync w
  | 0x1D => decodeSystem w
  | 0x1E => decodeLoop w
  | 0x20 => decodeLoad w
  | 0x21 => decodeStore w
  | 0x22 => decodeAtomic w
  | 0x23 => needZero w 0 10 (.ok (.obclose wh d a (fld w 10 4)))
  | 0x28 => decodeTileLoad w
  | 0x29 => decodeTileStore w
  | 0x2A => decodeTileCopy w
  | 0x2B => decodeTileInfo w
  | 0x2C => decodeCap w
  | 0x30 => decodeMma w
  | 0x31 => decodeMacc w
  | 0x32 => decodeMzero w
  | 0x33 => decodeMdrain w
  | 0x34 => decodeMstat w
  | 0x35 => decodeMmov w
  | 0x38 => decodeVecFloat w
  | 0x39 => decodeVecSpecial w
  | 0x3A => decodeVecInt w
  | 0x3B => decodeVecPred w
  | 0x3C => decodeVecPerm w
  | 0x3D => decodeVecMem w
  | 0x3E => decodeMisc w
  | _ => .error .majorOpcode

/-- Whether a first word opens a two-word instruction (R142). -/
def isLong (w : IWord) : Bool := fld w 22 6 == 0x3F

/-- Decode the instruction whose first word is `w` and whose following word is `w2` (read only by a long form). -/
def decodeWords (w w2 : IWord) : Except DecodeError Instr := if isLong w then decodeLong w w2 else decodeShort w

/-- The little-endian value of a list of bytes (R1). -/
def leNat : List Byte → Nat
  | [] => 0
  | b :: bs => b.toNat + 256 * leNat bs

/-- The `n` little-endian bytes of a number (R1). -/
def leBytes : Nat → Nat → List Byte
  | 0, _ => []
  | n + 1, x => BitVec.ofNat 8 x :: leBytes n (x / 256)

/-- Decode from bytes: the instruction and how many bytes it takes, or the reason why there is none (R120, R143). -/
def decode (bs : List Byte) : Except DecodeError (Instr × Nat) :=
  if bs.length < 4 then .error .truncated
  else
    let w : IWord := BitVec.ofNat 32 (leNat (bs.take 4))
    if isLong w then
      if bs.length < 8 then .error .truncated
      else (decodeLong w (BitVec.ofNat 32 (leNat ((bs.drop 4).take 4)))).map (·, 8)
    else (decodeShort w).map (·, 4)

/-- The instruction the decoder reads from the word `w` of `nbits` bits, its words laid out as they stand in memory;
the bits above `nbits`, up to two words, are zero. -/
def decodeTableWord (nbits w : Nat) : Option Instr :=
  match decode (leBytes 8 (w % 2 ^ nbits)) with
  | .ok (i, _) => some i
  | .error _ => none

namespace Enc

/-- A word from its Wheel bits, major opcode and 22-bit body (R141). -/
def mkWord (w : Wheel) (major : BitVec 6) (body : BitVec 22) : IWord :=
  (BitVec.ofBool w.wp ++ BitVec.ofBool w.ws ++ BitVec.ofBool w.sp ++ BitVec.ofBool w.ss ++ major ++ body).cast (by rfl)

/-- Format RR (R142). -/
def rr (w : Wheel) (major : BitVec 6) (d a b : BitVec 4) (fn : BitVec 6) : IWord :=
  mkWord w major (d ++ a ++ b ++ fn ++ (0 : BitVec 4))
/-- Format RI (R142). -/
def ri (w : Wheel) (major : BitVec 6) (d a : BitVec 4) (imm : BitVec 14) : IWord := mkWord w major (d ++ a ++ imm)
/-- The RI form of a six-bit immediate, [13:6] zero (R169, R186). -/
def ri6 (w : Wheel) (major : BitVec 6) (d a : BitVec 4) (imm : BitVec 6) : IWord :=
  mkWord w major (d ++ a ++ (0 : BitVec 8) ++ imm)
/-- Format UI (R142). -/
def ui (w : Wheel) (major : BitVec 6) (d : BitVec 4) (imm : BitVec 18) : IWord := mkWord w major (d ++ imm)
/-- The load and store form: register, base, op and off11 (R209). -/
def mem (w : Wheel) (major : BitVec 6) (d a : BitVec 4) (op : BitVec 3) (off : BitVec 11) : IWord :=
  mkWord w major (d ++ a ++ op ++ off)
/-- The atomic form (R211). -/
def amo (w : Wheel) (o : AmoOrd) (d a b op : BitVec 4) : IWord :=
  mkWord w 0x22 (d ++ a ++ b ++ o.code ++ op ++ (0 : BitVec 4))
/-- Format VV (R142). -/
def vv (w : Wheel) (major : BitVec 6) (d a b : BitVec 5) (k : BitVec 3) (fn : BitVec 4) : IWord :=
  mkWord w major (d ++ a ++ b ++ k ++ fn)
/-- Format VS (R142). -/
def vs (w : Wheel) (major : BitVec 6) (d a : BitVec 5) (s : BitVec 4) (k : BitVec 3) (fn : BitVec 4) : IWord :=
  mkWord w major (d ++ a ++ s ++ (0 : BitVec 1) ++ k ++ fn)
/-- Format VQ with a four-bit function code (R142). -/
def vq (w : Wheel) (v : BitVec 5) (q : BitVec 4) (imm : BitVec 6) (k : BitVec 3) (fn : BitVec 4) : IWord :=
  mkWord w 0x1B (v ++ q ++ imm ++ k ++ fn)
/-- Format VQ of major 0x3D (R231). -/
def vmem (w : Wheel) (v : BitVec 5) (a : BitVec 4) (imm : BitVec 6) (k : BitVec 3) (t q : Bool) (op : BitVec 2) : IWord :=
  mkWord w 0x3D (v ++ a ++ imm ++ k ++ BitVec.ofBool t ++ BitVec.ofBool q ++ op)
/-- Format TC (R142). -/
def tc (w : Wheel) (major : BitVec 6) (a b : BitVec 3) (s cc fn : BitVec 4) (u : Bool) (flags : BitVec 3) : IWord :=
  mkWord w major (a ++ b ++ s ++ cc ++ fn ++ BitVec.ofBool u ++ flags)
/-- Format MX (R142). -/
def mx (w : Wheel) (major : BitVec 6) (acc : AccId) (a b c : BitVec 3) (cc : BitVec 4) (flags : BitVec 7) : IWord :=
  mkWord w major (acc.code ++ a ++ b ++ c ++ cc ++ flags)
/-- Format SY (R142). -/
def sy (w : Wheel) (major : BitVec 6) (d a : BitVec 4) (imm : BitVec 10) (fn : BitVec 4) : IWord :=
  mkWord w major (d ++ a ++ imm ++ fn)
/-- The second word of a long form (R142). -/
def second (lop : BitVec 6) (payload : BitVec 22) : IWord := ((0 : BitVec 4) ++ lop ++ payload : BitVec 32)
/-- The MMA and MMAT flags (R245). -/
def mmaFlags (u tb ta hold ovr : Bool) : BitVec 7 :=
  BitVec.ofBool u ++ (0 : BitVec 2) ++ BitVec.ofBool tb ++ BitVec.ofBool ta ++ BitVec.ofBool hold ++ BitVec.ofBool ovr

end Enc

open Enc in
/-- The words of an instruction: the first, and the second of a long form. A step without an encoding has none. -/
def encode : Instr → Option (IWord × Option IWord)
  | .add w d a b => some (rr w 0x01 d a b 0, none)
  | .sub w d a b => some (rr w 0x01 d a b 1, none)
  | .mul w d a b => some (rr w 0x01 d a b 2, none)
  | .mulh w d a b => some (rr w 0x01 d a b 3, none)
  | .mulhn w d a b => some (rr w 0x01 d a b 4, none)
  | .div w d a b => some (rr w 0x01 d a b 5, none)
  | .divn w d a b => some (rr w 0x01 d a b 6, none)
  | .rem w d a b => some (rr w 0x01 d a b 7, none)
  | .remn w d a b => some (rr w 0x01 d a b 8, none)
  | .and w d a b => some (rr w 0x01 d a b 9, none)
  | .or w d a b => some (rr w 0x01 d a b 10, none)
  | .xor w d a b => some (rr w 0x01 d a b 11, none)
  | .shl w d a b => some (rr w 0x01 d a b 12, none)
  | .shr w d a b => some (rr w 0x01 d a b 13, none)
  | .sra w d a b => some (rr w 0x01 d a b 14, none)
  | .slt w d a b => some (rr w 0x01 d a b 15, none)
  | .sltn w d a b => some (rr w 0x01 d a b 16, none)
  | .min w d a b => some (rr w 0x01 d a b 17, none)
  | .max w d a b => some (rr w 0x01 d a b 18, none)
  | .minn w d a b => some (rr w 0x01 d a b 19, none)
  | .maxn w d a b => some (rr w 0x01 d a b 20, none)
  | .clz w d a => some (rr w 0x01 d a 0 21, none)
  | .popc w d a => some (rr w 0x01 d a 0 22, none)
  | .addi w d a imm => some (ri w 2 d a imm, none)
  | .andi w d a imm => some (ri w 3 d a imm, none)
  | .ori w d a imm => some (ri w 4 d a imm, none)
  | .xori w d a imm => some (ri w 5 d a imm, none)
  | .slti w d a imm => some (ri w 9 d a imm, none)
  | .sltni w d a imm => some (ri w 10 d a imm, none)
  | .shli w d a imm => some (ri6 w 6 d a imm, none)
  | .shri w d a imm => some (ri6 w 7 d a imm, none)
  | .srai w d a imm => some (ri6 w 8 d a imm, none)
  | .lui w d imm => some (ui w 0x0B d imm, none)
  | .li64 w d imm => some (ui w 0x3F d (imm.extractLsb' 0 18), some (second 1 (imm.extractLsb' 18 22)))
  | .beq w a b off => some (ri w 16 a b off, none)
  | .bne w a b off => some (ri w 17 a b off, none)
  | .blt w a b off => some (ri w 18 a b off, none)
  | .bge w a b off => some (ri w 19 a b off, none)
  | .bltn w a b off => some (ri w 20 a b off, none)
  | .bgen w a b off => some (ri w 21 a b off, none)
  | .jmp w off => some (mkWord w 0x16 off, none)
  | .jal w off => some (mkWord w 0x17 off, none)
  | .spush w q a => some (rr w 0x18 (q.setWidth 4) a 0 0, none)
  | .spop w d q => some (rr w 0x18 d (q.setWidth 4) 0 1, none)
  | .qcnt w d q => some (rr w 0x18 d (q.setWidth 4) 0 2, none)
  | .sspill w s slot => some (ri6 w 0x19 s 0 slot, none)
  | .sfill w d slot => some (ri6 w 0x19 d 1 slot, none)
  | .bqz w q off => some (ri w 0x1A (q.setWidth 4) 0 off, none)
  | .bqnz w q off => some (ri w 0x1A (q.setWidth 4) 1 off, none)
  | .vpush w v q k => some (vq w v (q.setWidth 4) 0 k 0, none)
  | .vpop w v q k => some (vq w v (q.setWidth 4) 0 k 1, none)
  | .vspill w v slot => some (vq w v 0 (slot.setWidth 6) 0 2, none)
  | .vfill w v slot => some (vq w v 0 (slot.setWidth 6) 0 3, none)
  | .nop w => some (sy w 0x1C 0 0 0 0, none)
  | .safe w id => some (sy w 0x1C 0 0 id 1, none)
  | .halt w => some (sy w 0x1C 0 0 0 2, none)
  | .rdv w => some (sy w 0x1C 0 0 0 3, none)
  | .mark w eng scope => some (sy w 0x1C 0 0 (BitVec.ofNat 6 scope.code ++ eng) 4, none)
  | .join w => some (sy w 0x1C 0 0 0 5, none)
  | .bar w scope => some (sy w 0x1C 0 0 (BitVec.ofNat 10 scope.code) 6, none)
  | .waitc w d cc => some (sy w 0x1C d cc 0 7, none)
  | .disc w cc => some (sy w 0x1C 0 cc 0 8, none)
  | .trap w d a => some (sy w 0x1D d a 0 0, none)
  | .uret w => some (sy w 0x1D 0 0 0 1, none)
  | .csrr w d csr => some (sy w 0x1D d 0 csr 2, none)
  | .csrw w a csr => some (sy w 0x1D 0 a csr 3, none)
  | .fqack w d a e => some (sy w 0x1D d a ((BitVec.ofBool e).setWidth 10) 4, none)
  | .sret w d a r => some (sy w 0x1D d a (r.setWidth 10) 5, none)
  | .launch w cc a => some (sy w 0x1D cc a 0 6, none)
  | .loop w a off => some (ri w 0x1E a 0 off, none)
  | .endl w off => some (ri w 0x1E 0 1 off, none)
  | .jr w a => some (ri w 0x1E a 2 0, none)
  | .ldb w d a off => some (mem w 0x20 d a 0 off, none)
  | .ldbn w d a off => some (mem w 0x20 d a 1 off, none)
  | .ldh w d a off => some (mem w 0x20 d a 2 off, none)
  | .ldhn w d a off => some (mem w 0x20 d a 3 off, none)
  | .ldw w d a off => some (mem w 0x20 d a 4 off, none)
  | .ldwn w d a off => some (mem w 0x20 d a 5 off, none)
  | .ldd w d a off => some (mem w 0x20 d a 6 off, none)
  | .stb w s a off => some (mem w 0x21 s a 0 off, none)
  | .sth w s a off => some (mem w 0x21 s a 1 off, none)
  | .stw w s a off => some (mem w 0x21 s a 2 off, none)
  | .std w s a off => some (mem w 0x21 s a 3 off, none)
  | .amoadd w o d a b => some (amo w o d a b 0, none)
  | .amoand w o d a b => some (amo w o d a b 1, none)
  | .amoor w o d a b => some (amo w o d a b 2, none)
  | .amoxor w o d a b => some (amo w o d a b 3, none)
  | .amomin w o d a b => some (amo w o d a b 4, none)
  | .amomax w o d a b => some (amo w o d a b 5, none)
  | .amominn w o d a b => some (amo w o d a b 6, none)
  | .amomaxn w o d a b => some (amo w o d a b 7, none)
  | .amoxchg w o d a b => some (amo w o d a b 8, none)
  | .amocas w o d a b => some (amo w o d a b 9, none)
  | .amoincb w o d a b => some (amo w o d a b 10, none)
  | .amofadd w o d a b => some (amo w o d a b 11, none)
  | .obopen w cc a b id => some (rr w 0x3F cc a b 0, some (second 2 (id.setWidth 22)))
  | .obclose w cc a b => some (rr w 0x23 cc a b 0, none)
  | .tld w a b s cc u => some (tc w 0x28 a b s cc 0 u 0, none)
  | .tldas w a b s cc u sc => some (tc w 0x28 a b s cc 1 u (BitVec.ofNat 3 sc.code), none)
  | .tpref w a s cc u => some (tc w 0x28 a 0 s cc 2 u 0, none)
  | .tgath w a b s cc u => some (tc w 0x28 a b s cc 3 u 0, none)
  | .tst w a b s cc u => some (tc w 0x29 a b s cc 0 u 0, none)
  | .tstash w a b s cc u => some (tc w 0x29 a b s cc 1 u 0, none)
  | .tscat w a b s cc u => some (tc w 0x29 a b s cc 2 u 0, none)
  | .tredst w a b s cc u => some (tc w 0x29 a b s cc 3 u 0, none)
  | .tcommit w a b s cc u sc => some (tc w 0x29 a b s cc 4 u (BitVec.ofNat 3 sc.code), none)
  | .tcopy w a b s cc u => some (tc w 0x2A a b s cc 0 u 0, none)
  | .tfill w a s cc u kd => some (tc w 0x2A a 0 s cc 1 u kd.code, none)
  | .tdedup w a b s cc u => some (tc w 0x2A a b s cc 2 u 0, none)
  | .tpromo w a s cc u => some (tc w 0x2A a 0 s cc 3 u 0, none)
  | .talias w a b s cc u => some (tc w 0x2A a b s cc 4 u 0, none)
  | .tinfo w a s n => some (tc w 0x2B a 0 s 0 0 false n, none)
  | .cnarrow w d a b => some (rr w 0x2C (d.setWidth 4) (a.setWidth 4) b 0, none)
  | .cperm w d a b => some (rr w 0x2C (d.setWidth 4) (a.setWidth 4) b 1, none)
  | .cget w d a sel => some (rr w 0x2C d (a.setWidth 4) sel 2, none)
  | .ctag w d a => some (rr w 0x2C d (a.setWidth 4) 0 3, none)
  | .mma w acc a b c cc u tb ta hold ovr => some (mx w 0x30 acc a b c cc (mmaFlags u tb ta hold ovr), none)
  | .macc w acc c cc u ovr => some (mx w 0x31 acc 0 0 c cc (mmaFlags u false false false ovr), none)
  | .mzero w acc cc u => some (mx w 0x32 acc 0 0 0 cc (mmaFlags u false false false false), none)
  | .mdrain w acc d cc u md q int => some (mx w 0x33 acc d 0 0 cc (BitVec.ofBool u ++ BitVec.ofNat 3 (modeCode md) ++ q.code ++ BitVec.ofBool int), none)
  | .mstat w acc d cs cf => some (mx w 0x34 acc 0 0 0 0 (d ++ (0 : BitVec 1) ++ BitVec.ofBool cs ++ BitVec.ofBool cf), none)
  | .mmov w acc src cc u swap => some (mx w 0x35 acc 0 0 0 cc (BitVec.ofBool u ++ (0 : BitVec 3) ++ BitVec.ofBool swap ++ src.code), none)
  | .mmat w acc a b c cc u tb ta hold ovr mk lower diag => some (mx w 0x3F acc a b c cc (mmaFlags u tb ta hold ovr),
      some (second 3 (mk.code ++ BitVec.ofBool lower ++ (0 : BitVec 3) ++ diag)))
  | .vadd w d a b k => some (vv w 0x38 d a b k 0, none)
  | .vsub w d a b k => some (vv w 0x38 d a b k 1, none)
  | .vmul w d a b k => some (vv w 0x38 d a b k 2, none)
  | .vfma w d a b k => some (vv w 0x38 d a b k 3, none)
  | .vfms w d a b k => some (vv w 0x38 d a b k 4, none)
  | .vfnma w d a b k => some (vv w 0x38 d a b k 5, none)
  | .vmin w d a b k => some (vv w 0x38 d a b k 6, none)
  | .vmax w d a b k => some (vv w 0x38 d a b k 7, none)
  | .vabs w d a k => some (vv w 0x38 d a 0 k 8, none)
  | .vneg w d a k => some (vv w 0x38 d a 0 k 9, none)
  | .vdiv w d a b k => some (vv w 0x38 d a b k 10, none)
  | .vsqrt w d a k => some (vv w 0x39 d a 0 k 0, none)
  | .vrsq w d a k => some (vv w 0x39 d a 0 k 1, none)
  | .vrcp w d a k => some (vv w 0x39 d a 0 k 2, none)
  | .vexp2 w d a k => some (vv w 0x39 d a 0 k 3, none)
  | .vlog2 w d a k => some (vv w 0x39 d a 0 k 4, none)
  | .vtanh w d a k => some (vv w 0x39 d a 0 k 5, none)
  | .vsigm w d a k => some (vv w 0x39 d a 0 k 6, none)
  | .vceq w d a b k => some (vv w 0x39 (d.setWidth 5) a b k 7, none)
  | .vcne w d a b k => some (vv w 0x39 (d.setWidth 5) a b k 8, none)
  | .vclt w d a b k => some (vv w 0x39 (d.setWidth 5) a b k 9, none)
  | .vcle w d a b k => some (vv w 0x39 (d.setWidth 5) a b k 10, none)
  | .vcun w d a b k => some (vv w 0x39 (d.setWidth 5) a b k 11, none)
  | .viadd w d a b k => some (vv w 0x3A d a b k 0, none)
  | .visub w d a b k => some (vv w 0x3A d a b k 1, none)
  | .vimul w d a b k => some (vv w 0x3A d a b k 2, none)
  | .vand w d a b k => some (vv w 0x3A d a b k 3, none)
  | .vor w d a b k => some (vv w 0x3A d a b k 4, none)
  | .vxor w d a b k => some (vv w 0x3A d a b k 5, none)
  | .vshl w d a b k => some (vv w 0x3A d a b k 6, none)
  | .vshr w d a b k => some (vv w 0x3A d a b k 7, none)
  | .vsra w d a b k => some (vv w 0x3A d a b k 8, none)
  | .vimin w d a b k => some (vv w 0x3A d a b k 9, none)
  | .vimax w d a b k => some (vv w 0x3A d a b k 10, none)
  | .vrsum w a s k => some (vs w 0x3A 0 a s k 11, none)
  | .vrmax w a s k => some (vs w 0x3A 0 a s k 12, none)
  | .vrmin w a s k => some (vs w 0x3A 0 a s k 13, none)
  | .vrargmx w a s k => some (vs w 0x3A 0 a s k 14, none)
  | .kand w d a b k => some (vv w 0x3B (d.setWidth 5) (a.setWidth 5) (b.setWidth 5) k 0, none)
  | .kor w d a b k => some (vv w 0x3B (d.setWidth 5) (a.setWidth 5) (b.setWidth 5) k 1, none)
  | .kxor w d a b k => some (vv w 0x3B (d.setWidth 5) (a.setWidth 5) (b.setWidth 5) k 2, none)
  | .knot w d a k => some (vv w 0x3B (d.setWidth 5) (a.setWidth 5) 0 k 3, none)
  | .kpop w a s k => some (vs w 0x3B 0 (a.setWidth 5) s k 4, none)
  | .kfirst w a s k => some (vs w 0x3B 0 (a.setWidth 5) s k 5, none)
  | .kset w d s k => some (vs w 0x3B (d.setWidth 5) 0 s k 6, none)
  | .vcvt w d a s k => some (vs w 0x3B d a s k 7, none)
  | .vquant w d a s k => some (vs w 0x3B d a s k 8, none)
  | .vdeq w d a s k => some (vs w 0x3B d a s k 9, none)
  | .vcfg w et md => some (vv w 0x3B (BitVec.ofNat 5 et.code) (BitVec.ofNat 5 (modeCode md)) 0 0 10, none)
  | .vcomp w d a k => some (vv w 0x3C d a 0 k 0, none)
  | .vexpd w d a k => some (vv w 0x3C d a 0 k 1, none)
  | .vperm w d a b k => some (vv w 0x3C d a b k 2, none)
  | .vslide w d a s k => some (vs w 0x3C d a s k 3, none)
  | .vbcast w d s k => some (vs w 0x3C d 0 s k 4, none)
  | .viota w d s k => some (vs w 0x3C d 0 s k 5, none)
  | .vsel w d a b k => some (vv w 0x3C d a b k 6, none)
  | .vmov w d a k => some (vv w 0x3C d a 0 k 7, none)
  | .vext w a s => some (vs w 0x3C 0 a s 0 8, none)
  | .vins w d a s k => some (vs w 0x3C d a s k 9, none)
  | .vld w v a imm k t q => some (vmem w v a imm k t q 0, none)
  | .vldg w v a vi k q => some (vmem w v a (vi.setWidth 6) k false q 1, none)
  | .vst w v a imm k t q => some (vmem w v a imm k t q 2, none)
  | .vsts w v a vi k q => some (vmem w v a (vi.setWidth 6) k false q 3, none)
  | .qrn w d a s k => some (vs w 0x3E d a s k 0, none)
  | .qcfg w n => some (sy w 0x3E 0 0 (n.setWidth 10) 1, none)
  | .qldt w a dim => some (sy w 0x3E 0 a (dim.setWidth 10) 2, none)
  | .vtok w d a s k => some (vs w 0x3E d a s k 3, none)
  | .pvset w a => some (sy w 0x3E 0 a 0 4, none)
  | .tokbnd w => some (sy w 0x3E 0 0 0 5, none)
  | .publ w cc a v sc => some (sy w 0x3E cc (a.setWidth 4) (BitVec.ofNat 6 sc.code ++ v) 6, none)
  | .clkr w d => some (sy w 0x3E d 0 0 7, none)
  | .cwait w => some (sy w 0x3E 0 0 0 8, none)
  | _ => none

end Sys2Proof
end

