-- ==== Sys2Proof/Machine/State.lean ====
section
/-!
DEFINITION. Machine/State.lean: everything the manual gives one GZ960 package, as plain data, and the package after reset.
INVENTORY.md lists each piece with its rule. `job` is the job (and core) in focus; `others` are the other jobs.
-/
namespace Sys2Proof.Machine

/-- A tile table entry: eight 64-bit words (R52). -/
abbrev Tte := BitVec 512

/-- What a stream waits on (R117, R376). -/
inductive Blocked where
  | token | queue | rdv | waitc | bar | join | cwait | tokbnd | pending | engineQueue | mstat | haltJoin
  deriving DecidableEq, Repr

/-- Whether a stream issues (R119), is held at a SAFE with its id (R376), is released and passes the SAFE at which it was
held (R376), or has halted (R322). -/
inductive StreamPhase where
  | running | held (id : BitVec 10) | released | halted
  deriving DecidableEq, Repr

/-- A mode-2 error event that stands: status, source and counter of R373. -/
structure ErrEvent where
  status : BitVec 16
  src : BitVec 8
  cc : BitVec 4
  deriving DecidableEq, Repr

/-- The queues a marker can stand in (R318). -/
inductive MarkQueue where
  | ce | mx | vq | fq
  deriving DecidableEq, Repr

/-- A marker of MARK: its queue, the commands ahead of it, its scope, and whether it has reached the head (R318). -/
structure Marker where
  queue : MarkQueue
  ahead : List Nat
  parties : List (Nat × BitVec 4)
  scope : Scope
  atHead : Bool
  deriving DecidableEq, Repr

/-- A BAR that a stream has issued (R317): its scope, its number among the job's BARs at that scope, the commands whose
threads must post before the job has arrived, and whether the barrier is complete. -/
structure BarWait where
  scope : Scope
  no : Nat
  ahead : List Nat
  done : Bool
  deriving DecidableEq, Repr

/-- A commit's scope domain (R343). -/
inductive Domain where
  | die (d : BitVec 2) | pkg | grant (launch : Nat)
  deriving DecidableEq, Repr

/-- A commit of a job: the command, and once it has posted, its stamp and the domains of its versions (R347). -/
structure Commit where
  cmd : Nat
  stamp : Option (Word × List Domain)
  deriving DecidableEq, Repr

/-- What the CWAITs of a job cover (R347): its commits; the commands of those that a CWAIT of each stream covers, by stream
number; those that each token (by its counter) and each queue entry passes on, oldest first; and those that the RDV passed
last passes on. -/
structure Flow where
  commits : List Commit
  known : Vector (List Nat) 4
  tokens : Vector (List (List Nat)) 8
  queues : Vector (List (List Nat)) 8
  rdv : List Nat
  deriving DecidableEq, Repr

/-- One stream of a job (R119, R130, R133, R373). -/
structure Stream where
  /-- Program counter (R120). -/
  pc : VA
  /-- s0 to s15; entry 0 is never read (R131). -/
  regs : Vector Word 16
  /-- Bit n is the tag of pair n (R69, R131). -/
  tags : BitVec 8
  /-- Shadow s8 to s15 (R373). -/
  shadow : Vector Word 8
  /-- Bit n is the tag of shadow pair n, for n from 4 to 7 (R373). -/
  shadowTags : BitVec 8
  /-- FPCTL (R30). -/
  fpctl : Word
  /-- LOOPC.KERN and LOOPE.EPI (R176). -/
  kern : BitVec 32
  epi : BitVec 6
  /-- UVEC (R372). -/
  uvec : Word
  /-- USTAT.IN and USTAT.PEND (R372). -/
  inHandler : Bool
  upend : BitVec 16
  /-- Scalar spill (R186). -/
  spill : Vector Word 64
  phase : StreamPhase
  blocked : Option Blocked
  /-- Signals SP and SS that are held back (R124). -/
  oweP : Bool
  oweS : Bool
  /-- RDVs passed, and whether the stream stands at its next one (R316). -/
  rdvs : Nat
  atRdv : Bool
  /-- The BAR that the stream has issued and waits at (R317). -/
  barAt : Option BarWait
  /-- The command of the TREDST that the stream has issued and waits at, and whether its record is placed (R326). -/
  redAt : Option (Nat × Bool)
  /-- Pending registers of the normal and of the shadow bank (R216). -/
  pend : BitVec 16
  shadowPend : BitVec 16
  markers : List Marker
  /-- Call index (R115). -/
  calls : Nat
  errEvent : Option ErrEvent
  /-- ATTEMPT of the access that the stream retries; 0 for an access that is not a retry (R363). -/
  attempt : Nat
  /-- The ATTEMPT that an interrupt put off: the retry that follows URET goes on with it (R363, R373). -/
  laterAttempt : Nat
  deriving DecidableEq, Repr

/-- An entry of a queue; a reserved slot is not ready until its data arrives (R129). -/
structure QEntry where
  data : VecReg
  ready : Bool
  deriving DecidableEq, Repr

/-- An architectural queue: its binding (producer, consumer) and its entries, oldest first (R127, R128). -/
structure Queue where
  bound : Option (StreamId × StreamId)
  entries : List QEntry
  deriving DecidableEq, Repr

/-- An accumulator: its rows of 128 elements of 32 bits and its status word (R138, R139). -/
structure Acc where
  rows : Vector VecReg 128
  status : Word
  deriving DecidableEq, Repr

/-- A held A operand: its entry, transposition, element patterns in row order, E8M0 scale bytes and row scales (R244). -/
structure HeldA where
  entry : Tte
  ta : Bool
  vals : List Nat
  mx : List Nat
  rs : List Nat
  deriving DecidableEq, Repr

/-- A party of the memory model (R298): a job (sub 0) or one of its engine-thread parties (sub 1 + 16e + c) by the
device's own job identity (R403), or with uid 0 the host, a CXL device or a peer package (sub 0, 1, 2). -/
structure Party where
  uid : Nat
  sub : Nat
  deriving DecidableEq, Repr

/-- An acquire table or release set: parties with epochs, most recently updated first (R307, R323). -/
abbrev AcqTable := List (Party × Nat)

/-- The three engines of a core, by their number (R52): Copy Engine, matrix engine, Vat operation queue. -/
inductive Engine where
  | ce | mx | vq
  deriving DecidableEq, Repr

/-- A command accepted into an engine queue, with what it captured at acceptance (R121, R31, R219). -/
structure Cmd where
  id : Nat
  instr : Instr
  stream : StreamId
  pc : VA
  cc : BitVec 4
  uint : Bool
  /-- The capabilities of its pairs a, b and c. -/
  capA : BitVec 128
  capB : BitVec 128
  capC : BitVec 128
  /-- s[s] and s[s+1], or s[a] and s[b] for the Vat queue. -/
  x : Word
  y : Word
  /-- The compare value of an ordered AMOCAS (R216). -/
  c : Word
  /-- The physical key, the bytes to the end of the leaf page, and the tier of a translation made at issue (R213, R216). -/
  pa : Nat
  room : Nat
  tier : Tier
  /-- FPCTL and SEED as captured (R31), PVR.CUR as read at acceptance (R354). -/
  fpctl : Word
  seed : Word
  cur : BitVec 16
  /-- The issuing die's known floors at issue: die, package, grants (R343). -/
  floors : Word × Word × List (Nat × Word)
  /-- Whether the shadow bank names the destination of an ordered AMO (R216, R373). -/
  bank : Bool
  attempt : Nat
  parked : Bool
  /-- The rows of ACCV that a command reads, as it sees them; none for another command (R140). -/
  accv : List VecReg
  /-- The version that a TCOMMIT has prepared, with its record's block, while it waits at its home (R345), and the pool blocks
  that it took: the keys of the descriptor and of the block, and the block's LOC (R220). -/
  ver : Option (Tte × Option (BitVec 40) × List (Nat × Nat × Nat))
  /-- A transfer of the command was dropped with a link or a flit group: it completes with CORRUPT (R388, R393). -/
  cut : Bool
  deriving DecidableEq, Repr

/-- Where a job stands (R103, R363): a halted job holds its core until every job of its co-resident set has halted (R94). -/
inductive JobPhase where
  | idle | loaded | running | parked | halted
  deriving DecidableEq, Repr

/-- One dimension record of the Culture tables: 66 words (R286). -/
abbrev DimRec := BitVec 2112

/-- A job on its core. -/
structure Job where
  /-- Package-local logical core number (R11). -/
  core : Nat
  /-- The device's own identity of the job (R403); 0 on an idle core. -/
  uid : Nat
  phase : JobPhase
  launch : Nat
  depth : Nat
  /-- LID, OWNER, SLICELO, SLICEHI (R98). -/
  lid : Word
  owner : BitVec 16
  sliceLo : BitVec 48
  sliceHi : BitVec 48
  /-- The innermost domain of the launch that binds CLUSTER, DIE, PKG and GRANT, by number, where one does (R91, R93). -/
  clusterNo : Option Nat
  dieNo : Option Nat
  pkgNo : Option Nat
  grantNo : Option Nat
  /-- The CLUSTER instance, the position in its gang, and the gang size J (R95, R96). -/
  gangNo : Option Nat
  gangPos : Nat
  gangSize : Nat
  coscope : Nat
  strict : Bool
  multi : Bool
  pipeline : Bool
  vdom : BitVec 16
  scrlog : Nat
  codeva : VA
  /-- Base and byte length of the code segments of A, M, V, E (R120). -/
  segs : Vector (VA × Nat) 4
  a : Stream
  m : Stream
  v : Stream
  e : Stream
  /-- v0 to v15 and the physical rotating slots 0 to 15 (R132, R135). -/
  vregs : Vector VecReg 32
  /-- k0 to k7; k0 is all ones (R130, R132). -/
  pregs : Vector PredReg 8
  vspill : Vector VecReg 32
  acc : Vector Acc 3
  /-- Status word of ACCV (R139). -/
  accv : Word
  heldA : Option HeldA
  /-- Completion counters (R204) and consumed counts (R320). -/
  cc : Vector Word 16
  consumed : Vector (BitVec 32) 16
  /-- The postings of the launch controller that are not consumed: counter and number of the posting (R320, R327). -/
  launchPosts : List (BitVec 4 × BitVec 32)
  /-- Token counters, by the index of `Wheel` order in Ops: AM, AE, MA, MV, VM, VE, EV, EA (R122). -/
  tokens : Vector (BitVec 4) 8
  queues : Vector Queue 8
  flow : Flow
  seed : Word
  /-- VTYPE.ET (R264). -/
  et : Fmt
  /-- RCFG.SIZE and LIVE (R134), RRB.BASE (R135), live bits of the slots (R136), DEADRD (R136). -/
  rsize : BitVec 2
  rlive : BitVec 5
  rbase : BitVec 4
  slotLive : BitVec 16
  deadrd : Word
  /-- QSEL.DIRTY and SET (R284), the held copy (R286), and where the sets of the image stand: file offset of .dirtab and
  number of sets (R287, R292). While DIRTY is 0 the reference of R296 equals the held copy. -/
  qdirty : Bool
  qset : BitVec 8
  culture : Vector DimRec 64
  dirtab : Nat × Nat
  /-- PVR: PEND, NEXT, CUR (R352). -/
  pvrPend : Bool
  pvrNext : BitVec 16
  pvrCur : BitVec 16
  trapinfo : Word
  errcnt : BitVec 32
  errtrap : BitVec 2
  pressstall : Word
  ttbase : Word
  /-- The command queues (R208), oldest first. -/
  ceQ : List Cmd
  mxQ : List Cmd
  vqQ : List Cmd
  /-- Pre-emption is requested (R376). -/
  preempt : Bool
  /-- Release epoch, and whether a tile access was made since it last advanced (R305). -/
  epoch : Nat
  touched : Bool
  acq : AcqTable
  /-- Acquire tables of the engine-thread parties (sub, table), and their posting counts (sub, count) (R306, R307). -/
  threadAcq : List (Nat × AcqTable)
  threadPosts : List (Nat × Nat)
  /-- Bit c: a posted command of counter c has handed a transfer to the fabric queue (R318). -/
  fabricCcs : BitVec 16
  /-- BARs that the job has issued, at CLUSTER, DIE, PKG, GRANT (R317, R377). -/
  bars : Vector Nat 4
  deriving DecidableEq, Repr

/-- A request of an ordered batch (R214): the job, its owner and the command that made it, its key, and the Vat bytes that it targets, as its
arrival finds them: first address and length. -/
structure Req where
  uid : Nat
  owner : BitVec 16
  cmd : Cmd
  key : BitVec 32
  pa : Nat
  len : Nat
  deriving DecidableEq, Repr

/-- An open batch (R213). While it is applied and a member is parked, `applying` stands; `carried` is what the members
applied so far pass on (R325); `closers` are the OBCLOSEs that wait for it (R217). -/
structure Batch where
  owner : BitVec 16
  id : BitVec 16
  base : Nat
  len : Nat
  count : Nat
  openUid : Nat
  openCmd : Cmd
  members : List Req
  applying : Bool
  carried : AcqTable
  closers : List (Nat × Cmd)
  deriving DecidableEq, Repr

/-- A request held until its batch opens (R214). -/
structure HeldReq where
  owner : BitVec 16
  id : BitVec 16
  req : Req
  deriving DecidableEq, Repr

/-- One compute die: fault queue (R364), clock interval (R336), floors (R338), batches (R213). -/
structure Die where
  fqSz : BitVec 4
  fqLoc : BitVec 40
  fqHead : BitVec 16
  fqOvf : Bool
  fqTail : BitVec 16
  faults : BitVec 30
  /-- Entries (four words each) that wait to be written into the ring, oldest first. -/
  waiting : List (Word × Word × Word × Word)
  earliest : Word
  latest : Word
  /-- The time and the interval of the last beacon (R337). -/
  base : Word × Word × Word
  floorPkg : Word
  floorGrant : List (Nat × Word)
  /-- The die has left every floor domain (R338). -/
  out : Bool
  /-- The die is stopped (R399). -/
  stopped : Bool
  batches : List Batch
  held : List HeldReq
  deriving DecidableEq, Repr

/-- An acknowledgement of a parked fault (R368). -/
inductive Ack where
  | retry | reply (v : Word)
  deriving DecidableEq, Repr

/-- A parked fault (R363): its SEQ and code, its job, the stream, and for a thread its engine and command; for SVC the
destination register, bank and Wheel bits of the TRAP (R367). -/
structure Parked where
  seq : BitVec 32
  code : BitVec 8
  uid : Nat
  stream : StreamId
  thread : Option (Engine × Nat)
  attempt : Nat
  svc : Option (SReg × Wheel)
  ack : Option Ack
  /-- What the acknowledging job passes on to the resumed party: itself at its epoch, and its acquire table (R370). -/
  carried : AcqTable
  deriving DecidableEq, Repr

/-- An owner known to the Sillum controller (R389, R393, R396). -/
structure Owner where
  id : BitVec 16
  root : Nat
  ttb : Word
  key0 : Option (BitVec 256)
  key1 : Option (BitVec 256)
  useSlot : Bool
  sigRequired : Bool
  sigKeys : List (BitVec 256)
  corrupt : BitVec 32
  tagErr : BitVec 32
  revoked : BitVec 32
  accessErr : BitVec 32
  deriving DecidableEq, Repr

/-- The states of a launch (R103). -/
inductive LaunchState where
  | waiting | routing | loading | running | ended
  deriving DecidableEq, Repr

/-- Where a job of a launch stands: a halted job whose co-resident set is pre-empted is away with it (R94, R110). -/
inductive LJobPhase where
  | loaded | running | preempted | halted | haltedAway
  deriving DecidableEq, Repr

/-- A job that a launch has started or loaded. -/
structure LJob where
  stage : Nat
  num : Nat
  core : Nat
  uid : Nat
  phase : LJobPhase
  deriving DecidableEq, Repr

/-- What the loader keeps of an image for the jobs of a launch (R152 to R163). -/
structure Image where
  /-- Offset and size of the .code sections of A, M, V, E. -/
  code : Vector (Nat × Nat) 4
  /-- Entry offsets, one row of four for each entry (R158). -/
  entries : List (List Nat)
  /-- LTT templates: entry number and entry (R157). -/
  ltt : List (Nat × Tte)
  /-- Seeds: pair, stream mask and capability (R157). -/
  seeds : List (Pair × BitVec 4 × BitVec 128)
  /-- The set CTAB, read at the first load (R288), and where the image's sets stand. -/
  ctab : Vector DimRec 64
  dirtab : Nat × Nat
  deriving DecidableEq, Repr

/-- A launch (R89, R103, R104, R106). -/
structure Launch where
  id : Nat
  /-- The host's completion slot, for a host launch (R381). -/
  tag : Option (BitVec 8)
  /-- The parent job and counter, for a child launch (R327). -/
  parent : Option (Nat × BitVec 4)
  parentEpoch : Option Nat
  key : List Nat
  depth : Nat
  /-- The 32 words of the record. -/
  words : List Word
  state : LaunchState
  prio : Nat
  jobs : List LJob
  image : Option Image
  /-- Packages whose probes are acknowledged, and whether every package reported its loaded jobs (R102, R103). -/
  probed : Bool
  /-- Whether the other packages of the grant have reported that every job of theirs has halted (R103; log 27). -/
  othersHalted : Bool
  /-- Whether this package, which received the launch, is one of its packages (R89, R101). -/
  here : Bool
  status : Nat
  trap : BitVec 8
  endStage : Nat
  endJob : Nat
  deriving DecidableEq, Repr

/-- A translation that a TLB or walk cache holds: owner, virtual page base, page size in bits, and the leaf (R200). -/
structure TlbEntry where
  owner : BitVec 16
  base : Nat
  bits : Nat
  pte : Word
  deriving DecidableEq, Repr

/-- The release set of a word (R323). -/
structure RelSet where
  addr : Nat
  set : AcqTable
  deriving DecidableEq, Repr

/-- A record of the version-domain table (R350). -/
structure VDom where
  owner : BitVec 16
  dom : BitVec 16
  lastPub : BitVec 16
  pstamp : Word
  scope : Domain
  deriving DecidableEq, Repr

/-- How far a new version of a tile has come (R345, R351). -/
inductive VerState where
  | staged | prepared | pending
  /-- It has become current before its own floor had passed its stamp, since a later version was visible (R343, R346; log 20). -/
  | passed
  deriving DecidableEq, Repr

/-- A version of a tile that is not yet current (R345): its tile index and entry, entry words 0 to 4, stamp, policy
version, domain, the block taken for the record of the version it replaces, and the base of the table whose header holds
its pool. -/
structure TileVer where
  entry : Nat
  index : Nat
  ttb : Word
  state : VerState
  tte : Tte
  stamp : Word
  pver : BitVec 16
  domain : Domain
  recBlock : Option (BitVec 40)
  deriving DecidableEq, Repr

/-- The slots of an entry's access records (R52). -/
inductive RecSlot where
  | w | a | b
  deriving DecidableEq, Repr

/-- Which party placed an access record, and with which bits (R403). A MANY record keeps the instance that its scope names
and the identities of every job whose reads it stands for (R311); a record of a batch member keeps its batch and its command (R325). -/
structure RecTag where
  entry : Nat
  slot : RecSlot
  bits : BitVec 32
  party : Party
  many : Bool
  inst : Option (Scope × Nat × Nat)
  readers : List Party
  batch : Option (Nat × Nat)
  deriving DecidableEq, Repr

/-- The barrier generation of one domain of a launch (R308). -/
structure BarInst where
  launch : Nat
  scope : Scope
  no : Nat
  gen : Nat
  deriving DecidableEq, Repr

/-- A quote (R398): the nonce; the measurements of the firmware, of the configuration record and of each loaded image that
has a signature policy; the identity certificate; and the signature over the whole. -/
structure Quote where
  nonce : BitVec 256
  firmware : BitVec 256
  config : BitVec 256
  images : List (BitVec 256)
  certificate : List Byte
  signature : List Byte
  deriving DecidableEq, Repr

/-- The management window, the last quote, what the last read by an outside agent returned (none: a completer abort,
R384), and the outside parties' epochs (R380, R309, R381). -/
structure HostWin where
  compBase : Word
  tapsel : Word
  invBusy : Bool
  mbBusy : Bool
  mailbox : Vector Word 32
  mbResult : Option (BitVec 16)
  quote : Option Quote
  answer : Option (List Byte)
  submits : Nat
  hostEpoch : Nat
  cxlEpoch : Nat
  peerEpoch : Nat
  deriving DecidableEq, Repr

/-- An open flit group of one owner on one link direction (R388). -/
structure FlitGroup where
  owner : BitVec 16
  flits : List Flit
  deriving DecidableEq, Repr

/-- A Ulukin port (R387 to R390). -/
structure Port where
  up : Bool
  lseq : BitVec 10
  replays : Nat
  linkErr : BitVec 32
  /-- A replay from the flit after `lseq` is asked for (R387). -/
  asked : Bool
  pressCap : Bool
  symCap : Bool
  groups : List FlitGroup
  /-- Groups counted for each owner: the nonce of R388. -/
  nonces : List (BitVec 16 × Nat)
  deriving DecidableEq, Repr

/-- The fabric: ports, windows, imports and routing tables with their users (R102, R387 to R392). -/
structure Fabric where
  ports : Vector Port 48
  /-- Window id and the two words of its record (R391). -/
  windows : List (BitVec 16 × Word × Word)
  imports : List (BitVec 16 × Word)
  routes : List (BitVec 16 × Nat)
  deriving DecidableEq, Repr

/-- A copy of a tile entry, by its key, that a core's tile entry cache holds (R50). Changes of a `late` copy are not yet in the
table. -/
structure TteCopy where
  core : Nat
  key : Nat
  tte : Tte
  late : Bool
  deriving DecidableEq, Repr

/-- What a tile entry cache does of its own: it takes an entry of its job's tables by the tile index, and keeps changes back
where `late`; it writes an entry back and drops it; or a copy meets a parity error (R50; log 44). -/
inductive CacheMove where
  | take (idx : BitVec 33) (late : Bool)
  | drop (key : Nat)
  | parity (key : Nat)
  deriving DecidableEq, Repr

/-- What moves next: a stream issues, a step without an encoding takes place, or the tile entry cache of the core does. -/
inductive What where
  | issue (s : StreamId)
  | event (i : Instr)
  | entry (m : CacheMove)
  deriving DecidableEq, Repr

/-- One turn: the core it concerns, what moves, and the keys of the stored words at which a transfer of this turn meets an
uncorrectable error, or, of a PEER window where the flag is set, its revocation (R230, R394; log 42). -/
structure Turn where
  core : Nat
  what : What
  bad : List (Nat × Bool)
  deriving DecidableEq, Repr

/-- The package. -/
structure State where
  /-- The job in focus, its other jobs, and the stream in focus. -/
  job : Job
  others : List Job
  cur : StreamId
  agenda : List Turn
  /-- The errors of the turn that runs (R394; log 42). -/
  bad : List (Nat × Bool)
  /-- The model's own counters: of turns that no agenda gives, of free values, of jobs, of commands and of launches. -/
  turns : Nat
  fresh : Nat
  nextUid : Nat
  nextCmd : Nat
  nextLaunch : Nat
  mem : List Host.Cell
  tlb : List TlbEntry
  dies : Vector Die 4
  epsmax : BitVec 32
  vwater : Word
  safemax : BitVec 16
  age : Vector (BitVec 16) 7
  launches : List Launch
  owners : List Owner
  parked : List Parked
  relsets : List RelSet
  vdoms : List VDom
  tileVers : List TileVer
  /-- Entries of which an older version was reclaimed, with the stamp below which nothing is left (R344, R349). -/
  reclaimed : List (Nat × Word)
  recs : List RecTag
  bars : List BarInst
  /-- Reads that hold the writes of an AON tile: entry, and the command or (above 2^80) the V stream of a job (R329). -/
  aonHolds : List (Nat × Nat)
  /-- The tile entry caches of the cores, at most 256 entries each (R50; log 44). -/
  entries : List TteCopy
  host : HostWin
  desc : Vector Word 4
  fabric : Fabric
  torus : Nat × Nat × Nat
  /-- The package's own coordinates (x, y, z) in the torus (R101; log 33). -/
  coords : Nat × Nat × Nat
  booted : Bool
  now : Word
  mhz : Nat
  quotes : Nat
  saved : List (Job × List Host.Cell)
  deriving DecidableEq, Repr

/-- Why the machine stops. -/
inductive Fault where
  /-- Raised by an access to a physical address that the package does not have (R8, R18), which the manual gives no
  behaviour. Safe: the model stops where the device does something unknown. -/
  | noSuchAddress (tier : Tier) (pa : Nat)
  deriving DecidableEq, Repr

/-- Why an instruction has no meaning. -/
inductive Refusal where
  /-- Raised by exec for an instruction whose meaning is not written yet. Safe. -/
  | notModelled (mnemonic : String)
  deriving DecidableEq, Repr

/-- A stream as loading leaves it, before its entry address and seeds are placed (R97). -/
def Stream.reset : Stream where
  pc := 0
  regs := Vector.replicate 16 0
  tags := 0
  shadow := Vector.replicate 8 0
  shadowTags := 0
  fpctl := 0
  kern := 0
  epi := 0
  uvec := 0
  inHandler := false
  upend := 0
  spill := Vector.replicate 64 0
  phase := .running
  blocked := none
  oweP := false
  oweS := false
  rdvs := 0
  atRdv := false
  barAt := none
  redAt := none
  pend := 0
  shadowPend := 0
  markers := []
  calls := 0
  errEvent := none
  attempt := 0
  laterAttempt := 0

/-- No commit yet (R347). -/
def Flow.reset : Flow := ⟨[], Vector.replicate 4 [], Vector.replicate 8 [], Vector.replicate 8 [], []⟩

/-- The status word of ACC0 to ACC2 at job start: SYM ZERO (R97, R139). -/
def accStatusReset : Word := 0x0000_0020_0000_0000

/-- An idle core: the job state of R97, with no job. -/
def Job.reset (core : Nat) : Job where
  core := core
  uid := 0
  phase := .idle
  launch := 0
  depth := 0
  lid := 0
  owner := 0
  sliceLo := 0
  sliceHi := 0
  clusterNo := none
  dieNo := none
  pkgNo := none
  grantNo := none
  gangNo := none
  gangPos := 0
  gangSize := 0
  coscope := 0
  strict := false
  multi := false
  pipeline := false
  vdom := 0
  scrlog := 0
  codeva := 0
  segs := Vector.replicate 4 (0, 0)
  a := Stream.reset
  m := Stream.reset
  v := Stream.reset
  e := Stream.reset
  vregs := Vector.replicate 32 0
  pregs := (Vector.replicate 8 0).set 0 (BitVec.allOnes 512)
  vspill := Vector.replicate 32 0
  acc := Vector.replicate 3 ⟨Vector.replicate 128 0, accStatusReset⟩
  accv := 0
  heldA := none
  cc := Vector.replicate 16 0
  consumed := Vector.replicate 16 0
  launchPosts := []
  tokens := Vector.replicate 8 0
  queues := Vector.replicate 8 ⟨none, []⟩
  flow := Flow.reset
  seed := 0
  et := .fp32
  rsize := 0
  rlive := 0
  rbase := 0
  slotLive := 0
  deadrd := 0
  qdirty := false
  qset := 0xFF
  culture := Vector.replicate 64 0
  dirtab := (0, 0)
  pvrPend := false
  pvrNext := 0
  pvrCur := 0
  trapinfo := 0
  errcnt := 0
  errtrap := 0
  pressstall := 0
  ttbase := 0
  ceQ := []
  mxQ := []
  vqQ := []
  preempt := false
  epoch := 0
  touched := false
  acq := []
  threadAcq := []
  threadPosts := []
  fabricCcs := 0
  bars := Vector.replicate 4 0

/-- A die after die reset (R336, R338, R364). -/
def Die.reset : Die where
  fqSz := 0
  fqLoc := 0
  fqHead := 0
  fqOvf := false
  fqTail := 0
  faults := 0
  waiting := []
  earliest := 0
  latest := 0
  base := (0, 0, 0)
  floorPkg := 0
  floorGrant := []
  out := false
  stopped := false
  batches := []
  held := []

/-- A port before link training (R390). -/
def Port.reset : Port := ⟨false, 0, 0, 0, false, false, false, [], []⟩

/-- The package right after reset: no launch, every register at the value of INVENTORY.md, memory with nothing listed. -/
def State.reset : State where
  job := Job.reset 0
  others := []
  cur := .A
  agenda := []
  bad := []
  turns := 0
  fresh := 0
  nextUid := 1
  nextCmd := 1
  nextLaunch := 1
  mem := []
  tlb := []
  dies := Vector.replicate 4 Die.reset
  epsmax := 2000
  vwater := 0
  safemax := 1024
  age := Vector.replicate 7 0
  launches := []
  owners := []
  parked := []
  relsets := []
  vdoms := []
  tileVers := []
  reclaimed := []
  recs := []
  bars := []
  aonHolds := []
  entries := []
  host := ⟨0, 0, false, false, Vector.replicate 32 0, none, none, none, 0, 0, 0, 0⟩
  desc := Vector.replicate 4 0
  fabric := ⟨Vector.replicate 48 Port.reset, [], [], []⟩
  torus := (1, 1, 1)
  coords := (0, 0, 0)
  booted := false
  now := 0
  mhz := 1300
  quotes := 0
  saved := []

end Sys2Proof.Machine
end

