-- ==== Sys2Proof/Machine/Ops.lean ====
section
/-!
DEFINITION. Machine/Ops.lean: the named operations over memory, registers, tokens, counters and jobs; issuing an
instruction; and taking a trap, ending a job and a launch, and resuming a parked fault
(spec/06_streams_and_words.md R119 to R131, spec/09_memory_and_engines.md R204 to R206, spec/05_launch.md R104 and R105,
spec/19_traps_faults_preemption.md R359 to R370).
-/
namespace Sys2Proof.Machine

/-- What a step answers. -/
abbrev Out := Host.Outcome State Fault Refusal

/-- A trap: its code (R360), the kind of access (R365), WHERE (R365), and the pool descriptor whose FAILS rises (R63). -/
structure Trap where
  code : BitVec 8
  access : BitVec 2
  loc : Word
  failed : Option Nat
  deriving DecidableEq, Repr

/-- Why a meaning does not complete. -/
inductive Stop where
  /-- The instruction has not issued: its stream waits. -/
  | stall (b : Blocked)
  /-- A precise trap, or a trap of a thread. -/
  | trap (t : Trap)
  /-- The machine stops. -/
  | fault (f : Fault)
  /-- A command ends with an error or other status and has written nothing (R206, R220). -/
  | post (st : Nat)
  deriving DecidableEq, Repr

/-- The result of a part of a meaning. -/
abbrev Res := Except Stop

/-- Go on if the condition holds, else stop. -/
def ensure (ok : Bool) (e : Stop) : Res Unit := if ok then .ok () else .error e

/-! ## Trap codes (R360) -/

/-- A trap that is not an access. -/
def trapOf (code : BitVec 8) : Stop := .trap ⟨code, 3, 0, none⟩
/-- A trap of an access: 0 read, 1 write, 2 fetch (R365). -/
def trapAt (code : BitVec 8) (access : BitVec 2) (loc : Word) : Stop := .trap ⟨code, access, loc, none⟩

/-- ILLEGAL_ENCODING. -/
def illegalEncoding : Stop := trapOf 0x01
/-- ILLEGAL_STREAM. -/
def illegalStream : Stop := trapOf 0x02
/-- FETCH_BOUND. -/
def fetchBound : Stop := trapOf 0x03
/-- CAP_TAG. -/
def capTag : Stop := trapOf 0x04
/-- CAP_BOUND. -/
def capBound : Stop := trapOf 0x05
/-- CAP_PERM. -/
def capPerm : Stop := trapOf 0x06
/-- MISALIGN of a device virtual address. -/
def misalign (access : BitVec 2) (va : Word) : Stop := trapAt 0x07 access va
/-- PAGE_ABSENT of a device virtual address. -/
def pageAbsent (access : BitVec 2) (va : Word) : Stop := trapAt 0x08 access va
/-- TILE_ABSENT of a tile index. -/
def tileAbsent (access : BitVec 2) (t : Nat) : Stop := trapAt 0x09 access (BitVec.ofNat 64 t)
/-- POOL_EMPTY: the tile index with the pool number in [63:56] (R365); FAILS of the descriptor rises (R63). -/
def poolEmpty (t pool desc : Nat) : Stop :=
  .trap ⟨0x0A, 1, BitVec.ofNat 64 (pool % 256 * 2 ^ 56 + t % 2 ^ 56), some desc⟩
/-- CAP_PERM of a tile access (R365). -/
def capPermAt (access : BitVec 2) : Stop := trapAt 0x06 access 0
/-- OPERAND_TIER. -/
def operandTier : Stop := trapOf 0x0B
/-- BARRIER_SCOPE. -/
def barrierScope : Stop := trapOf 0x0C
/-- MM_RACE. -/
def mmRace (access : BitVec 2) : Stop := trapAt 0x0D access 0
/-- VERSION_GONE. -/
def versionGone : Stop := trapAt 0x0E 0 0
/-- CLOCK_WIDE. -/
def clockWideTrap : Stop := trapOf 0x0F
/-- BATCH_OVERFLOW. -/
def batchOverflow : Stop := trapOf 0x10

/-! ## Words -/

/-- Field [lo + len - 1 : lo] of a word as a number (R1). -/
def bits (w : Word) (lo len : Nat) : Nat := w.toNat / 2 ^ lo % 2 ^ len

/-- A word with field [lo + len - 1 : lo] replaced. -/
def setBits (w : Word) (lo len v : Nat) : Word :=
  BitVec.ofNat 64 (w.toNat - bits w lo len * 2 ^ lo + v % 2 ^ len * 2 ^ lo)

/-- A word from a number. -/
def word (n : Nat) : Word := BitVec.ofNat 64 n

/-- The 57 bits of a device virtual address that a register value gives (R198). -/
def vaOf (w : Word) : Nat := w.toNat % 2 ^ 57

/-! ## Memory (notes/assumptions 4)

The key of a byte is its tier and physical address. Region 1 (the CLUSTER code) holds the LTTs, since a CLUSTER tile's
bytes are a sibling's SCRATCH bytes (R51). -/

/-- The code of a tier (R51, R199) in a key. -/
def tierCode : Tier → Nat
  | .scratch => 0 | .cluster => 1 | .vat => 2 | .pkg => 3 | .far => 4 | .host => 5 | .peer => 6

/-- The key of a physical byte. -/
def cellKey (t : Tier) (pa : Nat) : Nat := tierCode t * 2 ^ 64 + pa

/-- The key of byte 0 of LTT entry y of a core. -/
def lttKey (core y : Nat) : Nat := 2 ^ 64 + core * 2 ^ 16 + 64 * y

/-- What a byte reads as that nothing has written: an LTT entry is ABSENT (R97), every other byte is 0 (log 4). -/
def unlisted (k : Nat) : Byte :=
  if k / 2 ^ 64 = 1 then (if k % 64 = 4 then 0x80 else if k % 64 = 5 then 0x01 else 0) else 0

/-- The canonical form: keys strictly rising, and no entry equal to what an unlisted key reads as. -/
def Memory.wf : List Host.Cell → Bool
  | [] => true
  | [c] => c.2 != unlisted c.1
  | c :: d :: rest => c.2 != unlisted c.1 && decide (c.1 < d.1) && Memory.wf (d :: rest)

/-- The listed cells of consecutive bytes. -/
def listed : Nat → List Byte → List Host.Cell
  | _, [] => []
  | k, b :: bs => if b = unlisted k then listed (k + 1) bs else (k, b) :: listed (k + 1) bs

/-- The cells at or above a key. -/
def cellsFrom (k : Nat) : List Host.Cell → List Host.Cell
  | [] => []
  | c :: cs => if c.1 < k then cellsFrom k cs else c :: cs

/-- Write consecutive bytes. -/
def memWrite (m : List Host.Cell) (k : Nat) (bs : List Byte) : List Host.Cell :=
  match m with
  | [] => listed k bs
  | c :: cs => if c.1 < k then c :: memWrite cs k bs else listed k bs ++ cellsFrom (k + bs.length) (c :: cs)

/-- Read n consecutive bytes of cells that start at or above k. -/
def readFrom : List Host.Cell → Nat → Nat → List Byte
  | _, _, 0 => []
  | [], k, n + 1 => unlisted k :: readFrom [] (k + 1) n
  | c :: cs, k, n + 1 =>
    if c.1 = k then c.2 :: readFrom cs (k + 1) n else unlisted k :: readFrom (c :: cs) (k + 1) n

/-- Read n consecutive bytes. -/
def memRead (m : List Host.Cell) (k n : Nat) : List Byte := readFrom (cellsFrom k m) k n

/-- Read one byte. -/
def memByte (m : List Host.Cell) (k : Nat) : Byte :=
  match m with
  | [] => unlisted k
  | c :: cs => if c.1 < k then memByte cs k else if c.1 = k then c.2 else unlisted k

/-- n bytes at a key, little-endian. -/
def State.load (s : State) (k n : Nat) : Nat := leNat (memRead s.mem k n)
/-- The word at a key. -/
def State.load64 (s : State) (k : Nat) : Word := BitVec.ofNat 64 (s.load k 8)
/-- Store bytes at a key. -/
def State.storeBytes (s : State) (k : Nat) (bs : List Byte) : State := { s with mem := memWrite s.mem k bs }
/-- Store n bytes of a number at a key, little-endian. -/
def State.store (s : State) (k n v : Nat) : State := s.storeBytes k (leBytes n v)
/-- Store a word at a key. -/
def State.store64 (s : State) (k : Nat) (v : Word) : State := s.store k 8 v.toNat

/-- The size of a tier's physical space (R8, R18, R199). The whole 16 TiB of far memory are fitted (log 43). -/
def tierSize : Tier → Nat
  | .scratch => 192 * 2 ^ 22 | .cluster => 0 | .vat => 2 ^ 31 | .pkg => 2 ^ 40 | .far => 2 ^ 44 | .host => 2 ^ 64
  | .peer => 2 ^ 49

/-- n bytes at a physical address exist, or the machine stops. -/
def exists? (t : Tier) (pa n : Nat) : Res Unit := ensure (decide (pa + n ≤ tierSize t)) (.fault (.noSuchAddress t pa))

/-- The CXL root port that holds a byte of far memory: 4 TiB each (R18). -/
def farPort (pa : Nat) : Nat := pa / 2 ^ 42

/-- The place of number x among the numbers below n after exchanges: every permutation of them is such a list. -/
def swapAll (n : Nat) (swaps : List (Nat × Nat)) (x : Nat) : Nat :=
  swaps.foldl (fun x p => if p.1 < n ∧ p.2 < n then (if x = p.1 then p.2 else if x = p.2 then p.1 else x) else x) x

/-- The bank, 0 to 255, of a die's Vat that holds a word of eight bytes: 2 MiB each (R8; log 48). -/
def vatBank (die : Fin 4) (pa : Nat) : Nat := swapAll (2 ^ 26) (Config.vatSwaps die) (pa % 2 ^ 29 / 8) / 2 ^ 18

/-- The channel, 0 to 63, that holds a granule of package memory: 16 GiB each (R8; log 16). -/
def pkgChannel (granule : Nat) : Nat := swapAll (2 ^ 31) Config.pkgSwaps granule / 2 ^ 25

/-- The die whose sixteen channels hold a granule of package memory: 256 GiB each (R8, R343; log 16). -/
def pkgDie (granule : Nat) : Fin 4 := ⟨pkgChannel granule / 16 % 4, Nat.mod_lt _ (by decide)⟩

/-- A transfer of n bytes at a key meets no uncorrectable error: else it is dropped with CORRUPT, or with REVOKED where its
PEER window is revoked (R82, R230, R394; log 42). -/
def needGood (s : State) (k n : Nat) : Res Unit :=
  match s.bad.find? (fun b => k ≤ b.1 && b.1 < k + n) with
  | none => .ok ()
  | some b => .error (.post (if b.2 && b.1 / 2 ^ 64 == 6 then 6 else 3))

/-- Places of an access, each a key and a length, meet no uncorrectable error (R82, R234, R394). -/
def needAllGood (s : State) : List (Nat × Nat) → Res Unit
  | [] => .ok ()
  | (k, n) :: r => (needGood s k n).bind fun _ => needAllGood s r

/-- Whether the n bytes at a key have good parity (R394). -/
def State.good (s : State) (k n : Nat) : Bool := !s.bad.any (fun b => k ≤ b.1 && b.1 < k + n)

/-! ## Streams and jobs -/

/-- A stream of a job. -/
def Job.stream (j : Job) : StreamId → Stream
  | .A => j.a | .M => j.m | .V => j.v | .E => j.e

/-- Replace a stream of a job. -/
def Job.setStream (j : Job) (x : StreamId) (t : Stream) : Job :=
  match x with
  | .A => { j with a := t } | .M => { j with m := t } | .V => { j with v := t } | .E => { j with e := t }

/-- The stream in focus. -/
def State.st (s : State) : Stream := s.job.stream s.cur
/-- Replace the job in focus. -/
def State.setJob (s : State) (j : Job) : State := { s with job := j }
/-- Replace the stream in focus. -/
def State.setSt (s : State) (t : Stream) : State := s.setJob (s.job.setStream s.cur t)
/-- Change the stream in focus. -/
def State.onSt (s : State) (f : Stream → Stream) : State := s.setSt (f s.st)
/-- Change the job in focus. -/
def State.onJob (s : State) (f : Job → Job) : State := s.setJob (f s.job)

/-- The four streams. -/
def allStreams : List StreamId := [.A, .M, .V, .E]
/-- The number of a stream (R365). -/
def streamNo : StreamId → Nat
  | .A => 0 | .M => 1 | .V => 2 | .E => 3
/-- The stream of a number (R89). -/
def streamOf (n : Nat) : StreamId :=
  match n % 4 with
  | 0 => .A | 1 => .M | 2 => .V | _ => .E

/-- A stream that waits for a token, a queue, RDV, a posting, a marker or a barrier looks again (R117, R376). -/
def Stream.wake (t : Stream) : Stream :=
  match t.blocked with
  | some .token | some .queue | some .rdv | some .waitc | some .join | some .bar => { t with blocked := none }
  | _ => t

/-- Every stream of a job looks again. -/
def Job.wake (j : Job) : Job := { j with a := j.a.wake, m := j.m.wake, v := j.v.wake, e := j.e.wake }

/-- Insert a job by core number. -/
def insertJob (j : Job) : List Job → List Job
  | [] => [j]
  | x :: xs => if j.core < x.core then j :: x :: xs else x :: insertJob j xs

/-- Bring a core's job into focus. -/
def State.focus (s : State) (core : Nat) : State :=
  if s.job.core = core then s
  else
    { s with
      job := (s.others.find? (·.core == core)).getD (Job.reset core)
      others := insertJob s.job (s.others.filter (·.core != core)) }

/-- Every job on a core. -/
def State.onCores (s : State) : List Job := s.job :: s.others
/-- Every job that has started or is loaded and has not halted or ended, on a core or pre-empted. -/
def State.liveJobs (s : State) : List Job :=
  (s.onCores ++ s.saved.map (·.1)).filter (fun j => j.uid != 0 && j.phase != .halted)
/-- The live job of an identity. -/
def State.jobOf? (s : State) (uid : Nat) : Option Job :=
  if uid = 0 then none else s.liveJobs.find? (·.uid == uid)
/-- Change the job of an identity, wherever it stands. -/
def State.onUid (s : State) (uid : Nat) (f : Job → Job) : State :=
  let g := fun (j : Job) => if j.uid = uid ∧ uid ≠ 0 then f j else j
  { s with job := g s.job, others := s.others.map g, saved := s.saved.map (fun p => (g p.1, p.2)) }
/-- Change every job on a core. -/
def State.mapJobs (s : State) (f : Job → Job) : State := { s with job := f s.job, others := s.others.map f }

/-- The cores of one die: 48, or 46 on a GZ960-184 (R10, R11). -/
def State.coresPerDie (s : State) : Nat := if bits s.desc[1] 0 24 = 0 then 48 else 46
/-- The die of a core (R11). -/
def State.dieOf (s : State) (core : Nat) : Fin 4 := ⟨core / s.coresPerDie % 4, Nat.mod_lt _ (by decide)⟩
/-- The die of the job in focus. -/
def State.myDie (s : State) : Fin 4 := s.dieOf s.job.core
/-- Change a die. -/
def State.onDie (s : State) (d : Fin 4) (f : Die → Die) : State := { s with dies := s.dies.set d (f s.dies[d]) }
/-- The enabled cores of a cluster (R11, R13). -/
def State.clusterSize (s : State) (n : Nat) : Nat :=
  if (s.desc[1]).getLsbD n then Config.coresPerCluster - 1 else Config.coresPerCluster
/-- The first core of a cluster (R11). -/
def State.clusterStart (s : State) (n : Nat) : Nat := ((List.range n).map s.clusterSize).foldl (· + ·) 0
/-- The enabled cores of the package (R10, R13). -/
def State.coreCount (s : State) : Nat := s.clusterStart 24

/-! ## Scalar registers, pairs and tags (R67, R69, R131, R373) -/

/-- Whether a register number names the shadow bank when `shadow` is chosen. -/
def inShadow (shadow : Bool) (r : SReg) : Bool := shadow && r.getLsbD 3

/-- Read a scalar register in a bank; s0 is 0. -/
def Stream.regIn (t : Stream) (shadow : Bool) (r : SReg) : Word :=
  if r = 0 then 0
  else if inShadow shadow r then t.shadow[(r.extractLsb' 0 3).toNat]'(r.extractLsb' 0 3).isLt
  else t.regs[r.toNat]'r.isLt

/-- Read a scalar register. -/
def Stream.reg (t : Stream) (r : SReg) : Word := t.regIn t.inHandler r

/-- The pair of a register. -/
def pairOf (r : SReg) : Nat := r.toNat / 2

/-- A bit vector with one bit set or cleared. -/
def putBit {n : Nat} (x : BitVec n) (i : Nat) (b : Bool) : BitVec n :=
  if b then x ||| BitVec.ofNat n (2 ^ i) else x &&& ~~~(BitVec.ofNat n (2 ^ i))

/-- Set or clear the tag of a pair in a bank. -/
def Stream.setTagIn (t : Stream) (shadow : Bool) (p : Nat) (b : Bool) : Stream :=
  if shadow && decide (4 ≤ p) then { t with shadowTags := putBit t.shadowTags p b }
  else { t with tags := putBit t.tags p b }

/-- Write a register in a bank without touching its tag; a write to s0 is discarded. -/
def Stream.putRegIn (t : Stream) (shadow : Bool) (r : SReg) (v : Word) : Stream :=
  if r = 0 then t
  else if inShadow shadow r then { t with shadow := t.shadow.set (r.extractLsb' 0 3).toNat v (r.extractLsb' 0 3).isLt }
  else { t with regs := t.regs.set r.toNat v r.isLt }

/-- Write a register in a bank: the tag of its pair is cleared (R69). -/
def Stream.setRegIn (t : Stream) (shadow : Bool) (r : SReg) (v : Word) : Stream :=
  if r = 0 then t else (t.putRegIn shadow r v).setTagIn shadow (pairOf r) false

/-- Write a scalar register. -/
def Stream.setReg (t : Stream) (r : SReg) (v : Word) : Stream := t.setRegIn t.inHandler r v

/-- The even register of a pair. -/
def loReg (p : Pair) : SReg := p ++ 0#1
/-- The odd register of a pair. -/
def hiReg (p : Pair) : SReg := p ++ 1#1

/-- The capability in a pair (R67). -/
def Stream.cap (t : Stream) (p : Pair) : BitVec 128 := t.reg (hiReg p) ++ t.reg (loReg p)
/-- The tag of a pair. -/
def Stream.tag (t : Stream) (p : Pair) : Bool :=
  if t.inHandler && p.getLsbD 2 then t.shadowTags.getLsbD p.toNat else t.tags.getLsbD p.toNat
/-- Write a pair and its tag. -/
def Stream.setCap (t : Stream) (p : Pair) (c : BitVec 128) (tag : Bool) : Stream :=
  ((t.setReg (loReg p) (c.extractLsb' 0 64)).setReg (hiReg p) (c.extractLsb' 64 64)).setTagIn t.inHandler p.toNat tag

/-- Read a scalar register of the stream in focus. -/
def State.reg (s : State) (r : SReg) : Word := s.st.reg r
/-- Write a scalar register of the stream in focus. -/
def State.setReg (s : State) (r : SReg) (v : Word) : State := s.onSt (·.setReg r v)

/-- The bit of a register in a mask of pending registers. -/
def regBit (r : SReg) : BitVec 16 := BitVec.ofNat 16 (2 ^ r.toNat)
/-- The bits of a pair's registers. -/
def pairBits (p : Pair) : BitVec 16 := regBit (loReg p) ||| regBit (hiReg p)
/-- The pending registers as the stream names them (R216, R373). -/
def Stream.pendMask (t : Stream) : BitVec 16 :=
  if t.inHandler then (t.pend &&& 0x00FF) ||| (t.shadowPend &&& 0xFF00) else t.pend

/-! ## The Wheel (R122 to R126) -/

/-- The counter that WP consumes. Counters are numbered AM 0, AE 1, MA 2, MV 3, VM 4, VE 5, EV 6, EA 7. -/
def wpOf : StreamId → Fin 8
  | .A => 7 | .M => 0 | .V => 3 | .E => 5
/-- The counter that WS consumes. -/
def wsOf : StreamId → Fin 8
  | .A => 2 | .M => 4 | .V => 6 | .E => 1
/-- The counter that SP adds to. -/
def spOf : StreamId → Fin 8
  | .A => 1 | .M => 2 | .V => 4 | .E => 6
/-- The counter that SS adds to. -/
def ssOf : StreamId → Fin 8
  | .A => 0 | .M => 3 | .V => 5 | .E => 7

/-- The number of a stream as an index. -/
def streamFin : StreamId → Fin 4
  | .A => 0 | .M => 1 | .V => 2 | .E => 3

/-- The union of two lists of commands. -/
def mergeIds (a b : List Nat) : List Nat := a ++ b.filter (fun x => !a.contains x)

/-- A stream's CWAIT covers more commits (R347). -/
def Flow.learn (f : Flow) (x : StreamId) (ids : List Nat) : Flow :=
  { f with known := f.known.set (streamFin x) (mergeIds f.known[streamFin x] ids) }

/-- A token that stream x adds to a counter passes on what the stream knows (R347). -/
def Flow.signals (f : Flow) (x : StreamId) (i : Fin 8) : Flow :=
  { f with tokens := f.tokens.set i (f.tokens[i] ++ [f.known[streamFin x]]) }

/-- Stream x takes the oldest token of a counter (R347). -/
def Flow.takes (f : Flow) (x : StreamId) (i : Fin 8) : Flow :=
  Flow.learn { f with tokens := f.tokens.set i (f.tokens[i].drop 1) } x (f.tokens[i].headD [])

/-- Stream x pushes to queue i (R347). -/
def Flow.pushes (f : Flow) (x : StreamId) (i : Fin 8) : Flow :=
  { f with queues := f.queues.set i (f.queues[i] ++ [f.known[streamFin x]]) }

/-- Stream x pops from queue i (R347). -/
def Flow.pops (f : Flow) (x : StreamId) (i : Fin 8) : Flow :=
  Flow.learn { f with queues := f.queues.set i (f.queues[i].drop 1) } x (f.queues[i].headD [])

/-- Stream x passes an RDV (R316, R347): the first stream to pass it leaves for the others what every stream knows then. -/
def Flow.meets (f : Flow) (x : StreamId) (first : Bool) : Flow :=
  let f := if first then { f with rdv := f.known.toList.foldl mergeIds [] } else f
  f.learn x f.rdv

/-- Stream x has a commit accepted (R347). -/
def Flow.accepts (f : Flow) (x : StreamId) (id : Nat) : Flow := Flow.learn { f with commits := f.commits ++ [⟨id, none⟩] } x [id]

/-- Stream x takes one token. -/
def Job.take (j : Job) (x : StreamId) (i : Fin 8) : Job :=
  { j with tokens := j.tokens.set i (j.tokens[i] - 1), flow := j.flow.takes x i }

/-- Stream x adds one token. -/
def Job.give (j : Job) (x : StreamId) (i : Fin 8) : Job :=
  { j with tokens := j.tokens.set i (j.tokens[i] + 1), flow := j.flow.signals x i }

/-- Take the tokens that the waits of an instruction need, all or none (R123). -/
def Job.takeTokens (j : Job) (x : StreamId) (w : Wheel) : Option Job :=
  if (w.wp && j.tokens[wpOf x] == 0) || (w.ws && j.tokens[wsOf x] == 0) then none
  else
    let j := if w.wp then j.take x (wpOf x) else j
    some (if w.ws then j.take x (wsOf x) else j)

/-- Add the signals that a stream owes where there is room (R124). -/
def Job.flush (j : Job) (x : StreamId) : Job :=
  let t := j.stream x
  let (j, t) := if t.oweP && j.tokens[spOf x] != 15
    then (j.give x (spOf x), { t with oweP := false }) else (j, t)
  let (j, t) := if t.oweS && j.tokens[ssOf x] != 15
    then (j.give x (ssOf x), { t with oweS := false }) else (j, t)
  j.setStream x t

/-- The signals of a completed instruction: each is added, or held back while its counter stands at 15 (R124). -/
def Job.signal (j : Job) (x : StreamId) (w : Wheel) : Job :=
  let t := j.stream x
  (j.setStream x { t with oweP := w.sp, oweS := w.ss }).flush x

/-! ## Completion counters (R204 to R206) -/

/-- An error status of R206. -/
def isErrorStatus (st : Nat) : Bool := decide (3 ≤ st ∧ st ≤ 8)

/-- One posting to a counter word: COUNT and LAST, and ERR when it is counted (R204, R205). -/
def ccPost (w : Word) (st : Nat) (err : Bool) : Word :=
  let e := bits w 32 16
  word (st % 2 ^ 16 * 2 ^ 48 + (if err && decide (e < 65535) then e + 1 else e) * 2 ^ 32 + (bits w 0 32 + 1) % 2 ^ 32)

/-- A posting to a counter of a job. -/
def Job.ccPost (j : Job) (c : Cc) (st : Nat) (err : Bool) : Job :=
  { j with cc := j.cc.set c.toNat (Machine.ccPost (j.cc[c.toNat]'c.isLt) st err) c.isLt }

/-- Count one error that reached a job (R371). -/
def Job.countError (j : Job) : Job := { j with errcnt := j.errcnt + 1 }

/-- Change the record of an owner. -/
def State.onOwner (s : State) (o : BitVec 16) (f : Owner → Owner) : State :=
  { s with owners := s.owners.map (fun x => if x.id = o then f x else x) }
/-- Count a transfer dropped for a Press failure (R82, R393). -/
def State.countCorrupt (s : State) (o : BitVec 16) : State := s.onOwner o (fun x => { x with corrupt := x.corrupt + 1 })
/-- Count a revoked transfer (R393). -/
def State.countRevoked (s : State) (o : BitVec 16) : State := s.onOwner o (fun x => { x with revoked := x.revoked + 1 })
/-- Count a tile-aperture abort (R393). -/
def State.countAccessErr (s : State) (o : BitVec 16) : State :=
  s.onOwner o (fun x => { x with accessErr := x.accessErr + 1 })

/-- A transfer of the job in focus is dropped at an uncorrectable error (R82, R394; log 42): the owner's record and the job
count it. -/
def State.dropped (s : State) : State := (s.countCorrupt s.job.owner).onJob Job.countError

/-- A transfer of the job in focus is dropped with a status, CORRUPT or REVOKED: the owner's counters and the job count it (R82,
R391, R393; log 42). -/
def State.lost (s : State) (st : Nat) : State :=
  if st = 3 then s.dropped else if st = 6 then (s.countRevoked s.job.owner).onJob Job.countError else s

/-- A scalar transfer of the job in focus on the n bytes at a key: its effect, or what is left where it is dropped. -/
def State.transfer (s : State) (k n : Nat) (f : State → State) : State := if s.good k n then f s else s.dropped

/-- The die of a Ulukin port: twelve ports each (R8; log 49). -/
def portDie (n : Nat) : Fin 4 := ⟨n / 12 % 4, Nat.mod_lt _ (by decide)⟩

/-! ## Floors (R338) -/

/-- The number that a list of numbered values gives, or a default. -/
def assocGet {α : Type} (d : α) (l : List (Nat × α)) (i : Nat) : α := ((l.find? (·.1 == i)).map (·.2)).getD d
/-- Set a numbered value. -/
def assocSet {α : Type} (l : List (Nat × α)) (i : Nat) (v : α) : List (Nat × α) := (i, v) :: l.filter (·.1 != i)

/-- Raise a die's known floor for its package, and for a grant (R338). -/
def Die.raiseFloors (d : Die) (pkg : Word) (grants : List (Nat × Word)) : Die :=
  { d with
    floorPkg := if d.floorPkg ≤ pkg then pkg else d.floorPkg
    floorGrant := grants.foldl (fun l (g, f) =>
      if ((l.find? (·.1 == g)).map (·.2)).getD 0 ≤ f then assocSet l g f else l) d.floorGrant }

/-- A flit from one die to another carries the sender's known floors (R338). -/
def State.gossip (s : State) (src dst : Fin 4) : State :=
  let d := s.dies[src]
  { s with dies := if src = dst ∨ s.dies[dst].out = true then s.dies
      else s.dies.set dst (s.dies[dst].raiseFloors d.floorPkg d.floorGrant) }

/-- Flits go both ways between two dies (R338). -/
def State.exchange (s : State) (a b : Fin 4) : State := (s.gossip a b).gossip b a

/-- Flits go from one die to every die (R338; log 49). -/
def State.spread (s : State) (src : Fin 4) : State := [(0 : Fin 4), 1, 2, 3].foldl (fun s d => s.gossip src d) s

/-- The die that is home to a byte: of a Vat, of package memory, or of far memory behind the die's CXL root port (R8, R18, R199;
log 16). -/
def homeOfKey (k : Nat) : Option (Fin 4) :=
  let pa := k % 2 ^ 64
  match k / 2 ^ 64 with
  | 2 => some ⟨pa / 2 ^ 29 % 4, Nat.mod_lt _ (by decide)⟩
  | 3 => some (pkgDie (pa / 512))
  | 4 => some ⟨farPort pa % 4, Nat.mod_lt _ (by decide)⟩
  | _ => none

/-- The request and the response of an access carry floors between a die and the home of a byte (R338). -/
def State.exchangeFrom (s : State) (src : Fin 4) (k : Nat) : State :=
  match homeOfKey k with
  | some d => s.exchange src d
  | none => s

/-- An access of the job in focus carries floors between its die and the home (R338). -/
def State.exchangeWith (s : State) (k : Nat) : State := s.exchangeFrom s.myDie k

/-! ## Ending jobs and launches (R104, R105, R361) -/

/-- Change a launch. -/
def State.onLaunch (s : State) (id : Nat) (f : Launch → Launch) : State :=
  { s with launches := s.launches.map (fun l => if l.id = id then f l else l) }
/-- A launch by its number. -/
def State.launch? (s : State) (id : Nat) : Option Launch := s.launches.find? (·.id == id)

/-- Whether the launch is multi-package: bit 33 of word 0 (R89). -/
def Launch.multi (l : Launch) : Bool := (l.words.getD 0 0).getLsbD 33
/-- The owner of a launch (R89). -/
def Launch.owner (l : Launch) : BitVec 16 := BitVec.ofNat 16 (bits (l.words.getD 0 0) 48 16)

/-- Remove one use of an owner's routing table (R102). -/
def dropRoute (o : BitVec 16) (rs : List (BitVec 16 × Nat)) : List (BitVec 16 × Nat) :=
  (rs.map (fun r => if r.1 = o then (r.1, r.2 - 1) else r)).filter (fun r => r.2 != 0)

/-- Whether a launch has loaded its owner's routing table (R102). -/
def LaunchState.routed : LaunchState → Bool
  | .routing | .loading | .running => true
  | .waiting | .ended => false

/-- A posting of the launch controller to a counter of a job: nobody's access is acquired with it (R320, R327). -/
def Job.launchPost (j : Job) (c : Cc) (st : Nat) (err : Bool) : Job :=
  let j := j.ccPost c st err
  { j with launchPosts := j.launchPosts ++ [(c, (j.cc[c.toNat]'c.isLt).extractLsb' 0 32)] }

/-- A core whose job is discarded. -/
def Job.vacate (j : Job) : Job := Job.reset j.core

/-- Jobs leave their cores, or the save area. -/
def State.vacateWhere (s : State) (p : Job → Bool) : State :=
  let g := fun (j : Job) => if p j then j.vacate else j
  { s with job := g s.job, others := s.others.map g, saved := s.saved.filter (fun q => !p q.1) }

/-- Report the status of an ended launch: the host's completion word (R381), which an uncorrectable error drops (R394; log 42),
or the parent's posting (R327). -/
def Launch.report (l : Launch) (s : State) : State :=
  let s := match l.tag with
    | some tag =>
      let w := 2 ^ 63 + l.status % 256 * 2 ^ 48 + l.trap.toNat * 2 ^ 40 + l.endStage % 16 * 2 ^ 32 + l.endJob % 2 ^ 32
      let k := cellKey .host (bits s.host.compBase 11 53 * 2 ^ 11 + 8 * tag.toNat)
      if s.good k 8 then s.store k 8 w else s.countCorrupt l.owner
    | none => s
  match l.parent with
  | some (uid, c) => s.onUid uid (fun j => j.wake.launchPost c (0x100 + l.status) (l.status != 0))
  | none => s

/-- A launch ends with a status (R104): halted jobs of it hold no core any more (R94), it is reported, and its routing table is
dropped (R102). -/
def State.endLaunch (s : State) (id status : Nat) (trap : BitVec 8) (stage job : Nat) : State :=
  match s.launch? id with
  | none => s
  | some l =>
    if l.state = .ended then s
    else
      let l' := { l with state := .ended, status := status, trap := trap, endStage := stage, endJob := job, jobs := [] }
      let s := (s.onLaunch id (fun _ => l')).vacateWhere (fun j => j.phase == .halted && j.launch == id)
      let s := if l.multi && l.here && l.state.routed then
        { s with fabric := { s.fabric with routes := dropRoute l.owner s.fabric.routes } } else s
      l'.report s

/-- Drop what stopped jobs left in the batches: their requests, and their batches, whose other members are held again; a
batch that is being applied goes on with the others' (R105, R214; log 13). -/
def Die.dropJobs (d : Die) (dead : Nat → Bool) : Die :=
  let members := fun (b : Batch) => b.members.filter (fun r => !dead r.uid)
  let ends := fun (b : Batch) => dead b.openUid && !b.applying
  { d with
    batches := (d.batches.filter (fun b => !ends b)).map (fun b =>
      { b with members := members b, closers := b.closers.filter (fun x => !dead x.1) })
    held := d.held.filter (fun h => !dead h.req.uid) ++
      (d.batches.filter ends).flatMap (fun b => (members b).map (fun r => ⟨b.owner, b.id, r⟩)) }

/-- Set FREECNT, and LOWMARK, which follows it (R63). -/
def State.setFree (s : State) (k n : Nat) : State :=
  (s.store (k + 12) 4 n).store (k + 20) 4 (min (s.load (k + 20) 4) n)

/-- A block becomes the head of the pool whose descriptor stands at a key (R63): the keys of the descriptor and of the block,
and its LOC. -/
def State.giveBlock (s : State) (b : Nat × Nat × Nat) : State :=
  ((s.store b.2.1 8 (s.load b.1 5)).store b.1 5 b.2.2).setFree b.1 ((s.load (b.1 + 12) 4 + 1) % 2 ^ 32)

/-- The blocks that a command of an owner took and holds go back to their pools, the last one first (R220). A return that meets an
uncorrectable error at the descriptor or at the block's link is dropped and counted, and the block is in no list (R393, R394;
log 42). -/
def State.giveBack (s : State) (o : BitVec 16) (c : Cmd) : State :=
  match c.ver with
  | some v => v.2.2.foldr (fun b s => if s.good b.1 24 && s.good b.2.1 8 then s.giveBlock b else s.countCorrupt o) s
  | none => s

/-- What holds the writes of an AON tile for the tile-mode VLD of a job's V stream; a command holds them by its own number
(R329). -/
def streamHold (uid : Nat) : Nat := 2 ^ 80 + uid

/-- A read that held writes is being made: its pass is over in this step, and the holds end with it, whatever the reader does
next (R329). -/
def State.endHolds (s : State) (hold : Nat) : State := { s with aonHolds := s.aonHolds.filter (·.2 != hold) }

/-- Copies of entries leave the tile entry caches; those that keep a change back are written to their tables first (R50). -/
def State.dropCopies (s : State) (p : TteCopy → Bool) : State :=
  { s with
    mem := (s.entries.filter (fun c => p c && c.late)).foldl (fun m c => memWrite m c.key (leBytes 64 c.tte.toNat)) s.mem
    entries := s.entries.filter (fun c => !p c) }

/-- Discard jobs: their state, their engine threads with the writes and the pool blocks that those hold, their parked faults
and their contexts (R105, R220, R361). -/
def State.discard (s : State) (p : Job → Bool) : State :=
  let gone := (s.liveJobs.filter p).map (·.uid)
  let dead := fun u => gone.contains u
  let cmds := (s.liveJobs.filter p).flatMap (fun j => (j.ceQ ++ j.mxQ ++ j.vqQ).map (fun c => (j.owner, c)))
  let g := fun (j : Job) => if dead j.uid then j.vacate else j
  let cores := (s.onCores.filter (fun j => j.uid != 0 && p j)).map (·.core)
  let s := (cmds.foldr (fun c s => s.giveBack c.1 c.2) s).dropCopies (fun c => cores.contains c.core)
  { s with
    job := g s.job
    others := s.others.map g
    saved := s.saved.filter (fun q => !dead q.1.uid)
    parked := s.parked.filter (fun f => !dead f.uid)
    aonHolds := s.aonHolds.filter (fun h => !cmds.any (·.2.id == h.2) && !gone.any (fun u => streamHold u == h.2))
    dies := s.dies.map (fun d => d.dropJobs dead) }

/-- A job of the launch in focus ends by a trap: every job of its launch stops, and the launch ends (R105, R361). -/
def State.endByTrap (s : State) (uid : Nat) (code : BitVec 8) : State :=
  match s.jobOf? uid with
  | none => s
  | some j =>
    let s := s.discard (fun k => k.uid == uid || k.launch == j.launch)
    s.endLaunch j.launch 5 code (bits j.lid 60 4) (bits j.lid 0 32)

/-! ## Taking a trap (R359 to R366) -/

/-- Whether a code parks (R360): PAGE_ABSENT, TILE_ABSENT, POOL_EMPTY, SVC. -/
def parks (code : BitVec 8) : Bool := code == 0x08 || code == 0x09 || code == 0x0A || code == 0x14

/-- The next ATTEMPT (R365): it saturates at 127. -/
def nextAttempt (n : Nat) : Nat := min (n + 1) 127

/-- Word 0 of a fault entry (R365). -/
def entryWord0 (seq : Nat) (code : BitVec 8) (strm : Nat) (thread : Option (Nat × Cc)) (attempt : Nat) (ended : Bool)
    (access : BitVec 2) : Word :=
  word (seq % 2 ^ 32 * 2 ^ 32 + code.toNat * 2 ^ 24 + (if thread.isSome then 2 ^ 23 else 0) + strm % 4 * 2 ^ 21 +
    (match thread with | some (e, c) => e % 4 * 2 ^ 19 + c.toNat * 2 ^ 15 | none => 0) +
    attempt % 128 * 2 ^ 8 + (if ended then 2 ^ 7 else 0) + access.toNat * 2 ^ 5)

/-- Word 1 of a fault entry (R365). -/
def entryWord1 (j : Job) : Word :=
  word (bits j.lid 0 32 * 2 ^ 32 + j.owner.toNat * 2 ^ 16 + j.core % 256 * 2 ^ 8 + bits j.lid 60 4 * 2 ^ 4)

/-- The next sequence number of a die (R365). -/
def State.nextSeq (s : State) (d : Fin 4) : BitVec 32 := BitVec.ofNat 2 d ++ s.dies[d].faults

/-- Record a fault of a job at its die: SEQ, the entry, and TRAPINFO (R365, R366). -/
def State.report (s : State) (j : Job) (code : BitVec 8) (strm : Nat) (thread : Option (Nat × Cc)) (attempt : Nat)
    (ended : Bool) (access : BitVec 2) (loc : Word) (pc : VA) : State :=
  let d := s.dieOf j.core
  let w0 := entryWord0 (s.nextSeq d).toNat code strm thread attempt ended access
  let s := s.onDie d (fun x =>
    { x with faults := x.faults + 1, waiting := x.waiting ++ [(w0, entryWord1 j, loc, pc.setWidth 64)] })
  s.onUid j.uid (fun k => { k with trapinfo := w0 })

/-- FAILS of a pool descriptor rises (R63). -/
def State.countFail (s : State) (desc : Option Nat) : State :=
  match desc with
  | some k => s.store (k + 16) 4 (s.load (k + 16) 4 + 1)
  | none => s

/-- Take a trap of stream x of the job in focus, which has had no effect: park the job, or end it (R361, R363). The
instruction's address is the stream's pc. -/
def takeTrapAt (x : StreamId) (pc : VA) (t : Trap) (svc : Option (SReg × Wheel)) (s : State) : State :=
  let s := s.countFail t.failed
  let j := s.job
  let n := if t.code = 0x14 then 1 else nextAttempt (j.stream x).attempt
  let seq := s.nextSeq (s.dieOf j.core)
  let s := s.report j t.code (streamNo x) none n (!parks t.code) t.access t.loc pc
  if parks t.code then
    let s := s.onJob (fun k => { k with phase := .parked }.setStream x { k.stream x with attempt := n, blocked := none })
    { s with parked := s.parked ++ [⟨seq, t.code, j.uid, x, none, n, svc, none, []⟩] }
  else s.endByTrap j.uid t.code

/-- Take a trap of the stream in focus at its pc. -/
def takeTrap (t : Trap) (s : State) : State := takeTrapAt s.cur s.st.pc t none s

/-- The number of an engine (R52). -/
def engineNo : Engine → Nat
  | .ce => 0 | .mx => 1 | .vq => 2

/-- A queue of commands. -/
def Job.cmds (j : Job) : Engine → List Cmd
  | .ce => j.ceQ | .mx => j.mxQ | .vq => j.vqQ
/-- Replace a queue of commands. -/
def Job.setCmds (j : Job) (e : Engine) (q : List Cmd) : Job :=
  match e with
  | .ce => { j with ceQ := q } | .mx => { j with mxQ := q } | .vq => { j with vqQ := q }
/-- Change one command of a queue. -/
def Job.onCmd (j : Job) (e : Engine) (id : Nat) (f : Cmd → Cmd) : Job :=
  j.setCmds e ((j.cmds e).map (fun c => if c.id = id then f c else c))

/-- Take a trap of a thread of job uid: park the command, or end the job (R361, R363). -/
def takeThreadTrap (uid : Nat) (e : Engine) (c : Cmd) (t : Trap) (s : State) : State :=
  match s.jobOf? uid with
  | none => s
  | some j =>
    let s := s.countFail t.failed
    let n := nextAttempt ((((j.cmds e).find? (·.id == c.id)).map (·.attempt)).getD c.attempt)
    let seq := s.nextSeq (s.dieOf j.core)
    let s := s.report j t.code (streamNo c.stream) (some (engineNo e, c.cc)) n (!parks t.code) t.access t.loc c.pc
    if parks t.code then
      let s := s.onUid uid (fun k => k.onCmd e c.id (fun d => { d with parked := true, attempt := n }))
      { s with parked := s.parked ++ [⟨seq, t.code, uid, c.stream, some (e, c.id), n, none, none, []⟩] }
    else s.endByTrap uid t.code

/-- A trap of the job: no stream, no access, PC 0 (R359, R365). -/
def takeJobTrap (uid : Nat) (code : BitVec 8) (s : State) : State :=
  match s.jobOf? uid with
  | none => s
  | some j => (s.report j code 0 none 1 true 3 0 0).endByTrap uid code

/-- A DATA_ERROR of the stream in focus, whose entry names the instruction of the error event (R365, R371). -/
def takeDataError (x : StreamId) (pc : VA) (s : State) : State :=
  let j := s.job
  (s.report j 0x13 (streamNo x) none 1 true 3 0 pc).endByTrap j.uid 0x13

/-! ## Resuming a parked fault (R367 to R370) -/

/-- Whether a fault may resume: acknowledged, and every earlier fault of its job has resumed (R369). -/
def resumable (fs : List Parked) (f : Parked) : Bool :=
  f.ack.isSome && !((fs.takeWhile (·.seq != f.seq)).any (fun g => g.uid == f.uid))

/-- The fault of a die that resumes next (R369). -/
def nextResumable (fs : List Parked) (die : BitVec 2) : Option Parked :=
  fs.find? (fun f => f.seq.extractLsb' 30 2 == die && resumable fs f)

/-- The effect of an acknowledgement on the job: a supervisor call completes with its reply and its signals; a thread's
command is retried; the streams restart when no stream fault is left (R363, R367, R368). -/
def Job.resumeFrom (j : Job) (f : Parked) (more : Bool) : Job :=
  match f.thread with
  | some (e, id) => j.onCmd e id (fun c => { c with parked := false })
  | none =>
    let j := match f.svc with
      | some (d, w) =>
        let t := j.stream f.stream
        let t := { t with attempt := 0 }
        let t := match f.ack with | some (.reply v) => t.setReg d v | _ => t
        ((j.setStream f.stream t).signal f.stream w).wake
      | none => j
    if more then j else { j with phase := if j.phase = .parked then .running else j.phase }

/-! ## Issuing -/

/-- Move past the n words of an instruction (R120). -/
def State.advance (s : State) (n : Nat) : State := s.onSt (fun t => { t with pc := t.pc + BitVec.ofNat 57 (4 * n) })

/-- The stream in focus waits. -/
def State.block (s : State) (b : Blocked) : State := s.onSt (fun t => { t with blocked := some b })

/-- The stream-visible effect of the instruction in focus is complete: its signals act (R121, R124). An instruction that
ended its job leaves nothing to signal. -/
def State.complete (t : State) (uid : Nat) (w : Wheel) : State :=
  if t.job.uid = uid then
    let t := t.onSt (fun x => { x with
      blocked := none
      attempt := if x.inHandler then 0 else x.laterAttempt
      laterAttempt := if x.inHandler then x.laterAttempt else 0 })
    t.onJob (fun j => (j.signal t.cur w).wake)
  else t

/-- What the machine does with the result of an instruction that started from s. A transfer that is dropped under an instruction
that has no end for it, a read of a page table, say, is counted, and the instruction waits and makes it again (R393, R394; log
42). -/
def settle (w : Wheel) (s : State) : Res State → Out
  | .ok t => .next (t.complete s.job.uid w)
  | .error (.stall b) => .next (s.block b)
  | .error (.trap t) => .next (takeTrap t s)
  | .error (.fault f) => .fault f
  | .error (.post st) => .next ((s.lost st).block .engineQueue)

/-- Issue an instruction of n words that may stand in the streams of `legal` and uses the scalar registers of `uses`: it
waits for pending registers (R216) and tokens (R123), then acts on the state with the tokens taken and the pc advanced.
A trap leaves the state as it was, tokens included (R125). -/
def issue (w : Wheel) (n : Nat) (legal : StreamId → Bool) (uses : BitVec 16) (body : State → Res State) (s : State) : Out :=
  if s.st.pendMask &&& uses != 0 then .next (s.block .pending)
  else
    match s.job.takeTokens s.cur w with
    | none => .next (s.block .token)
    | some j =>
      settle w s (if legal s.cur then body ((s.setJob j).advance n) else .error illegalStream)

/-- Any stream may issue it (R144). -/
def anyStream : StreamId → Bool := fun _ => true
/-- Only A and E. -/
def onlyAE : StreamId → Bool
  | .A | .E => true
  | .M | .V => false
/-- Only M. -/
def onlyM : StreamId → Bool
  | .M => true
  | .A | .V | .E => false
/-- Only V. -/
def onlyV : StreamId → Bool
  | .V => true
  | .A | .M | .E => false
/-- Only E. -/
def onlyE : StreamId → Bool
  | .E => true
  | .A | .M | .V => false

/-- The address of the first word of the instruction being executed, whose n words the pc has passed. -/
def State.ipc (s : State) (n : Nat) : VA := s.st.pc - BitVec.ofNat 57 (4 * n)

/-- An error event of the stream in focus (R371): it is nothing in mode 0, ends the job in mode 1 and inside a handler, and
stands for delivery in mode 2. The instruction of n words that met it is named. -/
def State.errorEvent (s : State) (n : Nat) (e : ErrEvent) : State :=
  if s.job.errtrap = 1 ∨ (s.job.errtrap = 2 ∧ s.st.inHandler = true) then takeDataError s.cur (s.ipc n) s
  else if s.job.errtrap = 2 then s.onSt (fun t => { t with errEvent := some e })
  else s

/-- A fresh number for a free value (log 12). -/
def State.draw (s : State) : Nat × State := (s.fresh, { s with fresh := s.fresh + 1 })

end Sys2Proof.Machine
end

