-- ==== Sys2Proof/Machine/Scalar.lean ====
section
/-!
DEFINITION. Machine/Scalar.lean: the scalar ALU and the immediates (spec/08_scalar_and_control.md R166 to R170,
spec/02_numbers.md R42).
-/
namespace Sys2Proof.Machine

/-- The high 64 bits of the signed product (R42). -/
def mulHigh (x y : Word) : Word := ((x.signExtend 128 * y.signExtend 128).extractLsb' 64 64)
/-- The high 64 bits of the natural product (R42). -/
def mulHighN (x y : Word) : Word := ((x.setWidth 128 * y.setWidth 128).extractLsb' 64 64)
/-- Signed quotient: all ones for divisor 0 (R42). -/
def divS (x y : Word) : Word := if y = 0 then BitVec.allOnes 64 else x.sdiv y
/-- Natural quotient: all ones for divisor 0 (R42). -/
def divN (x y : Word) : Word := if y = 0 then BitVec.allOnes 64 else x / y
/-- Signed remainder: the dividend for divisor 0 (R42). -/
def remS (x y : Word) : Word := if y = 0 then x else x.srem y
/-- Natural remainder: the dividend for divisor 0 (R42). -/
def remN (x y : Word) : Word := if y = 0 then x else x % y
/-- Shift left by bits [5:0] of the count. -/
def shiftL (x y : Word) : Word := x <<< (y.toNat % 64)
/-- Shift right with zeros. -/
def shiftR (x y : Word) : Word := x >>> (y.toNat % 64)
/-- Shift right with copies of bit 63. -/
def shiftA (x y : Word) : Word := x.sshiftRight (y.toNat % 64)
/-- 1 or 0. -/
def flagWord (b : Bool) : Word := if b then 1 else 0
/-- Leading zero bits (R167). -/
def countLeadingZeros (x : Word) : Word := if x = 0 then 64 else word (63 - x.toNat.log2)
/-- The 1 bits of the low n bits. -/
def countOnes (x : Word) : Nat → Nat
  | 0 => 0
  | n + 1 => countOnes x n + (if x.getLsbD n then 1 else 0)

/-- A three-register instruction: both operands are read before s[d] is written (R168). -/
def alu (w : Wheel) (d a b : SReg) (f : Word → Word → Word) (s : State) : Out :=
  issue w 1 anyStream (regBit d ||| regBit a ||| regBit b) (fun s => .ok (s.setReg d (f (s.reg a) (s.reg b)))) s

/-- An instruction of one register operand and an immediate of n words (R169). -/
def aluImm (w : Wheel) (d a : SReg) (f : Word → Word) (s : State) : Out :=
  issue w 1 anyStream (regBit d ||| regBit a) (fun s => .ok (s.setReg d (f (s.reg a)))) s

/-- ADD. -/
def execAdd (w : Wheel) (d a b : SReg) (s : State) : Out := alu w d a b (· + ·) s
/-- SUB. -/
def execSub (w : Wheel) (d a b : SReg) (s : State) : Out := alu w d a b (· - ·) s
/-- MUL. -/
def execMul (w : Wheel) (d a b : SReg) (s : State) : Out := alu w d a b (· * ·) s
/-- MULH. -/
def execMulh (w : Wheel) (d a b : SReg) (s : State) : Out := alu w d a b mulHigh s
/-- MULHN. -/
def execMulhn (w : Wheel) (d a b : SReg) (s : State) : Out := alu w d a b mulHighN s
/-- DIV. -/
def execDiv (w : Wheel) (d a b : SReg) (s : State) : Out := alu w d a b divS s
/-- DIVN. -/
def execDivn (w : Wheel) (d a b : SReg) (s : State) : Out := alu w d a b divN s
/-- REM. -/
def execRem (w : Wheel) (d a b : SReg) (s : State) : Out := alu w d a b remS s
/-- REMN. -/
def execRemn (w : Wheel) (d a b : SReg) (s : State) : Out := alu w d a b remN s
/-- AND. -/
def execAnd (w : Wheel) (d a b : SReg) (s : State) : Out := alu w d a b (· &&& ·) s
/-- OR. -/
def execOr (w : Wheel) (d a b : SReg) (s : State) : Out := alu w d a b (· ||| ·) s
/-- XOR. -/
def execXor (w : Wheel) (d a b : SReg) (s : State) : Out := alu w d a b (· ^^^ ·) s
/-- SHL. -/
def execShl (w : Wheel) (d a b : SReg) (s : State) : Out := alu w d a b shiftL s
/-- SHR. -/
def execShr (w : Wheel) (d a b : SReg) (s : State) : Out := alu w d a b shiftR s
/-- SRA. -/
def execSra (w : Wheel) (d a b : SReg) (s : State) : Out := alu w d a b shiftA s
/-- SLT. -/
def execSlt (w : Wheel) (d a b : SReg) (s : State) : Out := alu w d a b (fun x y => flagWord (x.slt y)) s
/-- SLTN. -/
def execSltn (w : Wheel) (d a b : SReg) (s : State) : Out := alu w d a b (fun x y => flagWord (x.ult y)) s
/-- MIN. -/
def execMin (w : Wheel) (d a b : SReg) (s : State) : Out := alu w d a b (fun x y => if y.slt x then y else x) s
/-- MAX. -/
def execMax (w : Wheel) (d a b : SReg) (s : State) : Out := alu w d a b (fun x y => if x.slt y then y else x) s
/-- MINN. -/
def execMinn (w : Wheel) (d a b : SReg) (s : State) : Out := alu w d a b (fun x y => if y.ult x then y else x) s
/-- MAXN. -/
def execMaxn (w : Wheel) (d a b : SReg) (s : State) : Out := alu w d a b (fun x y => if x.ult y then y else x) s
/-- CLZ. -/
def execClz (w : Wheel) (d a : SReg) (s : State) : Out := aluImm w d a countLeadingZeros s
/-- POPC. -/
def execPopc (w : Wheel) (d a : SReg) (s : State) : Out := aluImm w d a (fun x => word (countOnes x 64)) s

/-- ADDI. -/
def execAddi (w : Wheel) (d a : SReg) (imm : BitVec 14) (s : State) : Out := aluImm w d a (· + imm.signExtend 64) s
/-- ANDI. -/
def execAndi (w : Wheel) (d a : SReg) (imm : BitVec 14) (s : State) : Out := aluImm w d a (· &&& imm.setWidth 64) s
/-- ORI. -/
def execOri (w : Wheel) (d a : SReg) (imm : BitVec 14) (s : State) : Out := aluImm w d a (· ||| imm.setWidth 64) s
/-- XORI. -/
def execXori (w : Wheel) (d a : SReg) (imm : BitVec 14) (s : State) : Out := aluImm w d a (· ^^^ imm.setWidth 64) s
/-- SHLI. -/
def execShli (w : Wheel) (d a : SReg) (imm : BitVec 6) (s : State) : Out := aluImm w d a (· <<< imm.toNat) s
/-- SHRI. -/
def execShri (w : Wheel) (d a : SReg) (imm : BitVec 6) (s : State) : Out := aluImm w d a (· >>> imm.toNat) s
/-- SRAI. -/
def execSrai (w : Wheel) (d a : SReg) (imm : BitVec 6) (s : State) : Out :=
  aluImm w d a (fun x => x.sshiftRight imm.toNat) s
/-- SLTI. -/
def execSlti (w : Wheel) (d a : SReg) (imm : BitVec 14) (s : State) : Out :=
  aluImm w d a (fun x => flagWord (x.slt (imm.signExtend 64))) s
/-- SLTNI. -/
def execSltni (w : Wheel) (d a : SReg) (imm : BitVec 14) (s : State) : Out :=
  aluImm w d a (fun x => flagWord (x.ult (imm.setWidth 64))) s
/-- LUI. -/
def execLui (w : Wheel) (d : SReg) (imm : BitVec 18) (s : State) : Out :=
  issue w 1 anyStream (regBit d) (fun s => .ok (s.setReg d (imm.signExtend 64 <<< 14))) s
/-- LI64. -/
def execLi64 (w : Wheel) (d : SReg) (imm : BitVec 40) (s : State) : Out :=
  issue w 2 anyStream (regBit d) (fun s => .ok (s.setReg d (imm.signExtend 64))) s

end Sys2Proof.Machine
end

