-- ==== Sys2Proof/Machine/Caps.lean ====
section
/-!
DEFINITION. Machine/Caps.lean: capabilities (spec/03_tiles.md R67 to R71) and the instructions that derive them
(spec/08_scalar_and_control.md R188 to R192).
-/
namespace Sys2Proof.Machine

/-- A capability (R67). -/
abbrev Cap := BitVec 128

/-- Field [lo + len - 1 : lo] of a capability. -/
def cbits (c : Cap) (lo len : Nat) : Nat := c.toNat / 2 ^ lo % 2 ^ len

/-- BASE. -/
def Cap.base (c : Cap) : Nat := cbits c 96 32
/-- STRIDE. -/
def Cap.stride (c : Cap) : Nat := cbits c 72 24
/-- ROWT. -/
def Cap.rowt (c : Cap) : Nat := cbits c 56 16
/-- COLT. -/
def Cap.colt (c : Cap) : Nat := cbits c 40 16
/-- OWNER. -/
def Cap.owner (c : Cap) : BitVec 16 := c.extractLsb' 24 16
/-- The permissions as R190's mask: bit 4 PRD, 3 PWR, 2 PCOM, 1 PPUB, 0 PALI. -/
def Cap.perms (c : Cap) : Nat := cbits c 19 5
/-- TCLASS: 0 LOCAL, 1 GLOBAL, 2 PACKAGE. -/
def Cap.tclass (c : Cap) : Nat := cbits c 17 2

/-- A capability from its fields: `rest` holds OWNER and below, bits [39:0]. -/
def mkCap (base stride rowt colt rest : Nat) : Cap :=
  BitVec.ofNat 128 (base * 2 ^ 96 + stride * 2 ^ 72 + rowt * 2 ^ 56 + colt * 2 ^ 40 + rest % 2 ^ 40)

/-- The largest index that a rectangle names is within the limit of its class (R68); that of an empty one is its BASE (log
55). -/
def capFits (tclass base stride rowt colt : Nat) : Bool :=
  let top := if rowt = 0 ∨ colt = 0 then base else base + (rowt - 1) * stride + (colt - 1)
  (decide (rowt ≤ 1) || decide (colt ≤ stride)) && decide (top ≤ if tclass = 0 then 1023 else 2 ^ 32 - 1)

/-- CNARROW's result (R189): none where the request fails. -/
def narrow (c : Cap) (x : Word) : Option Cap :=
  let a0 := bits x 48 16
  let b0 := bits x 32 16
  let rt := bits x 20 12
  let ct := bits x 8 12
  let k := bits x 0 8
  let base := c.base + a0 * c.stride + b0
  let stride := k * c.stride
  if k = 0 ∨ 2 ^ 24 ≤ stride ∨ 2 ^ 32 ≤ base ∨ (0 < rt ∧ c.rowt ≤ a0 + (rt - 1) * k) ∨ c.colt < b0 + ct ∨
      capFits c.tclass base stride rt ct = false then none
  else some (mkCap base stride rt ct (cbits c 0 40))

/-- CPERM's result (R190): none where the class cannot narrow. -/
def permit (c : Cap) (x : Word) : Option Cap :=
  let perms := c.perms &&& bits x 0 5
  let rest := fun cls => cbits c 24 16 * 2 ^ 24 + perms * 2 ^ 19 + cls * 2 ^ 17 + cbits c 0 17
  let out := fun cls => some (mkCap c.base c.stride c.rowt c.colt (rest cls))
  if !x.getLsbD 8 then out c.tclass
  else if c.tclass = 1 ∨ c.tclass = 2 then out 2
  else none

/-- CNARROW (R189). -/
def execCnarrow (w : Wheel) (d a : Pair) (b : SReg) (s : State) : Out :=
  issue w 1 anyStream (pairBits d ||| pairBits a ||| regBit b) (fun s =>
    if !s.st.tag a then .error capTag
    else
      match narrow (s.st.cap a) (s.reg b) with
      | some c => .ok (s.onSt (·.setCap d c true))
      | none => .error capBound) s

/-- CPERM (R190). -/
def execCperm (w : Wheel) (d a : Pair) (b : SReg) (s : State) : Out :=
  issue w 1 anyStream (pairBits d ||| pairBits a ||| regBit b) (fun s =>
    if !s.st.tag a then .error capTag
    else
      match permit (s.st.cap a) (s.reg b) with
      | some c => .ok (s.onSt (·.setCap d c true))
      | none => .error capPerm) s

/-- The field of a capability that a CGET selector names (R191). -/
def capField (c : Cap) (sel : BitVec 4) : Nat :=
  match sel.toNat with
  | 0 => c.base
  | 1 => c.stride
  | 2 => c.rowt
  | 3 => c.colt
  | 4 => c.owner.toNat
  | 5 => c.perms
  | _ => c.tclass

/-- CGET (R191). -/
def execCget (w : Wheel) (d : SReg) (a : Pair) (sel : BitVec 4) (s : State) : Out :=
  issue w 1 anyStream (regBit d ||| pairBits a) (fun s => .ok (s.setReg d (word (capField (s.st.cap a) sel)))) s

/-- CTAG (R191). -/
def execCtag (w : Wheel) (d : SReg) (a : Pair) (s : State) : Out :=
  issue w 1 anyStream (regBit d ||| pairBits a) (fun s => .ok (s.setReg d (flagWord (s.st.tag a)))) s

end Sys2Proof.Machine
end

