-- ==== Sys2Proof/Machine/Num.lean ====
section
/-!
DEFINITION. Machine/Num.lean: element formats, exact values, rounding, flags and conversions
(spec/02_numbers.md R20 to R43). Exact values are rationals; every rounding is done once, by `roundTo`.
-/
namespace Sys2Proof.Machine

/-- Width of a format in bits (R20). -/
def fmtWidth : Fmt → Nat
  | .fp32 | .i32 | .n32 => 32
  | .bf16 | .f16 | .i16 | .n16 => 16
  | .e4m3 | .e5m2 | .i8 | .n8 => 8
  | .e2m1 => 4
  | .i64 | .n64 => 64

/-- A binary floating-point format (R20). -/
def isFloat : Fmt → Bool
  | .fp32 | .bf16 | .f16 | .e4m3 | .e5m2 | .e2m1 => true
  | _ => false

/-- A signed integer format (R25). -/
def isSigned : Fmt → Bool
  | .i8 | .i16 | .i32 | .i64 => true
  | _ => false

/-- Fraction bits of a floating-point format (R21); 0 for integers. -/
def fracBits : Fmt → Nat
  | .fp32 => 23 | .bf16 => 7 | .f16 => 10 | .e4m3 => 3 | .e5m2 => 2 | .e2m1 => 1 | _ => 0

/-- Exponent bias (R21). -/
def expBias : Fmt → Int
  | .fp32 | .bf16 => 127 | .f16 | .e5m2 => 15 | .e4m3 => 7 | .e2m1 => 1 | _ => 0

/-- The exponent of the smallest normal number (R21). -/
def emin (f : Fmt) : Int := 1 - expBias f

/-- The magnitude bits of the largest finite value (R22). -/
def maxFinite : Fmt → Nat
  | .fp32 => 0x7F7F_FFFF | .bf16 => 0x7F7F | .f16 => 0x7BFF | .e4m3 => 0x7E | .e5m2 => 0x7B | .e2m1 => 7 | _ => 0

/-- The magnitude bits of infinity, where the format has one (R22). -/
def infBits : Fmt → Option Nat
  | .fp32 => some 0x7F80_0000 | .bf16 => some 0x7F80 | .f16 => some 0x7C00 | .e5m2 => some 0x7C | _ => none

/-- The canonical NaN (R22, R43). E2M1 and the integer formats have none. -/
def canonNaN : Fmt → Nat
  | .fp32 => 0x7FC0_0000 | .bf16 => 0x7FC0 | .f16 => 0x7E00 | .e4m3 => 0x7F | .e5m2 => 0x7E | _ => 0

/-- The sign bit of a format. -/
def signBit (f : Fmt) : Nat := 2 ^ (fmtWidth f - 1)

/-- An exact value: NaN (signalling or quiet), an infinity, or ±(num / den) × 2^exp with den > 0; zeros keep a sign. -/
inductive Val where
  | nan (sig : Bool)
  | inf (neg : Bool)
  | rat (neg : Bool) (num den : Nat) (exp : Int)
  deriving DecidableEq, Repr

/-- The sticky flags V, O, S, I (R34). -/
structure FFlags where
  v : Bool
  o : Bool
  s : Bool
  i : Bool
  deriving DecidableEq, Repr

/-- No flag. -/
def FFlags.none : FFlags := ⟨false, false, false, false⟩
/-- The union of two flag sets: the flags are sticky (R34). -/
def FFlags.or (x y : FFlags) : FFlags := ⟨x.v || y.v, x.o || y.o, x.s || y.s, x.i || y.i⟩
/-- The invalid flag alone. -/
def FFlags.invalid (b : Bool) : FFlags := ⟨b, false, false, false⟩
/-- The flags as bits [31:28] of FPCTL (R30), and of bits [35:32] of an accumulator status word (R139), in order V O S I. -/
def FFlags.bits (x : FFlags) : BitVec 4 :=
  BitVec.ofBool x.v ++ BitVec.ofBool x.o ++ BitVec.ofBool x.s ++ BitVec.ofBool x.i

/-- Decode of R43: the exact value of a bit pattern (R21 to R25). -/
def decodeVal (f : Fmt) (b : Nat) : Val :=
  let b := b % 2 ^ fmtWidth f
  if isFloat f then
    let neg := signBit f ≤ b
    let mag := b % signBit f
    let fb := fracBits f
    let ex := mag / 2 ^ fb
    let fr := mag % 2 ^ fb
    if mag ≤ maxFinite f then
      if ex = 0 then .rat neg fr 1 (emin f - fb) else .rat neg (2 ^ fb + fr) 1 ((ex : Int) - expBias f - fb)
    else if infBits f = some mag then .inf neg
    else .nan (match f with | .fp32 | .bf16 | .f16 => fr < 2 ^ (fb - 1) | _ => false)
  else if isSigned f && decide (signBit f ≤ b) then .rat true (2 ^ fmtWidth f - b) 1 0
  else .rat false b 1 0

/-- Whether a bit pattern is a subnormal of its format (R21). -/
def isSubnormal (f : Fmt) (b : Nat) : Bool :=
  isFloat f && (let mag := b % signBit f; decide (0 < mag ∧ mag < 2 ^ fracBits f))

/-- Whether a bit pattern is a NaN of its format (R22). -/
def isNaNBits (f : Fmt) (b : Nat) : Bool := match decodeVal f b with | .nan _ => true | _ => false
/-- Whether a bit pattern is an infinity of its format (R22). -/
def isInfBits (f : Fmt) (b : Nat) : Bool := match decodeVal f b with | .inf _ => true | _ => false

/-- Operand flush (R33): a subnormal of format n becomes a zero of its sign when OFLUSH bit n of `fpctl` is set. -/
def operandFlush (fpctl : Word) (f : Fmt) (b : Nat) : Nat :=
  if isSubnormal f b && fpctl.getLsbD f.code then (if signBit f ≤ b % 2 ^ fmtWidth f then signBit f else 0) else b

/-- Read an operand: operand flush, then Decode (R33, R43). -/
def readOperand (fpctl : Word) (f : Fmt) (b : Nat) : Val := decodeVal f (operandFlush fpctl f b)

/-- ⌊log₂ (num / den)⌋ for positive num and den. -/
def ratLog2 (num den : Nat) : Int :=
  let l : Int := (num.log2 : Int) - den.log2
  if den * 2 ^ l.toNat ≤ num * 2 ^ (-l).toNat then l else l - 1

/-- Whether the magnitude rounds away from zero, given its remainder r / d above the lower grid point `lo` (R26, R28). -/
def roundsUp (m : RMode) (neg : Bool) (lo r d : Nat) (w : Nat) : Bool :=
  match m with
  | .rne => decide (d < 2 * r) || (decide (2 * r = d) && lo % 2 = 1)
  | .rz => false
  | .rup => !neg && decide (0 < r)
  | .rdn => neg && decide (0 < r)
  | .sr => decide (w < r * 2 ^ 32 / d)

/-- Split num / den × 2^e on the grid of spacing 2^q: the lower grid index, the remainder, and its denominator. -/
def onGrid (num den : Nat) (e q : Int) : Nat × Nat × Nat :=
  let n := num * 2 ^ (e - q).toNat
  let d := den * 2 ^ (q - e).toNat
  (n / d, n % d, d)

/-- Rounding context: mode, whether RFLUSH applies to the destination format, and the 32-bit word of R28. -/
structure RCtx where
  mode : RMode
  rflush : Bool
  w : Nat
  deriving DecidableEq, Repr

/-- Round to nearest even without result flush. -/
def rneCtx : RCtx := ⟨.rne, false, 0⟩

/-- Round a positive magnitude to a floating-point format: its bits and flags (R26 to R28, R33). -/
def roundFloat (f : Fmt) (c : RCtx) (neg : Bool) (num den : Nat) (e : Int) : Nat × FFlags :=
  let fb := fracBits f
  let top := ratLog2 num den + e
  let q := max top (emin f) - fb
  let (lo, r, d) := onGrid num den e q
  let k := if roundsUp c.mode neg lo r d c.w then lo + 1 else lo
  let mag := if k < 2 ^ fb then k else (q + fb + expBias f).toNat * 2 ^ fb + (k - 2 ^ fb)
  let sg := if neg then signBit f else 0
  if maxFinite f < mag then
    match infBits f with
    | some ib =>
      let toInf := match c.mode with | .rne | .sr => true | .rup => !neg | .rdn => neg | .rz => false
      (sg + (if toInf then ib else maxFinite f), ⟨false, true, false, true⟩)
    | none => (sg + maxFinite f, ⟨false, false, true, true⟩)
  else if c.rflush && c.mode ≠ .sr && decide (0 < mag ∧ mag < 2 ^ fb) then (sg, ⟨false, false, false, true⟩)
  else (sg + mag, ⟨false, false, false, decide (0 < r)⟩)

/-- The largest magnitude of an integer format on one side of zero (R25). -/
def intLimit (f : Fmt) (neg : Bool) : Nat :=
  if isSigned f then (if neg then signBit f else signBit f - 1) else (if neg then 0 else 2 ^ fmtWidth f - 1)

/-- The bits of a signed magnitude in an integer format. -/
def intBits (f : Fmt) (neg : Bool) (mag : Nat) : Nat :=
  if neg then (2 ^ fmtWidth f - mag) % 2 ^ fmtWidth f else mag

/-- Round a magnitude to an integer format, saturating with S and I (R27, R35). -/
def roundInt (f : Fmt) (c : RCtx) (neg : Bool) (num den : Nat) (e : Int) : Nat × FFlags :=
  let (lo, r, d) := onGrid num den e 0
  let k := if roundsUp c.mode neg lo r d c.w then lo + 1 else lo
  if intLimit f neg < k then (intBits f neg (intLimit f neg), ⟨false, false, true, true⟩)
  else (intBits f neg k, ⟨false, false, false, decide (0 < r)⟩)

/-- RoundToFormat of R43, with the conversion rules of R35 for NaN and infinities. -/
def roundTo (f : Fmt) (c : RCtx) (x : Val) : Nat × FFlags :=
  if isFloat f then
    match x with
    | .nan _ => if f = .e2m1 then (0, .invalid true) else (canonNaN f, .none)
    | .inf neg =>
      let sg := if neg then signBit f else 0
      match infBits f with
      | some ib => (sg + ib, .none)
      | none => (sg + maxFinite f, ⟨false, false, true, true⟩)
    | .rat neg num den e =>
      if num = 0 then (if neg then signBit f else 0, .none) else roundFloat f c neg num den e
  else
    match x with
    | .nan _ => (0, .invalid true)
    | .inf neg => (intBits f neg (intLimit f neg), ⟨false, false, true, true⟩)
    | .rat neg num den e => if num = 0 then (0, .none) else roundInt f c neg num den e

/-- Whether a value is a signalling NaN: V is set for it as an operand (R34). -/
def isSig : Val → Bool
  | .nan s => s
  | _ => false

/-- Sign of an exact zero sum that is not a sum of equal zeros (R27). -/
def zeroSumNeg (m : RMode) : Bool := match m with | .rdn => true | _ => false

/-- The signed numerator of a rational over a common denominator and exponent. -/
def scaledInt (neg : Bool) (num : Nat) (mul : Nat) (sh : Int) : Int :=
  (if neg then -1 else 1) * ((num * mul * 2 ^ sh.toNat : Nat) : Int)

/-- The exact sum, and whether it is invalid (R27, R34, R271). -/
def addVal (m : RMode) (x y : Val) : Val × FFlags :=
  let sig := isSig x || isSig y
  match x, y with
  | .nan _, _ | _, .nan _ => (.nan false, .invalid sig)
  | .inf a, .inf b => if a = b then (.inf a, .none) else (.nan false, .invalid true)
  | .inf a, _ | _, .inf a => (.inf a, .none)
  | .rat a n d e, .rat b n' d' e' =>
    if n = 0 ∧ n' = 0 ∧ a = b then (.rat a 0 1 0, .none)
    else
      let q := min e e'
      let s := scaledInt a n d' (e - q) + scaledInt b n' d (e' - q)
      if s = 0 then (.rat (zeroSumNeg m) 0 1 0, .none) else (.rat (decide (s < 0)) s.natAbs (d * d') q, .none)

/-- The exact product (R38, R271). -/
def mulVal (x y : Val) : Val × FFlags :=
  let sig := isSig x || isSig y
  match x, y with
  | .nan _, _ | _, .nan _ => (.nan false, .invalid sig)
  | .inf a, .inf b => (.inf (a != b), .none)
  | .inf a, .rat b n _ _ | .rat a n _ _, .inf b =>
    if n = 0 then (.nan false, .invalid true) else (.inf (a != b), .none)
  | .rat a n d e, .rat b n' d' e' => (.rat (a != b) (n * n') (d * d') (e + e'), .none)

/-- The exact quotient: x ÷ 0 gives an infinity with O, 0 ÷ 0 and Inf ÷ Inf NaN with V (R272). -/
def divVal (x y : Val) : Val × FFlags :=
  let sig := isSig x || isSig y
  match x, y with
  | .nan _, _ | _, .nan _ => (.nan false, .invalid sig)
  | .inf _, .inf _ => (.nan false, .invalid true)
  | .inf a, .rat b _ _ _ => (.inf (a != b), .none)
  | .rat a _ _ _, .inf b => (.rat (a != b) 0 1 0, .none)
  | .rat a n d e, .rat b n' d' e' =>
    if n' = 0 then (if n = 0 then (.nan false, .invalid true) else (.inf (a != b), ⟨false, true, false, false⟩))
    else (.rat (a != b) (n * d') (d * n') (e - e'), .none)

/-- The value with its sign inverted. -/
def negVal : Val → Val
  | .nan s => .nan s
  | .inf a => .inf (!a)
  | .rat a n d e => .rat (!a) n d e

/-- The value with sign 0 (R272). -/
def absVal : Val → Val
  | .nan s => .nan s
  | .inf _ => .inf false
  | .rat _ n d e => .rat false n d e

/-- a × b + c with one rounding to come: Inf × 0 sets V even when c is NaN (R272). -/
def fmaVal (m : RMode) (a b c : Val) : Val × FFlags :=
  let (p, f) := mulVal a b
  let (s, g) := addVal m p c
  (s, (f.or g).or (.invalid (isSig c)))

/-- Whether x < y for values that are not NaN, with −0 equal to +0. -/
def ltVal : Val → Val → Bool
  | .nan _, _ | _, .nan _ => false
  | .inf a, .inf b => a && !b
  | .inf a, .rat _ _ _ _ => a
  | .rat _ _ _ _, .inf b => !b
  | .rat a n d e, .rat b n' d' e' =>
    let q := min e e'
    decide (scaledInt a n d' (e - q) < scaledInt b n' d (e' - q))

/-- Whether x equals y, with −0 equal to +0; NaN equals nothing (R274). -/
def eqVal : Val → Val → Bool
  | .nan _, _ | _, .nan _ => false
  | x, y => !ltVal x y && !ltVal y x

/-- x below y in the order of R36, in which −0 is below +0. -/
def belowVal (x y : Val) : Bool :=
  ltVal x y || (eqVal x y && (match x, y with | .rat true 0 _ _, .rat false 0 _ _ => true | _, _ => false))

/-- The smaller value (R36). -/
def minVal (x y : Val) : Val × FFlags :=
  match x, y with
  | .nan _, _ | _, .nan _ => (.nan false, .invalid (isSig x || isSig y))
  | _, _ => (if belowVal y x then y else x, .none)

/-- The larger value (R36). -/
def maxVal (x y : Val) : Val × FFlags :=
  match x, y with
  | .nan _, _ | _, .nan _ => (.nan false, .invalid (isSig x || isSig y))
  | _, _ => (if belowVal x y then y else x, .none)

/-- Compute, then round once: the flags of both. -/
def finish (f : Fmt) (c : RCtx) (r : Val × FFlags) : Nat × FFlags :=
  let (b, g) := roundTo f c r.1
  (b, r.2.or g)

/-- A conversion of R35: the operand's signalling NaN sets V (R34). -/
def convert (src dst : Fmt) (c : RCtx) (fpctl : Word) (b : Nat) : Nat × FFlags :=
  let x := readOperand fpctl src b
  finish dst c (x, .invalid (isSig x))

/-- Mix64 of R29. -/
def mix64 (z : Word) : Word :=
  let z := (z ^^^ (z >>> 30)) * 0xBF58_476D_1CE4_E5B9
  let z := (z ^^^ (z >>> 27)) * 0x94D0_49BB_1331_11EB
  z ^^^ (z >>> 31)

/-- SrWord of R29. -/
def srWord (seed pos : Word) : Nat := (mix64 (seed ^^^ mix64 pos)).toNat % 2 ^ 32

/-- The position of a vector lane (R29). -/
def lanePos (n : Nat) : Word := 0x8000_0000_0000_0000 ||| BitVec.ofNat 64 n

/-- The position of element (i, j) of the tile with index t (R29). -/
def tilePos (t i j : Nat) : Word :=
  0x4000_0000_0000_0000 ||| BitVec.ofNat 64 (t % 2 ^ 40 * 2 ^ 14) ||| BitVec.ofNat 64 (i * 2 ^ 7) ||| BitVec.ofNat 64 j

/-- RM of an FPCTL word: codes 0 to 4 (R30). -/
def fpRm (fpctl : Word) : RMode :=
  match ((fpctl >>> 16) &&& 7).toNat with
  | 1 => .rz | 2 => .rup | 3 => .rdn | 4 => .sr | _ => .rne

/-- The rounding context of an instruction: its field's mode or FPCTL.RM, the RFLUSH bit of the destination format, and
the word of the position (R26, R28, R33). -/
def rctx (fpctl seed : Word) (m : Option RMode) (dst : Fmt) (pos : Word) : RCtx :=
  ⟨m.getD (fpRm fpctl), fpctl.getLsbD (8 + dst.code) && dst.code ≤ 5, srWord seed pos⟩

/-- RoundToFormat to FP32 in RNE without flush, the step of AccAdd, reduction nodes and symbols (R37, R40, R55). -/
def toFp32 (x : Val × FFlags) : Nat × FFlags := finish .fp32 rneCtx x

/-- SatI32 of R43. -/
def satI32 (x : Int) : Nat × FFlags :=
  roundTo .i32 rneCtx (.rat (decide (x < 0)) x.natAbs 1 0)

/-- A two's complement reading. -/
def toSInt (w b : Nat) : Int := if 2 ^ (w - 1) ≤ b % 2 ^ w then (b % 2 ^ w : Nat) - (2 ^ w : Nat) else (b % 2 ^ w : Nat)

/-- The integer value of a bit pattern in an integer format (R25). -/
def intVal (f : Fmt) (b : Nat) : Int := if isSigned f then toSInt (fmtWidth f) b else (b % 2 ^ fmtWidth f : Nat)

/-- The low w bits of an integer. -/
def intMod (w : Nat) (x : Int) : Nat := (x % (2 ^ w : Nat)).toNat

/-- ⌊log₂ |x|⌋ of a finite non-zero value. -/
def valLog2 : Val → Option Int
  | .rat _ n d e => if n = 0 then none else some (ratLog2 n d + e)
  | _ => none

/-- The largest of a list of exponents. -/
def maxExp : List Val → Option Int
  | [] => none
  | x :: xs =>
    match valLog2 x, maxExp xs with
    | some a, some b => some (max a b)
    | some a, none => some a
    | none, r => r

/-- One product of a chunk on the grid of u = 2^q: its truncated integer and whether bits were lost (R37). -/
def chunkTerm (q : Int) : Val → Int × Bool
  | .rat neg n d e =>
    let (k, r, _) := onGrid n d e q
    ((if neg then -(k : Int) else k), decide (0 < r))
  | _ => (0, false)

/-- ChunkSum over finite products (R37). -/
def chunkFinite (ps : List Val) : Val × FFlags :=
  match maxExp ps with
  | none => (.rat false 0 1 0, .none)
  | some e =>
    let q := e - 52
    let ts := ps.map (chunkTerm q)
    let m : Int := (ts.map (·.1)).foldl (· + ·) 0
    (.rat (decide (m < 0)) m.natAbs 1 q, ⟨false, false, false, ts.any (·.2)⟩)

/-- ChunkSum with the special values of R38: the products, each with its flags. -/
def chunkSum (ps : List (Val × FFlags)) : Val × FFlags :=
  let fl := ps.foldl (fun a p => a.or p.2) .none
  let vs := ps.map (·.1)
  if vs.any (fun v => match v with | .nan _ => true | _ => false) then (.nan false, fl)
  else
    let pos := vs.any (· == .inf false)
    let neg := vs.any (· == .inf true)
    if pos && neg then (.nan false, fl.or (.invalid true))
    else if pos then (.inf false, fl)
    else if neg then (.inf true, fl)
    else
      let (s, g) := chunkFinite vs
      (s, fl.or g)

/-- AccAdd of R37: acc + s × c, rounded once to FP32 in RNE; an exact zero chunk keeps the sign rule of R38. -/
def accAdd (acc : Nat) (s : Val) (c : Val × FFlags) : Nat × FFlags :=
  let (t, f) := mulVal s c.1
  let (b, g) := toFp32 (addVal .rne (decodeVal .fp32 acc) t)
  (b, (c.2.or f).or g)

/-- The E8M0 scale as a value (R24). -/
def e8m0 (b : Nat) : Val := if b = 0xFF then .nan false else .rat false 1 1 ((b : Int) - 127)

/-! ## Quantization scales (R258, R282) -/

/-- The largest finite value of a quantized format (R258, R282). -/
def quantTop (f : Fmt) : Nat :=
  match f with
  | .e4m3 => 448
  | .e5m2 => 57344
  | _ => 6

/-- The magnitude of a finite value as a fraction with an exponent; 0 for any other. -/
def magnitude : Val → Nat × Nat × Int
  | .rat _ n d e => (n, d, e)
  | _ => (0, 1, 0)

/-- The larger of two magnitudes. -/
def largerVal (x y : Val) : Val := if ltVal (absVal x) (absVal y) then absVal y else absVal x

/-- The smallest E from `low` to 127 with a ≤ F × 2^E, for the largest finite magnitude a of the values; 0 where a = 0 or no
value is finite (R258, R282). -/
def quantExp (low : Int) (f : Fmt) (xs : List Val) : Int :=
  let fin := xs.filter (fun v => match v with | .rat .. => true | _ => false)
  let (n, d, e) := magnitude (fin.foldl largerVal (.rat false 0 1 0))
  if n = 0 then 0
  else
    let l := ratLog2 n (d * quantTop f) + e
    let (lo, r, _) := onGrid n (d * quantTop f) e l
    max low (min 127 (if lo = 1 ∧ r = 0 then l else l + 1))

/-- The halving step of TreeReduce (R40): neighbours combined in order. -/
def pairUp {α : Type} (op : α → α → α) : List α → List α
  | a :: b :: rest => op a b :: pairUp op rest
  | r => r

/-- TreeReduce of R40 over a list of 2^k lanes. -/
def treeReduce {α : Type} (op : α → α → α) : Nat → List α → List α
  | 0, xs => xs
  | k + 1, xs => treeReduce op k (pairUp op xs)

end Sys2Proof.Machine
end

