-- ==== Sys2Proof/Machine/Press.lean ====
section
/-!
DEFINITION. Machine/Press.lean: the Press block format (spec/04_press.md R72 to R81): tables, canonical codes, decoding
and encoding of one block.
-/
namespace Sys2Proof.Machine

/-- A press table: the code lengths of the 256 symbols (R76). -/
abbrev PressTable := List Nat

/-- A valid table (R76): lengths of 12 or less, at least one code, and a Kraft sum of at most 1. -/
def PressTable.valid (t : PressTable) : Bool :=
  t.all (· ≤ 12) && t.any (· != 0) &&
    decide ((t.map (fun l => if l = 0 then 0 else 2 ^ (12 - l))).foldl (· + ·) 0 ≤ 2 ^ 12)

/-- The symbols whose code has length l, ascending. -/
def symbolsOf (t : PressTable) (l : Nat) : List Nat := (List.range 256).filter (fun s => t.getD s 0 == l)

/-- The canonical code by length: for l = 1, 2, …: the first code word and the symbols (R77). -/
def canonFrom (t : PressTable) : Nat → Nat → Nat → List (Nat × Nat × List Nat)
  | 0, _, _ => []
  | n + 1, l, c =>
    let syms := symbolsOf t l
    (l, c, syms) :: canonFrom t n (l + 1) ((c + syms.length) * 2)

/-- CanonCodes of R77. -/
def canonCodes (t : PressTable) : List (Nat × Nat × List Nat) := canonFrom t 12 1 0

/-- The low l bits in reverse order. -/
def revBits : Nat → Nat → Nat
  | 0, _ => 0
  | l + 1, x => x % 2 * 2 ^ l + revBits l (x / 2)

/-- MatchCode of R79: the symbol and length whose code stands first in the buffer. -/
def matchCode (codes : List (Nat × Nat × List Nat)) (x : Nat) : Option (Nat × Nat) :=
  codes.findSome? fun (l, c, syms) =>
    let v := revBits l x
    if c ≤ v ∧ v - c < syms.length then some (syms.getD (v - c) 0, l) else none

/-- Sym of R74. -/
def pressSym (u : Nat) : Nat := u / 2 ^ 7 % 2 ^ 8
/-- Raw of R74. -/
def pressRaw (u : Nat) : Nat := u / 2 ^ 15 % 2 * 2 ^ 7 + u % 2 ^ 7
/-- Join of R74. -/
def pressJoin (sym raw : Nat) : Nat := raw / 2 ^ 7 % 2 * 2 ^ 15 + sym * 2 ^ 7 + raw % 2 ^ 7

/-- Claiming (R79): each lane that holds fewer than 20 bits takes the next word. -/
def claim : List (Nat × Nat) → List Nat → Option (List (Nat × Nat) × List Nat)
  | [], ws => some ([], ws)
  | (buf, cnt) :: ls, ws =>
    if cnt < 20 then
      match ws with
      | [] => none
      | x :: ws => (claim ls ws).map fun (r, ws) => ((buf + x * 2 ^ cnt, cnt + 32) :: r, ws)
    else (claim ls ws).map fun (r, ws) => ((buf, cnt) :: r, ws)

/-- Decoding one element in each lane (R79). -/
def decodeLanes (codes : List (Nat × Nat × List Nat)) : List (Nat × Nat) → Option (List (Nat × Nat) × List Nat)
  | [] => some ([], [])
  | (buf, cnt) :: ls =>
    match matchCode codes buf with
    | none => none
    | some (sym, l) =>
      (decodeLanes codes ls).map fun (r, es) =>
        ((buf / 2 ^ (l + 8), cnt - (l + 8)) :: r, pressJoin sym (buf / 2 ^ l % 2 ^ 8) :: es)

/-- The steps of PressDecode (R79): the elements, the lanes and the words left. -/
def decodeSteps (codes : List (Nat × Nat × List Nat)) : Nat → List (Nat × Nat) → List Nat → Option (List Nat)
  | 0, ls, ws => if ls.all (·.1 == 0) && ws.all (· == 0) then some [] else none
  | n + 1, ls, ws =>
    match claim ls ws with
    | none => none
    | some (ls, ws) =>
      match decodeLanes codes ls with
      | none => none
      | some (ls, es) => (decodeSteps codes n ls ws).map (es ++ ·)

/-- PressDecode of R79 with the check of PLEN (R81): the elements of a block of L bytes, or none for PRESS_FORMAT. -/
def pressDecode (t : PressTable) (plen len : Nat) (words : List Nat) : Option (List Nat) :=
  if len / 64 < plen + 2 ∨ t.valid = false then none
  else decodeSteps (canonCodes t) (len / 32) (List.replicate 16 (0, 0)) words

/-- The code word and length of a symbol (R77). -/
def codeOf (codes : List (Nat × Nat × List Nat)) (sym : Nat) : Option (Nat × Nat) :=
  codes.findSome? fun (l, c, syms) => (syms.idxOf? sym).map fun i => (c + i, l)

/-- A coded element: its bits, first bit lowest, and their count (R79). -/
def codeElem (codes : List (Nat × Nat × List Nat)) (u : Nat) : Option (Nat × Nat) :=
  (codeOf codes (pressSym u)).map fun (c, l) => (revBits l c + pressRaw u * 2 ^ l, l + 8)

/-- The stream of a lane: its coded elements joined. -/
def laneStream : List (Nat × Nat) → Nat
  | [] => 0
  | (b, l) :: r => b + laneStream r * 2 ^ l

/-- Every 16th element, from element n (R79). -/
def laneElems {α : Type} (d : α) (xs : List α) (n : Nat) : Nat → List α
  | 0 => []
  | k + 1 => xs.getD n d :: laneElems d xs (n + 16) k

/-- Claiming while encoding (R80): each lane that holds fewer than 20 bits gives its next word. -/
def emit : List (Nat × Nat) → List (Nat × Nat) × List Nat
  | [] => ([], [])
  | (str, cnt) :: ls =>
    let (r, ws) := emit ls
    if cnt < 20 then ((str / 2 ^ 32, cnt + 32) :: r, str % 2 ^ 32 :: ws) else ((str, cnt) :: r, ws)

/-- The steps of PressEncode (R80): the words of the stream. -/
def encodeSteps : List (List Nat) → List (Nat × Nat) → List Nat
  | [], _ => []
  | lens :: rest, ls =>
    let (ls, ws) := emit ls
    ws ++ encodeSteps rest (List.zipWith (fun (x : Nat × Nat) l => (x.1, x.2 - l)) ls lens)

/-- Rows of 16. -/
def rows16 {α : Type} : Nat → List α → List (List α)
  | 0, _ => []
  | n + 1, xs => xs.take 16 :: rows16 n (xs.drop 16)

/-- PressEncode of R80: PLEN and words, or none for RAW. -/
def pressEncode (t : PressTable) (len : Nat) (us : List Nat) : Option (Nat × List Nat) :=
  if t.valid = false then none
  else
    match us.mapM (codeElem (canonCodes t)) with
    | none => none
    | some cs =>
      let n := len / 32
      let streams := (List.range 16).map (fun i => (laneStream (laneElems (0, 0) cs i n), 0))
      let words := encodeSteps (rows16 n (cs.map (·.2))) streams
      let units := (words.length + 15) / 16
      if 63 < units ∨ len ≤ 64 * units then none
      else some (units - 1, words ++ List.replicate (16 * units - words.length) 0)

/-- Numbers of k bytes each, n of them. -/
def numsOf (k : Nat) : Nat → List Byte → List Nat
  | 0, _ => []
  | n + 1, bs => leNat (bs.take k) :: numsOf k n (bs.drop k)

/-- The bytes of numbers of k bytes each. -/
def bytesOf (k : Nat) (xs : List Nat) : List Byte := xs.flatMap (leBytes k)

end Sys2Proof.Machine
end

