-- ==== Sys2Proof/Machine/Tiles.lean ====
section
/-!
DEFINITION. Machine/Tiles.lean: tile table entries, tile geometry and images, symbols, and the values of a tile
(spec/03_tiles.md R44 to R58, spec/04_press.md R72 to R86).
-/
namespace Sys2Proof.Machine

/-! ## Fields of an entry (R52) -/

/-- Field [lo + len - 1 : lo] of word i of an entry. -/
def Tte.get (t : Tte) (i lo len : Nat) : Nat := t.toNat / 2 ^ (64 * i + lo) % 2 ^ len
/-- Replace field [lo + len - 1 : lo] of word i. -/
def Tte.put (t : Tte) (i lo len v : Nat) : Tte :=
  BitVec.ofNat 512 (t.toNat - t.get i lo len * 2 ^ (64 * i + lo) + v % 2 ^ len * 2 ^ (64 * i + lo))
/-- Word i of an entry. -/
def Tte.word (t : Tte) (i : Nat) : Word := BitVec.ofNat 64 (t.get i 0 64)
/-- Flag at a bit of word 0. -/
def Tte.flag (t : Tte) (b : Nat) : Bool := t.getLsbD b

/-- KIND: 0 STORED, 1 ZERO, 2 CONST, 3 RAMP, 4 HAD, 5 REPEAT. -/
def Tte.kind (t : Tte) : Nat := t.get 0 61 3
/-- FMT as a code. -/
def Tte.fmtCode (t : Tte) : Nat := t.get 0 57 4
/-- FMT; FP32 for a code that names no format. -/
def Tte.fmt (t : Tte) : Fmt := (fmtOfCode t.fmtCode).getD .fp32
/-- LAYOUT: 0 ROW, 1 COL, 2 PLANE, 3 ROWCOL. -/
def Tte.layout (t : Tte) : Nat := t.get 0 55 2
/-- Rows. -/
def Tte.rows (t : Tte) : Nat := t.get 0 48 7 + 1
/-- Columns. -/
def Tte.cols (t : Tte) : Nat := t.get 0 41 7 + 1
/-- TIER. -/
def Tte.tier (t : Tte) : Nat := t.get 0 38 3
/-- DETECT. -/
def Tte.detect (t : Tte) : Bool := t.flag 37
/-- PRESS. -/
def Tte.press (t : Tte) : Bool := t.flag 36
/-- AON. -/
def Tte.aon (t : Tte) : Bool := t.flag 35
/-- POOLED. -/
def Tte.pooled (t : Tte) : Bool := t.flag 34
/-- VERSIONED. -/
def Tte.versioned (t : Tte) : Bool := t.flag 33
/-- ROWSC. -/
def Tte.rowsc (t : Tte) : Bool := t.flag 32
/-- MXAXIS. -/
def Tte.mxaxis (t : Tte) : Bool := t.flag 31
/-- SNAN, SINF, SSUB as bits 2, 1, 0. -/
def Tte.summary (t : Tte) : Nat := t.get 0 28 3
/-- PTAB. -/
def Tte.ptab (t : Tte) : Nat := t.get 0 3 8
/-- LOC. -/
def Tte.loc (t : Tte) : Nat := t.get 1 24 40
/-- POOL. -/
def Tte.pool (t : Tte) : Nat := t.get 1 16 8
/-- OWNER. -/
def Tte.owner (t : Tte) : BitVec 16 := BitVec.ofNat 16 (t.get 1 0 16)
/-- PLEN of a block. -/
def Tte.plen (t : Tte) (b : Nat) : Nat := t.get 2 (16 + 6 * b) 6
/-- REFCNT. -/
def Tte.refcnt (t : Tte) : Nat := t.get 2 0 16
/-- SYMA. -/
def Tte.syma (t : Tte) : Nat := t.get 2 32 32
/-- SYMB. -/
def Tte.symb (t : Tte) : Nat := t.get 2 0 32
/-- SYMC. -/
def Tte.symc (t : Tte) : Nat := t.get 4 32 32
/-- TSCALE. -/
def Tte.tscale (t : Tte) : Nat := t.get 3 32 32
/-- RSIDX. -/
def Tte.rsidx (t : Tte) : Nat := t.get 3 0 32
/-- CAVE. -/
def Tte.cave (t : Tte) : Nat := t.get 4 0 32
/-- STAMP. -/
def Tte.stamp (t : Tte) : Word := t.word 5
/-- PVER. -/
def Tte.pver (t : Tte) : Nat := t.get 6 48 16

/-- Word i of an entry as TINFO reads it (R6, R52): reserved bits read zero, and SFIN is NOT (SNAN OR SINF). -/
def Tte.view (t : Tte) (i : Nat) : Word :=
  match i with
  | 0 => BitVec.ofNat 64 (((t.put 0 0 3 0).put 0 27 1 (if t.summary / 2 = 0 then 1 else 0)).get 0 0 64)
  | 4 => if t.kind = 0 then BitVec.ofNat 64 (t.get 4 0 32) else t.word 4
  | 6 => BitVec.ofNat 64 ((t.put 6 32 16 0).get 6 0 64)
  | i => t.word i

/-- LOC of a pooled tile without backing. -/
def noLoc : Nat := 2 ^ 40 - 1

/-- An entry with its summary set (R54); integer tiles have all three bits 0. SFIN reads as NOT (SNAN OR SINF). -/
def Tte.setSummary (t : Tte) (sm : Nat) : Tte :=
  let sm := if isFloat t.fmt then sm % 8 else 0
  (t.put 0 28 3 sm).put 0 27 1 (if sm / 2 = 0 then 1 else 0)

/-! ## Geometry (R44 to R47) -/

/-- The least multiple of m at or above n. -/
def roundUp (n m : Nat) : Nat := (n + m - 1) / m * m

/-- The bytes of one plane of a PLANE image (R46). -/
def planeBytes (r c : Nat) : Nat := roundUp ((r * c + 7) / 8) 64

/-- The padded length of the image, or of one half of a ROWCOL image, without a scale granule (R45, R46). -/
def Tte.imageLen (t : Tte) : Nat :=
  let w := fmtWidth t.fmt
  if t.layout = 2 then roundUp (w * planeBytes t.rows t.cols) 512
  else roundUp ((t.rows * t.cols * w + 7) / 8) 512

/-- An image, or one half, with the scale granule of an E2M1 tile (R47). -/
def Tte.halfLen (t : Tte) : Nat := t.imageLen + (if t.fmt = .e2m1 then 512 else 0)

/-- The backing length: both halves of a ROWCOL image (R46). -/
def Tte.backLen (t : Tte) : Nat := if t.layout = 3 then 2 * t.halfLen else t.halfLen

/-- The values of a tile: element patterns in row order, and the E8M0 scales of an E2M1 tile, in the order of the bytes
that R47 gives: 4i + b for line i and block b. -/
structure TileVals where
  vals : List Nat
  scales : List Nat
  deriving DecidableEq, Repr

/-- Element (i, j) of r rows of c columns. -/
def elemAt (vals : List Nat) (c i j : Nat) : Nat := vals.getD (i * c + j) 0

/-- Element patterns in column order. -/
def colOrder (vals : List Nat) (r c : Nat) : List Nat :=
  (List.range c).flatMap (fun j => (List.range r).map (fun i => elemAt vals c i j))

/-- The bytes of elements of w bits, packed without gaps (R45). -/
def packBytes (w : Nat) (vals : List Nat) : List Byte :=
  if w = 4 then pairBytes vals else bytesOf (w / 8) vals
where
  /-- Two elements to a byte, the even one low (R24). -/
  pairBytes : List Nat → List Byte
    | [] => []
    | [x] => [BitVec.ofNat 8 (x % 16)]
    | x :: y :: r => BitVec.ofNat 8 (x % 16 + 16 * (y % 16)) :: pairBytes r

/-- n elements of w bits from packed bytes. -/
def unpackBytes (w n : Nat) (bs : List Byte) : List Nat :=
  if w = 4 then (nibbles bs).take n else numsOf (w / 8) n bs
where
  /-- The nibbles of bytes, low first. -/
  nibbles : List Byte → List Nat
    | [] => []
    | b :: r => b.toNat % 16 :: b.toNat / 16 :: nibbles r

/-- Bytes from bits, LSB first. -/
def bitBytes : Nat → List Bool → List Byte
  | 0, _ => []
  | n + 1, bs =>
    BitVec.ofNat 8 ((bs.take 8).foldr (fun b a => a * 2 + (if b then 1 else 0)) 0) :: bitBytes n (bs.drop 8)

/-- Bits from bytes, LSB first. -/
def byteBits (bs : List Byte) : List Bool := bs.flatMap (fun b => (List.range 8).map (b.getLsbD ·))

/-- Pad bytes with zeros to a length. -/
def padTo (n : Nat) (bs : List Byte) : List Byte := bs ++ List.replicate (n - bs.length) 0

/-- The padded image of element patterns in a layout; for ROWCOL, its ROW half (R46). -/
def Tte.image (t : Tte) (vals : List Nat) : List Byte :=
  let w := fmtWidth t.fmt
  padTo t.imageLen <|
    if t.layout = 1 then packBytes w (colOrder vals t.rows t.cols)
    else if t.layout = 2 then
      (List.range w).flatMap (fun b => bitBytes (planeBytes t.rows t.cols) (vals.map (·.testBit b)))
    else packBytes w vals

/-- The COL half of a ROWCOL image (R46). -/
def Tte.colImage (t : Tte) (vals : List Nat) : List Byte :=
  padTo t.imageLen (packBytes (fmtWidth t.fmt) (colOrder vals t.rows t.cols))

/-- The element patterns of a padded image; of a ROWCOL image, from its ROW half. -/
def Tte.unimage (t : Tte) (bs : List Byte) : List Nat :=
  let w := fmtWidth t.fmt
  let n := t.rows * t.cols
  if t.layout = 1 then colOrder (unpackBytes w n bs) t.cols t.rows
  else if t.layout = 2 then
    let p := planeBytes t.rows t.cols
    let planes := (List.range w).map (fun b => (byteBits ((bs.drop (b * p)).take p)).take n)
    planes.foldr (fun pl acc => List.zipWith (fun (b : Bool) a => a * 2 + (if b then 1 else 0)) pl acc)
      (List.replicate n 0)
  else unpackBytes w n bs

/-- The blocks of an E2M1 line of n elements. -/
def mxBlocks (n : Nat) : Nat := (n + 31) / 32

/-- The scale bytes of an E2M1 tile that its elements use, in place, and pad elsewhere (R47). -/
def Tte.cleanScales (t : Tte) (scales : List Nat) : List Nat :=
  let lines := if t.mxaxis then t.cols else t.rows
  let blocks := mxBlocks (if t.mxaxis then t.rows else t.cols)
  (List.range 512).map (fun n => if n / 4 < lines ∧ n % 4 < blocks then scales.getD n 0 else 0)

/-- The scale granule of an E2M1 tile (R47): the unused bytes are pad. -/
def Tte.scaleBytes (t : Tte) (scales : List Nat) : List Byte :=
  if t.fmt = .e2m1 then (t.cleanScales scales).map (BitVec.ofNat 8 ·) else []

/-- The bytes of a whole unpressed backing. -/
def Tte.backing (t : Tte) (v : TileVals) : List Byte :=
  let half := t.image v.vals ++ t.scaleBytes v.scales
  if t.layout = 3 then half ++ (t.colImage v.vals ++ t.scaleBytes v.scales) else half

/-! ## Symbols (R55) -/

/-- An FP32 value read by Decode. -/
def f32 (b : Nat) : Val := decodeVal .fp32 b
/-- The FP32 rounding F() of R55. -/
def f32Round (x : Val) : Val := f32 (roundTo .fp32 rneCtx x).1
/-- A small integer as a value. -/
def natVal (n : Nat) : Val := .rat false n 1 0

/-- The value (i, j) of a RAMP (R55). -/
def rampVal (f : Fmt) (base row col i j : Nat) : Nat :=
  if isFloat f then
    let a := f32Round (mulVal (natVal i) (f32 row)).1
    let b := f32Round (addVal .rne (f32 base) a).1
    let c := f32Round (mulVal (natVal j) (f32 col)).1
    (roundTo f rneCtx (f32Round (addVal .rne b c).1)).1
  else intMod (fmtWidth f) (toSInt 32 base + i * toSInt 32 row + j * toSInt 32 col)

/-- Whether popcount(i AND j) is odd. -/
def oddMask (i j : Nat) : Bool := (List.range 7).foldl (fun b k => b != (i.testBit k && j.testBit k)) false

/-- The value (i, j) of a HAD (R55). -/
def hadVal (f : Fmt) (scale i j : Nat) : Nat :=
  if isFloat f then (roundTo f rneCtx (if oddMask i j then negVal (f32 scale) else f32 scale)).1
  else intMod (fmtWidth f) ((if oddMask i j then -1 else 1) * toSInt 32 scale)

/-- The values of a ZERO, CONST, RAMP or HAD entry (R55); an E2M1 ZERO has every scale 0x7F. -/
def Tte.symbolVals (t : Tte) : TileVals :=
  let f := t.fmt
  let at_ := fun i j =>
    match t.kind with
    | 2 => t.syma % 2 ^ fmtWidth f
    | 3 => rampVal f t.syma t.symb t.symc i j
    | 4 => hadVal f t.syma i j
    | _ => 0
  ⟨(List.range t.rows).flatMap (fun i => (List.range t.cols).map (at_ i)), t.cleanScales (List.replicate 512 0x7F)⟩

/-- Whether a kind is a symbol with values of its own: ZERO, CONST, RAMP, HAD. -/
def isSymbol (kind : Nat) : Bool := decide (1 ≤ kind ∧ kind ≤ 4)

/-- The class of an element as summary bits SNAN 4, SINF 2, SSUB 1 (R54). -/
def elemClass (f : Fmt) (b : Nat) : Nat :=
  (if isNaNBits f b then 4 else 0) + (if isInfBits f b then 2 else 0) + (if isSubnormal f b then 1 else 0)

/-- The scale byte of element (i, j) of an E2M1 tile (R47). -/
def Tte.scaleOf (t : Tte) (scales : List Nat) (i j : Nat) : Nat :=
  if t.mxaxis then scales.getD (4 * j + i / 32) 0 else scales.getD (4 * i + j / 32) 0

/-- The scale bytes of an E2M1 tile that its elements use. -/
def Tte.usedScales (t : Tte) (scales : List Nat) : List Nat :=
  (List.range t.rows).flatMap (fun i => (List.range t.cols).map (t.scaleOf scales i))

/-- The exact summary of a tile's values (R54): a scale of 0xFF makes its elements NaN (R24). Whether such an element with a
subnormal pattern still counts as a subnormal is not in the spec: it does, DESIGN CHOICE (log 71). -/
def Tte.summaryOf (t : Tte) (v : TileVals) : Nat :=
  let base := v.vals.foldl (fun a b => a ||| elemClass t.fmt b) 0
  if t.fmt = .e2m1 && (t.usedScales v.scales).any (· == 0xFF) then base ||| 4 else base

/-! ## Tables (R48, R49, R51) -/

/-- What a job brings to a tile access: its owner, table base, core, scratch size, gang and launch. -/
structure TCtx where
  owner : BitVec 16
  ttb : Word
  core : Nat
  scrlog : Nat
  launch : Nat
  gangNo : Option Nat
  gangSize : Nat
  deriving DecidableEq, Repr

/-- The context of a job. -/
def Job.tctx (j : Job) : TCtx := ⟨j.owner, j.ttbase, j.core, j.scrlog, j.launch, j.gangNo, j.gangSize⟩

/-- The place of GTT entry 0, for a table base of tier VAT or PKG (R48). -/
def ttPlace (ttb : Word) : Option (Tier × Nat) :=
  match bits ttb 61 3 with
  | 2 => some (.vat, bits ttb 0 40 / 32 * 32 * 512)
  | 3 => some (.pkg, bits ttb 0 40 / 32 * 32 * 512)
  | _ => none

/-- Whether a tile index names an LTT entry (R49). -/
def isLtt (t : Nat) : Bool := decide (2 ^ 32 ≤ t)

/-- The key of an entry (R48): an empty table raises TILE_ABSENT. -/
def entryKey (c : TCtx) (acc : BitVec 2) (t : Nat) : Res Nat :=
  if isLtt t then .ok (lttKey c.core (t - 2 ^ 32))
  else
    match ttPlace c.ttb with
    | none => .error (tileAbsent acc t)
    | some (tier, pa) => (exists? tier (pa + 64 * t) 64).map fun _ => cellKey tier (pa + 64 * t)

/-- The copy of an entry that the core in focus reads: its own, or one whose changes are not yet in the table (R50). -/
def State.entryCopy (s : State) (k : Nat) : Option TteCopy :=
  (s.entries.find? (fun c => c.key == k && c.core == s.job.core)) <|> s.entries.find? (fun c => c.key == k && c.late)

/-- The entry at a key in its table. -/
def State.tableTte (s : State) (k : Nat) : Tte := BitVec.ofNat 512 (s.load k 64)

/-- The entry at a key as the core in focus sees it (R50). A scalar store to the table changes no copy. -/
def State.tte (s : State) (k : Nat) : Tte :=
  match s.entryCopy k with
  | some c => c.tte
  | none => s.tableTte k

/-- A device change of the entry at a key (R66): it reaches every copy, and the table unless a copy keeps it back (R50). -/
def State.setTte (s : State) (k : Nat) (t : Tte) : State :=
  let s' := { s with entries := s.entries.map (fun c => if c.key = k then { c with tte := t } else c) }
  if s.entries.any (fun c => c.key == k && c.late) then s' else s'.store k 64 t.toNat

/-- The copies of entries whose keys lie in a range are gone, as the range is written anew (R97). -/
def State.forgetCopies (s : State) (r : Nat × Nat) : State :=
  { s with entries := s.entries.filter (fun c => c.key < r.1 || r.2 ≤ c.key) }

/-- The key of a byte of the owner header, 16 KiB below the table (R48). -/
def headerKey (c : TCtx) (off : Nat) : Option Nat :=
  (ttPlace c.ttb).bind fun (tier, pa) => if pa < 16384 then none else some (cellKey tier (pa - 16384 + off))

/-- Whether a press-table directory slot is empty (R75). -/
def emptySlot (s : State) (c : TCtx) (slot : Nat) : Bool :=
  match headerKey c (8192 + 8 * slot) with
  | none => true
  | some k => !(bits (s.load64 k) 61 3 == 2 || bits (s.load64 k) 61 3 == 3)

/-- The press table in a directory slot (R75, R76); an empty slot gives no table, which is invalid, as does a table base
below 16 KiB; bytes that lie beyond the slot's tier read as zeros (log 45). -/
def pressTable (s : State) (c : TCtx) (slot : Nat) : PressTable :=
  match headerKey c (8192 + 8 * slot) with
  | none => []
  | some k =>
    let d := s.load64 k
    let at_ := fun tier => (memRead s.mem (cellKey tier (bits d 0 40 * 512)) 256).map (·.toNat)
    match bits d 61 3 with
    | 2 => at_ .vat
    | 3 => at_ .pkg
    | _ => []

/-- The places that a read of a press table reaches: its directory slot, and its 256 bytes where the slot names them (R75). -/
def pressPlaces (s : State) (c : TCtx) (slot : Nat) : List (Nat × Nat) :=
  match headerKey c (8192 + 8 * slot) with
  | none => []
  | some k =>
    let d := s.load64 k
    (k, 8) :: (match bits d 61 3 with
      | 2 => [(cellKey .vat (bits d 0 40 * 512), 256)]
      | 3 => [(cellKey .pkg (bits d 0 40 * 512), 256)]
      | _ => [])

/-- The press table of a transfer, which is dropped where the read of the table meets an uncorrectable error (R394; log 42). -/
def tableFor (s : State) (c : TCtx) (slot : Nat) : Res PressTable :=
  (needAllGood s (pressPlaces s c slot)).map fun _ => pressTable s c slot

/-- The press table of a read of some blocks of a tile: a RAW block uses none, so where every one of them is RAW neither the
slot nor the table is read (R78). -/
def tableOfBlocks (s : State) (c : TCtx) (t : Tte) (blocks : List Nat) : Res PressTable :=
  if blocks.all (fun b => t.plen b == 63) then .ok [] else tableFor s c t.ptab

/-! ## Malformed entries (R53, R96) -/

/-- The tiers of a table (R51). -/
def tierFits (ltt : Bool) (tier : Nat) : Bool :=
  if ltt then tier == 0 || tier == 1 || tier == 6 else decide (2 ≤ tier ∧ tier ≤ 6)

/-- The number of LOC values of a tier (R51). -/
def locRange (tier : Nat) : Nat :=
  match tier with
  | 0 => 2 ^ 13 | 1 => 2 ^ 16 | 2 => 2 ^ 22 | 3 => 2 ^ 31 | 4 => 2 ^ 35 | _ => 2 ^ 40

/-- Whether an entry marks a pooled tile without backing (R53, R61). -/
def Tte.bare (t : Tte) : Bool := t.pooled && t.loc == noLoc

/-- The place of the backing: within the tier's range, and inside the allocation of SCRATCH and CLUSTER (R51, R53, R96). -/
def Tte.locOk (t : Tte) (c : TCtx) : Bool :=
  if t.tier = 6 then true
  else if t.bare then t.kind != 0
  else
    decide (t.loc < locRange t.tier) &&
      (decide (2 ≤ t.tier) || decide (t.loc % 2 ^ 13 + t.backLen / 512 ≤ 2 ^ c.scrlog)) &&
      (t.tier != 1 || decide (t.loc / 2 ^ 13 < c.gangSize))

/-- The checks of R53 that need no other entry. -/
def Tte.shapeOk (t : Tte) (c : TCtx) (ltt : Bool) : Bool :=
  let f := fmtOfCode t.fmtCode
  decide (t.kind ≤ 5) && t.tier != 7 && f.isSome && f != some .i64 && f != some .n64 && tierFits ltt t.tier && t.locOk c &&
    (!t.press || ((t.fmt == .bf16 || t.fmt == .f16 || t.fmt == .i16 || t.fmt == .n16) && t.layout != 3)) &&
    (!t.mxaxis || t.fmt == .e2m1) && decide (t.imageLen ≤ 32768) &&
    !(t.fmt == .e2m1 && decide (2 ≤ t.kind ∧ t.kind ≤ 4))

/-- The tile index of an entry number in the same table; none above an LTT's last entry (R49). -/
def sameTable (ltt : Bool) (x : Nat) : Option Nat :=
  if ltt then (if x ≤ 1023 then some (2 ^ 32 + x) else none) else some x

/-- ROWSC names an FP32 tile with enough columns (R53); an RSIDX above an LTT's last entry names none (log 46). -/
def rowScaleOk (s : State) (c : TCtx) (ltt : Bool) (t : Tte) : Res Bool :=
  if !t.rowsc then .ok true
  else
    match sameTable ltt t.rsidx with
    | none => .ok false
    | some x => (entryKey c 0 x).map fun k => let r := s.tte k; s.good k 64 && r.fmtCode == 0 && decide (t.rows ≤ r.cols)

/-- REPEAT names a well-formed STORED entry of its own shape (R53, R56). -/
def repeatOk (s : State) (c : TCtx) (ltt : Bool) (t : Tte) : Res Bool :=
  if t.kind ≠ 5 then .ok true
  else
    match sameTable ltt t.syma with
    | none => .ok false
    | some x =>
      (entryKey c 0 x).bind fun k =>
        let r := s.tte k
        (rowScaleOk s c ltt r).map fun ok =>
          ok && s.good k 64 && r.kind == 0 && r.tier != 6 && r.shapeOk c ltt && r.fmtCode == t.fmtCode && r.layout == t.layout &&
            r.rows == t.rows && r.cols == t.cols

/-- Whether an entry is well-formed (R53); an ABSENT one may be, LOC being software's own (R51). -/
def wellFormedEntry (s : State) (c : TCtx) (idx : Nat) (t : Tte) : Res Bool :=
  let ltt := isLtt idx
  if t.shapeOk c ltt = false then .ok false
  else (rowScaleOk s c ltt t).bind fun a => (repeatOk s c ltt t).map fun b => a && b

/-- Whether an entry is well-formed and not ABSENT (R53). -/
def entryOk (s : State) (c : TCtx) (idx : Nat) (t : Tte) : Res Bool :=
  if t.tier = 6 then .ok false else wellFormedEntry s c idx t

/-- An entry after step 5 of R70: its key and content, or TILE_ABSENT with the tile index (R53, R394). An error in the table is
met only where no copy is read (R50). -/
def readEntry (s : State) (c : TCtx) (acc : BitVec 2) (idx : Nat) : Res (Nat × Tte) :=
  (entryKey c acc idx).bind fun k =>
    let t := s.tte k
    (entryOk s c idx t).bind fun ok =>
      if ok && ((s.entryCopy k).isSome || s.good k 64) then .ok (k, t) else .error (tileAbsent acc idx)

/-! ## Backing and values -/

/-- The core that holds a sibling position of a gang at this moment, and whether a job of that CORE instance is still to
come (R95). -/
def siblingCore (s : State) (c : TCtx) (pos : Nat) : Option Nat :=
  (s.onCores.find? (fun j => j.uid != 0 && j.launch == c.launch && j.gangNo == c.gangNo && j.gangPos == pos)).map (·.core)

/-- The key of the first byte of a backing of a tile (R51): TILE_ABSENT where no job holds the sibling's core (R95). -/
def backKey (s : State) (c : TCtx) (acc : BitVec 2) (idx : Nat) (t : Tte) : Res Nat :=
  let at_ := fun tier (pa : Nat) => (exists? tier pa t.backLen).map fun _ => cellKey tier pa
  match t.tier with
  | 0 => .ok (cellKey .scratch (c.core * 2 ^ 22 + t.loc * 512))
  | 1 =>
    match siblingCore s c (t.loc / 2 ^ 13) with
    | some k => .ok (cellKey .scratch (k * 2 ^ 22 + t.loc % 2 ^ 13 * 512))
    | none => .error (tileAbsent acc idx)
  | 2 => at_ .vat (t.loc * 512)
  | 3 => at_ .pkg (t.loc * 512)
  | 4 => at_ .far (t.loc * 512)
  | _ => at_ .peer (t.loc / 2 ^ 24 * 2 ^ 33 + t.loc % 2 ^ 24 * 512)

/-- The length of block b of a pressed image of p bytes (R72). -/
def blockLen (p b : Nat) : Nat := min 4096 (p - 4096 * b)
/-- The number of blocks (R72). -/
def blockCount (p : Nat) : Nat := (p + 4095) / 4096

/-- Decode one block at a key: PRESS_FORMAT, or an uncorrectable error, ends in CORRUPT (R79, R81, R82). -/
def readBlock (s : State) (tab : PressTable) (k plen len : Nat) : Res (List Byte) :=
  if plen = 63 then (needGood s k len).map fun _ => memRead s.mem k len
  else
    (needGood s k (64 * (plen + 1))).bind fun _ =>
      match pressDecode tab plen len (numsOf 4 (16 * (plen + 1)) (memRead s.mem k (64 * (plen + 1)))) with
      | some us => .ok (bytesOf 2 us)
      | none => .error (.post 3)

/-- The bytes that the coded form of block b of a pressed tile occupies (R73). -/
def Tte.codedLen (t : Tte) (b : Nat) : Nat := if t.plen b = 63 then blockLen t.imageLen b else 64 * (t.plen b + 1)

/-- What a read of a whole backing reads, as keys and lengths: of a pressed tile, each block's coded bytes and none beyond them
(R73). -/
def Tte.storedPlaces (t : Tte) (k : Nat) : List (Nat × Nat) :=
  if t.press then (List.range (blockCount t.imageLen)).map (fun b => (k + 4096 * b, t.codedLen b)) else [(k, t.backLen)]

/-- The decoded padded image of a pressed backing (R79). -/
def readPressed (s : State) (tab : PressTable) (k p : Nat) (t : Tte) : Nat → Nat → Res (List Byte)
  | 0, _ => .ok []
  | n + 1, b =>
    (readBlock s tab (k + 4096 * b) (t.plen b) (blockLen p b)).bind fun bs =>
      (readPressed s tab k p t n (b + 1)).map (bs ++ ·)

/-- The decoded image of a STORED tile's backing, or of its ROW half, with its scale granule (R72, R78). -/
def readImage (s : State) (c : TCtx) (k : Nat) (t : Tte) : Res (List Byte) :=
  if t.press then
    (tableOfBlocks s c t (List.range (blockCount t.imageLen))).bind fun tab =>
      readPressed s tab k t.imageLen t (blockCount t.imageLen) 0
  else (needGood s k t.halfLen).map fun _ => memRead s.mem k t.halfLen

/-- The values that an image holds, or one half, with its scale granule (R46, R47). -/
def Tte.imageVals (t : Tte) (bs : List Byte) : TileVals :=
  ⟨t.unimage (bs.take t.imageLen), (bs.drop t.imageLen).map (·.toNat)⟩

/-- The values of a STORED tile. -/
def storedVals (s : State) (c : TCtx) (idx : Nat) (t : Tte) : Res TileVals :=
  (backKey s c 0 idx t).bind fun k => (readImage s c k t).map t.imageVals

/-- The values of a STORED ROWCOL tile, from its COL half, which follows the ROW half and its scale granule (R46). -/
def colVals (s : State) (c : TCtx) (idx : Nat) (t : Tte) : Res TileVals :=
  (backKey s c 0 idx t).bind fun k =>
    (readImage s c (k + t.halfLen) (t.put 0 55 2 1)).map (t.put 0 55 2 1).imageVals

/-- The target of a REPEAT entry: its tile index and entry. -/
def repeatTarget (s : State) (c : TCtx) (idx : Nat) (t : Tte) : Res (Nat × Nat × Tte) :=
  match sameTable (isLtt idx) t.syma with
  | none => .error (tileAbsent 0 idx)
  | some x => (entryKey c 0 x).map fun k => (x, k, s.tte k)

/-- Values of R235: generated for symbols, decoded for pressed tiles, from the target for REPEAT (R58, R86). -/
def tileVals (s : State) (c : TCtx) (idx : Nat) (t : Tte) : Res TileVals :=
  if t.kind = 0 then storedVals s c idx t
  else if t.kind = 5 then (repeatTarget s c idx t).bind fun (x, _, r) => storedVals s c x r
  else .ok t.symbolVals

/-- The summary that a reader sees: a REPEAT takes its target's (R56). -/
def tileSummary (s : State) (c : TCtx) (idx : Nat) (t : Tte) : Res Nat :=
  if t.kind = 5 then (repeatTarget s c idx t).map fun (_, _, r) => r.summary else .ok t.summary

end Sys2Proof.Machine
end

