-- ==== Sys2Proof/Machine/Race.lean ====
section
/-!
DEFINITION. Machine/Race.lean: parties, epochs, acquire tables, release sets, barrier generations, access records and the
check of a tile access (spec/14_ordering_and_sync.md R298 to R313, R323 to R326, R330, R403).
-/
namespace Sys2Proof.Machine

/-! ## Acquire tables and release sets (R307, R323) -/

/-- The number of entries of an acquire table and of a release set. -/
def tableSize : Nat := 32

/-- Acquire (q, a): the newer epoch is kept, the entry becomes the most recent, and the least recent of 33 is evicted. -/
def AcqTable.acquire (t : AcqTable) (q : Party) (a : Nat) : AcqTable :=
  let old := (t.find? (·.1 == q)).map (·.2)
  ((q, max a (old.getD 0)) :: t.filter (·.1 != q)).take tableSize

/-- Merge a table into another, least recent entry first. -/
def AcqTable.merge (t u : AcqTable) : AcqTable := u.foldr (fun e acc => AcqTable.acquire acc e.1 e.2) t

/-- The epoch acquired from a party. -/
def AcqTable.epoch? (t : AcqTable) (q : Party) : Option Nat := (t.find? (·.1 == q)).map (·.2)

/-- The sub-identity of the engine-thread party (e, c): 1 + 16e + c (R298). -/
def threadSub (e : Engine) (c : Cc) : Nat := 1 + 16 * engineNo e + c.toNat

/-- The job's own party. -/
def Job.party (j : Job) : Party := ⟨j.uid, 0⟩
/-- The table of an engine-thread party of the job. -/
def Job.threadTable (j : Job) (sub : Nat) : AcqTable := assocGet [] j.threadAcq sub
/-- The postings of an engine-thread party of the job (R306). -/
def Job.posts (j : Job) (sub : Nat) : Nat := assocGet 0 j.threadPosts sub

/-- A release of the job: what it carries, and the epoch advanced (R305). -/
def Job.release (j : Job) : (Party × Nat) × Job := ((j.party, j.epoch), { j with epoch := j.epoch + 1, touched := false })

/-- The acceptance of a command of a thread party: a release when the job has made a tile access since its epoch last
advanced; the job's table and what the fork carries are merged into the party's table (R305, R307). -/
def Job.fork (j : Job) (sub : Nat) : Job :=
  let (carried, j) :=
    if j.touched then (some j.release.1, j.release.2)
    else (if j.epoch = 0 then none else some (j.party, j.epoch - 1), j)
  let t := (j.threadTable sub).merge j.acq
  let t := match carried with | some (q, a) => t.acquire q a | none => t
  { j with threadAcq := assocSet j.threadAcq sub t }

/-- One more posting of a thread party (R306). -/
def Job.posted (j : Job) (sub : Nat) : Job := { j with threadPosts := assocSet j.threadPosts sub (j.posts sub + 1) }

/-- The job acquires a thread party at its epoch and merges its table (R319, R320). -/
def Job.acquireThread (j : Job) (sub : Nat) : Job :=
  { j with acq := (j.acq.acquire ⟨j.uid, sub⟩ (j.posts sub)).merge (j.threadTable sub) }

/-- What a release of the job passes on: itself at its epoch, and every entry of its acquire table (R323, R370). -/
def Job.passes (j : Job) : AcqTable := j.acq.acquire j.release.1.1 j.release.1.2

/-- A resumed party gains what the acknowledging job passed on (R370). -/
def Job.gain (j : Job) (f : Parked) : Job :=
  match f.thread with
  | some (e, id) =>
    match (j.cmds e).find? (·.id == id) with
    | some c =>
      { j with threadAcq := assocSet j.threadAcq (threadSub e c.cc) ((j.threadTable (threadSub e c.cc)).merge f.carried) }
    | none => j
  | none => { j with acq := j.acq.merge f.carried }

/-- Resume a parked fault (R367 to R370). -/
def resumeFault (f : Parked) (s : State) : State :=
  let rest := s.parked.filter (·.seq != f.seq)
  let more := rest.any (fun g => g.uid == f.uid && g.thread.isNone)
  { s.onUid f.uid (fun j => (j.gain f).resumeFrom f more) with parked := rest }

/-- The release set of a word (R323). -/
def State.relset (s : State) (k : Nat) : AcqTable := ((s.relsets.find? (·.addr == k)).map (·.set)).getD []

/-- The home of the word at a key, by its number: Vat bank b of die d is 256d + b, the 64 LPDDR channels follow from 1,024
on, and the four CXL root ports from 1,088 on (R8, R323; log 48). -/
def setHome (k : Nat) : Nat :=
  let pa := k % 2 ^ 64
  match k / 2 ^ 64 with
  | 2 => 256 * (pa / 2 ^ 29 % 4) + vatBank ⟨pa / 2 ^ 29 % 4, Nat.mod_lt _ (by decide)⟩ pa
  | 3 => 1024 + pkgChannel (pa / 512)
  | _ => 1088 + farPort pa
/-- The release sets that the home of a word holds, at least 4,096 a Vat bank and 65,536 another (R323; log 48). -/
def setRoom (k : Nat) : Nat := (if k / 2 ^ 64 = 2 then 4096 else 65536) + Config.moreSets (setHome k)

/-- A word's release set is the most recent; when its home is full, the home's oldest goes (R323). -/
def State.putRelset (s : State) (k : Nat) (set : AcqTable) : State :=
  let rest := s.relsets.filter (·.addr != k)
  let mine := rest.filter (fun r => setHome r.addr == setHome k)
  let oldest := if mine.length < setRoom k then none else mine.getLast?
  { s with relsets := ⟨k, set⟩ :: rest.filter (fun r => some r != oldest) }

/-- A release by the job in focus on the word at a key; HOST words hold no set (R323). The order in which one release adds its
entries decides what a 33rd evicts, and the spec gives none: the job's table first, its least recent entry first, then (job, E),
and an entry that is updated counts as added anew, DESIGN CHOICE (log 78). -/
def State.releaseWord (s : State) (k : Nat) (holds : Bool) : State :=
  let (e, j) := s.job.release
  let set := ((s.relset k).merge s.job.acq).acquire e.1 e.2
  let s := s.setJob j
  if holds then s.putRelset k set else s

/-- An acquire by the job in focus from the word at a key (R324). -/
def State.acquireWord (s : State) (k : Nat) : State := s.onJob (fun j => { j with acq := j.acq.merge (s.relset k) })

/-! ## Instances and generations (R308) -/

/-- The number of the instance of a scope around a job, in its launch; at PKG the GRANT instance where there is no PKG
instance (R300, R308). -/
def Job.instNo (j : Job) : Scope → Option Nat
  | .cluster => j.clusterNo
  | .die => j.dieNo
  | .pkg => (j.pkgNo.map (2 * ·)) <|> (j.grantNo.map (2 * · + 1))
  | .grant => j.grantNo
  | .core | .sys => none

/-- The generation of a barrier instance. -/
def State.genOf (s : State) (launch : Nat) (sc : Scope) (no : Nat) : Nat :=
  ((s.bars.find? (fun b => b.launch == launch && b.scope == sc && b.no == no)).map (·.gen)).getD 0

/-- A job's generation at CLUSTER, DIE or PKG (R308); 0 where it has none. -/
def State.genAt (s : State) (j : Job) (sc : Scope) : Nat :=
  match sc, j.instNo sc with
  | _, none => 0
  | .pkg, some n => if n % 2 = 0 then s.genOf j.launch .pkg (n / 2) else s.genOf j.launch .grant (n / 2)
  | sc, some n => s.genOf j.launch sc n

/-- Whether two jobs are in one instance at a scope (R310). -/
def sameInst (i j : Job) (sc : Scope) : Bool := i.launch == j.launch && (i.instNo sc).isSome && i.instNo sc == j.instNo sc

/-- The scopes that a record holds generations for, with the bit of the generation (R52). -/
def recScopes : List (Scope × Nat) := [(.cluster, 6), (.die, 3), (.pkg, 0)]

/-! ## Records (R52, R309, R311) -/

/-- The field of an access record in an entry. -/
def Tte.record (t : Tte) : RecSlot → Nat
  | .w => t.get 7 32 32
  | .a => t.get 7 0 32
  | .b => t.get 6 0 32
/-- Replace an access record. -/
def Tte.setRecord (t : Tte) (r : RecSlot) (v : Nat) : Tte :=
  match r with
  | .w => t.put 7 32 32 v
  | .a => t.put 7 0 32 v
  | .b => t.put 6 0 32 v

/-- The empty record. -/
def emptyRecord : Nat := 2 ^ 32 - 1

/-- The job of a party; none for an agent outside the cores. -/
def State.partyJob (s : State) (p : Party) : Option Job := s.jobOf? p.uid

/-- Whether a party can still be raced with: an outside agent, or one whose job has not halted (R310, R403). -/
def State.alive (s : State) (p : Party) : Bool := p.uid == 0 || (s.jobOf? p.uid).isSome

/-- The generations of a party as record bits [8:0] (R309). -/
def State.genBits (s : State) (p : Party) : Nat :=
  match s.partyJob p with
  | none => 0
  | some j => recScopes.foldl (fun a (sc, b) => a + s.genAt j sc % 8 * 2 ^ b) 0

/-- The epoch that a party's access is recorded with now (R305, R306, R309). -/
def State.epochOf (s : State) (p : Party) : Nat :=
  match s.partyJob p with
  | some j => if p.sub = 0 then j.epoch else j.posts p.sub + 1
  | none => if p.sub = 0 then s.host.hostEpoch else if p.sub = 1 then s.host.cxlEpoch else s.host.peerEpoch

/-- The engine of a thread party. -/
def subEngine (sub : Nat) : Engine :=
  match (sub - 1) / 16 with
  | 0 => .ce | 1 => .mx | _ => .vq

/-- The commands of a thread party that have not posted. -/
def Job.pendingOf (j : Job) (sub : Nat) : List Cmd :=
  (j.cmds (subEngine sub)).filter (fun c => decide (c.cc.toNat = (sub - 1) % 16))

/-- The commands of its party that stand ahead of a command: what comes before its posting as far as its acceptance tells
(R326; log 13). -/
def State.aheadOf (s : State) (p : Party) (cmd : Nat) : Nat :=
  match s.partyJob p with
  | some j => if p.sub = 0 then 0 else ((j.pendingOf p.sub).takeWhile (·.id != cmd)).length
  | none => 0

/-- The core field of a party: 0xFF for an agent outside the cores. -/
def State.coreField (s : State) (p : Party) (outside : Nat) : Nat := ((s.partyJob p).map (·.core)).getD outside

/-- Record(P) of R310; `ahead` postings of the party come before the access's own (R326). -/
def State.recordOf (s : State) (p : Party) (ahead : Nat) : Nat :=
  s.coreField p 0xFF % 256 * 2 ^ 24 + p.sub % 64 * 2 ^ 18 + (s.epochOf p + ahead) % 512 * 2 ^ 9 + s.genBits p

/-- The record that the device itself placed in a slot, with a party that is alive (R403). A MANY record counts as empty
when every reader that it stands for has halted (log 15). -/
def State.placed (s : State) (k : Nat) (t : Tte) (r : RecSlot) : Option RecTag :=
  (s.recs.find? (fun g => g.entry == k && g.slot == r && g.bits.toNat == t.record r)).filter
    (fun g => g.readers.any s.alive)

/-- The record of a live party that software wrote, if its bits name one (R403). -/
def State.softNamed (s : State) (k : Nat) (bits : Nat) (r : RecSlot) : Option RecTag :=
  let core := bits / 2 ^ 24
  let sub := bits / 2 ^ 18 % 64
  let job := s.liveJobs.find? (·.core == core)
  let mk := fun (p : Party) many inst => some ⟨k, r, BitVec.ofNat 32 bits, p, many, inst, [p], none⟩
  if core = 0xFF then (if sub ≤ 2 then mk ⟨0, sub⟩ false none else none)
  else
    match job with
    | none => none
    | some j =>
      if sub = 0x3F then
        let sc := match bits / 2 ^ 15 % 8 with | 1 => some Scope.cluster | 2 => some .die | 3 => some .pkg | _ => none
        mk ⟨j.uid, 0⟩ true (sc.bind fun sc => (j.instNo sc).map fun n => (sc, j.launch, n))
      else if sub ≤ 48 then mk ⟨j.uid, sub⟩ false none
      else none

/-- What a slot holds for the check. A record that software wrote and that names a live party is that party's record or
empty as the free value decides (R403; log 8). -/
def State.view (s : State) (k : Nat) (t : Tte) (r : RecSlot) : Option RecTag × State :=
  if t.record r / 2 ^ 18 = 0x3FFF then (none, s)
  else if s.recs.any (fun g => g.entry == k && g.slot == r && g.bits.toNat == t.record r) then (s.placed k t r, s)
  else
    match s.softNamed k (t.record r) r with
    | none => (none, s)
    | some g => if Config.softRecordCounts s.draw.1 then (some g, s.draw.2) else (none, s.draw.2)

/-- The acquire table of a party. -/
def State.tableOf (s : State) (p : Party) : AcqTable :=
  match s.partyJob p with
  | some j => if p.sub = 0 then j.acq else j.threadTable p.sub
  | none => []

/-- The largest epoch at or below the current one that equals e modulo 512; none when there is no such number (R310). -/
def reconstruct (current e : Nat) : Option Nat :=
  let d := (current + 512 - e % 512) % 512
  if d ≤ current then some (current - d) else none

/-- Whether P has acquired the record of party q at a recorded epoch (R310). -/
def State.acquired (s : State) (p q : Party) (e : Nat) : Bool :=
  match (s.tableOf p).epoch? q, reconstruct (s.epochOf q) e with
  | some a, some full => decide (full ≤ a)
  | _, _ => false

/-- Whether a barrier of an instance that holds both jobs has completed since the record (R310). -/
def State.barriered (s : State) (p q : Party) (bits : Nat) : Bool :=
  match s.partyJob p, s.partyJob q with
  | some i, some j =>
    recScopes.any (fun (sc, b) => sameInst i j sc && s.genAt i sc % 8 != bits / 2 ^ b % 8)
  | _, _ => false

/-- ManyOrdered of R311. -/
def State.manyOrdered (s : State) (p : Party) (g : RecTag) : Bool :=
  match g.inst, s.partyJob p with
  | some (sc, launch, no), some i =>
    i.launch == launch && i.instNo sc == some no &&
      (recScopes.find? (·.1 == sc)).any (fun (_, b) => s.genAt i sc % 8 != g.bits.toNat / 2 ^ b % 8)
  | _, _ => false

/-- Ordered of R310. Records of other members of one open batch count as ordered (R325); the record of a TREDST that has not
posted is at the epoch of a posting that nobody can have acquired (R326, R332). -/
def State.ordered (s : State) (p : Party) (batch : Option Nat) : Option RecTag → Bool
  | none => true
  | some g =>
    (!g.many && g.party == p) || (g.batch.isSome && g.batch.map (·.1) == batch) ||
      (if g.many then s.manyOrdered p g
       else (g.batch.isNone && s.acquired p g.party (g.bits.toNat / 2 ^ 9 % 512)) || s.barriered p g.party g.bits.toNat)

/-- Check one slot. -/
def checkSlot (k : Nat) (t : Tte) (p : Party) (batch : Option Nat) (acc : BitVec 2) (r : RecSlot) (s : State) : Res State :=
  let (g, s') := s.view k t r
  if s.ordered p batch g then .ok s' else .error (mmRace acc)

/-- The check of a tile access by party P on the entry at a key (R310), with the exceptions of VERSIONED tiles (R341) and
of reads against writes on AON tiles (R330). -/
def checkAccess (k : Nat) (t : Tte) (p : Party) (write : Bool) (batch : Option Nat) (s : State) : Res State :=
  if t.versioned then .ok s
  else if write then
    (checkSlot k t p batch 1 .w s).bind fun s =>
      if t.aon then .ok s
      else (checkSlot k t p batch 1 .a s).bind (checkSlot k t p batch 1 .b)
  else if t.aon then .ok s
  else checkSlot k t p batch 0 .w s

/-- Place a record, or clear it, in a slot of the entry at a key. -/
def State.putRecord (s : State) (k : Nat) (r : RecSlot) (g : Option RecTag) : State :=
  let bits := (g.map (·.bits.toNat)).getD emptyRecord
  let rest := s.recs.filter (fun x => !(x.entry == k && x.slot == r))
  { s.setTte k ((s.tte k).setRecord r bits) with recs := g.toList ++ rest }

/-- The plain record of a party; a TREDST's carries the epoch of its own posting (R326). -/
def State.plainTag (s : State) (k : Nat) (r : RecSlot) (p : Party) (batch : Option (Nat × Nat)) : RecTag :=
  ⟨k, r, BitVec.ofNat 32 (s.recordOf p ((batch.map (fun b => s.aheadOf p b.2)).getD 0)), p, false, none, [p], batch⟩

/-- The record of a TREDST that has posted carries the epoch of that posting, and is a plain record (R326). -/
def State.settleRecord (s : State) (g : RecTag) : State :=
  let old := g.bits.toNat
  let plain := { g with bits := BitVec.ofNat 32 (old / 2 ^ 18 * 2 ^ 18 + (s.epochOf g.party - 1) % 512 * 2 ^ 9 + old % 2 ^ 9), batch := none }
  if (s.tte g.entry).record g.slot = old then s.putRecord g.entry g.slot (some plain)
  else { s with recs := s.recs.filter (· != g) }

/-- The smallest scope whose instance holds a new reader, the record's core and the instance already recorded (R311); none where the
record's newest reader has halted, DESIGN CHOICE (log 80). -/
def State.mergeInst (s : State) (g : RecTag) (p : Party) : Option (Scope × Nat × Nat) :=
  match s.partyJob p, s.partyJob g.party with
  | some i, some j =>
    let from_ := match g.many, g.inst with
      | false, _ => [Scope.cluster, .die, .pkg]
      | true, some (.cluster, _) => [.cluster, .die, .pkg]
      | true, some (.die, _) => [.die, .pkg]
      | true, some (_, _) => [.pkg]
      | true, none => []
    (from_.find? (sameInst i j)).bind fun sc => (i.instNo sc).map fun n => (sc, i.launch, n)
  | _, _ => none

/-- Merge of R311. -/
def State.mergeTag (s : State) (k : Nat) (g : RecTag) (p : Party) : RecTag :=
  let inst := s.mergeInst g p
  let code := match inst with
    | some (sc, _) => sc.code
    | none => 0
  let bits := s.coreField p 0xFE % 256 * 2 ^ 24 + 0x3F * 2 ^ 18 + code * 2 ^ 15 + s.genBits p
  ⟨k, .b, BitVec.ofNat 32 bits, p, true, inst, (p :: g.readers).eraseDups, none⟩

/-- Record a tile access (R310); VERSIONED tiles keep no record (R341). An access of a job notes that it has made one. -/
def recordAccess (k : Nat) (p : Party) (write : Bool) (batch : Option (Nat × Nat)) (s : State) : State :=
  let t := s.tte k
  let s := if p.sub = 0 then s.onUid p.uid (fun j => { j with touched := true }) else s
  if t.versioned then s
  else if write then
    ((s.putRecord k .w (some (s.plainTag k .w p batch))).putRecord k .a none).putRecord k .b none
  else
    let a := s.placed k t .a
    let b := s.placed k t .b
    let mine := fun (g : Option RecTag) => g.any (fun g => !g.many && g.party == p)
    if mine a then s.putRecord k .a (some (s.plainTag k .a p none))
    else if mine b then s.putRecord k .b (some (s.plainTag k .b p none))
    else if a.isNone then s.putRecord k .a (some (s.plainTag k .a p none))
    else
      match b with
      | none => s.putRecord k .b (some (s.plainTag k .b p none))
      | some g => s.putRecord k .b (some (s.mergeTag k g p))

/-- Check and record an access in one step. -/
def access (k : Nat) (t : Tte) (p : Party) (write : Bool) (s : State) : Res State :=
  (checkAccess k t p write none s).map (recordAccess k p write none)

end Sys2Proof.Machine
end

