-- ==== Sys2Proof/Machine/Pools.lean ====
section
/-!
DEFINITION. Machine/Pools.lean: who makes a tile access, the checks of an access that need the entry (spec/03_tiles.md R70),
pool blocks (R61 to R63), and the versions of a tile (spec/17_time_and_versions.md R341 to R346).
-/
namespace Sys2Proof.Machine

/-- Who makes a tile access: the party, the tables it sees, the policy version it reads by (R354), and its die with that
die's known floors at issue (R343). -/
structure Who where
  party : Party
  ctx : TCtx
  cur : BitVec 16
  die : Fin 4
  floors : Word × Word × List (Nat × Word)
  /-- The command that makes it; 0 where it is none. -/
  cmd : Nat
  /-- The floor that one access with several homes takes for the domain of a die; 0 where it has one home (R351; log 20). -/
  reach : Word
  deriving DecidableEq, Repr

/-- A die's known floor for a grant; 0 where it has none (R338). -/
def Die.grantFloor (d : Die) (launch : Nat) : Word := ((d.floorGrant.find? (·.1 == launch)).map (·.2)).getD 0

/-- The known floors of a die, for itself, its package and the grants (R338). -/
def Die.floors (d : Die) : Word × Word × List (Nat × Word) := (d.earliest, d.floorPkg, d.floorGrant)

/-- The job in focus as a party. -/
def State.who (s : State) : Who :=
  ⟨s.job.party, s.job.tctx, s.job.pvrCur, s.myDie, s.dies[s.myDie].floors, 0, 0⟩

/-- The thread of a command of the job in focus. -/
def State.whoOf (s : State) (e : Engine) (c : Cmd) : Who :=
  ⟨⟨s.job.uid, threadSub e c.cc⟩, s.job.tctx, c.cur, s.myDie, c.floors, c.id, 0⟩

/-! ## Free values -/

/-- n bytes that the manual leaves open (log 12). -/
def State.freeBytes (s : State) (n : Nat) : List Byte × State :=
  ((List.range n).map (fun i => (Config.freeWord (s.fresh + i)).extractLsb' 0 8), { s with fresh := s.fresh + n })

/-! ## Checks 5 to 8 of R70 -/

/-- The class of a capability allows the tier of an entry (R67). -/
def tierAllowed (c : Cap) (t : Tte) : Bool :=
  match c.tclass with
  | 2 => t.tier == 2 || t.tier == 3
  | _ => true

/-- The tile index of tile (a, b) of a capability (R49, R68). -/
def Cap.tile (c : Cap) (a b : Nat) : Nat := c.base + a * c.stride + b + (if c.tclass = 0 then 2 ^ 32 else 0)

/-- The largest REFCNT (R57). -/
def maxRef : Nat := 65535

/-- Checks 5 to 7 of R70: the key and the entry of a tile. -/
def openTile (s : State) (c : TCtx) (cap : Cap) (acc : BitVec 2) (idx : Nat) : Res (Nat × Tte) :=
  (readEntry s c acc idx).bind fun (k, t) =>
    if !tierAllowed cap t || t.owner != cap.owner then .error (capPermAt acc) else .ok (k, t)

/-- Check 8 of R70 for a write that is no commit (R57, R333, R341). -/
def mayWrite (t : Tte) : Bool := !(t.kind == 0 && t.refcnt != 1) && !t.versioned

/-- Checks 5 to 8 for a write. -/
def openWrite (s : State) (c : TCtx) (cap : Cap) (idx : Nat) : Res (Nat × Tte) :=
  (openTile s c cap 1 idx).bind fun (k, t) => if mayWrite t then .ok (k, t) else .error (capPermAt 1)

/-! ## Pool blocks (R62, R63) -/

/-- The tier of a code of R51 that pools and pages use. -/
def memTier (code : Nat) : Option Tier :=
  match code with
  | 2 => some .vat | 3 => some .pkg | 4 => some .far | _ => none

/-- The pool descriptor of a tile: its key, if the descriptor is well-formed for the tile (R63). A table base below 16 KiB leaves
no owner header and so no descriptor, which counts as a malformed one (log 45). -/
def poolOf (s : State) (c : TCtx) (t : Tte) : Option (Nat × Tier) :=
  match headerKey c (32 * t.pool), memTier t.tier with
  | some k, some tier => if bits (s.load64 k) 61 3 = t.tier then some (k, tier) else none
  | _, _ => none

/-- A take or return of a tile's pool block reads its descriptor, and an uncorrectable error there drops the transfer (R63,
R394; log 42). -/
def needPool (s : State) (c : TCtx) (t : Tte) : Res Unit :=
  match headerKey c (32 * t.pool) with
  | some k => needGood s k 24
  | none => .ok ()

/-- The key of byte 0 of a block. -/
def blockKey (tier : Tier) (loc : Nat) : Nat := cellKey tier (loc * 512)

/-- Take the block at the head of a tile's pool (R63). -/
def takeBlock (c : TCtx) (idx : Nat) (t : Tte) (s : State) : Res (Nat × State) :=
  (needPool s c t).bind fun _ => match poolOf s c t with
  | none => .error (tileAbsent 1 idx)
  | some (k, tier) =>
    let head := bits (s.load64 k) 0 40
    if head = noLoc then .error (poolEmpty idx t.pool k)
    else
      (exists? tier (head * 512) 8).bind fun _ => (needGood s (blockKey tier head) 8).map fun _ =>
        let next := s.load (blockKey tier head) 8
        (head, (s.store k 5 next).setFree k ((s.load (k + 12) 4 + 2 ^ 32 - 1) % 2 ^ 32))

/-- Return a block to the head of a tile's pool (R63). -/
def returnBlock (c : TCtx) (idx : Nat) (t : Tte) (loc : Nat) (s : State) : Res State :=
  (needPool s c t).bind fun _ => match poolOf s c t with
  | none => .error (tileAbsent 1 idx)
  | some (k, tier) =>
    (exists? tier (loc * 512) 8).bind fun _ => (needGood s (blockKey tier loc) 8).map fun _ =>
      s.giveBlock (k, blockKey tier loc, loc)

/-- What stands for a block that a tile's pool gave, so that it can go back (R220); none where the pool is malformed. -/
def taken (s : State) (c : TCtx) (t : Tte) (loc : Nat) : List (Nat × Nat × Nat) :=
  match poolOf s c t with
  | none => []
  | some (k, tier) => [(k, blockKey tier loc, loc)]

/-! ## Versions (R342 to R346) -/

/-- The place of an entry's table, for the home of a tile without backing (log 16). -/
def keyDie (k : Nat) : Fin 4 :=
  if k / 2 ^ 64 = 2 then ⟨k % 2 ^ 64 / 2 ^ 29 % 4, Nat.mod_lt _ (by decide)⟩ else pkgDie (k % 2 ^ 64 / 512)

/-- The die that is home to a tile (R343): that of its backing, or of its entry where it has none. -/
def homeDie (k : Nat) (t : Tte) : Fin 4 :=
  if t.loc = noLoc then keyDie k
  else if t.tier = 2 then ⟨t.loc / 2 ^ 20 % 4, Nat.mod_lt _ (by decide)⟩
  else if t.tier = 4 then ⟨farPort (512 * t.loc) % 4, Nat.mod_lt _ (by decide)⟩
  else pkgDie t.loc

/-- A die's known floor for a domain; another die's own domain is passed when the package has passed (R338; log 20). -/
def State.knownFloor (s : State) (d : Fin 4) : Domain → Word
  | .die x => if d.val = x.toNat then s.dies[d].earliest else s.dies[d].floorPkg
  | .pkg => s.dies[d].floorPkg
  | .grant g => s.dies[d].grantFloor g

/-- The higher of two times. -/
def later (a b : Word) : Word := if a ≤ b then b else a

/-- The floor that an access of `w` carries for a domain, as its die knew it at issue; 0 where that die is outside it (R343). -/
def Who.floor (w : Who) : Domain → Word
  | .die d => later (if w.die.val = d.toNat then w.floors.1 else 0) w.reach
  | .pkg => w.floors.2.1
  | .grant g => ((w.floors.2.2.find? (·.1 == g)).map (·.2)).getD 0

/-- The floor of a domain at a home: what the home knows, and for the domain of a die what that die itself knows, wherever the
tile has moved since the commit (R338, R343). -/
def State.homeFloor (s : State) (home : Fin 4) : Domain → Word
  | .die x => later s.dies[x.toFin].earliest (s.knownFloor home (.die x))
  | d => s.knownFloor home d

/-- The floor with which an access of `w` reaches a home, for a domain (R343). -/
def State.floorAt (s : State) (w : Who) (home : Fin 4) (d : Domain) : Word := later (w.floor d) (s.homeFloor home d)

/-- An access of `w` finds a version visible at a home (R343). -/
def State.finds (s : State) (w : Who) (home : Fin 4) (v : TileVer) : Bool := v.stamp < s.floorAt w home v.domain

/-- The homes of a tile at a key: of its entry as it stands, of each version that is not current, and of the domain of each
(R343). -/
def State.tileHomes (s : State) (k : Nat) : List (Fin 4) :=
  homeDie k (s.tte k) :: (s.tileVers.filter (·.entry == k)).flatMap (fun v =>
    homeDie k v.tte :: (match v.domain with | .die x => [x.toFin] | _ => []))

/-- The floors with which one access reaches several homes: those known at issue and those of every home, so that it sees all
tiles of a publish or none (R343, R351; log 20). -/
def Who.reaching (w : Who) (s : State) (homes : List (Fin 4)) : Who :=
  let d := homes.foldl (fun (d : Die) h => d.raiseFloors s.dies[h].floorPkg s.dies[h].floorGrant)
    { s.dies[w.die] with floorPkg := w.floors.2.1, floorGrant := w.floors.2.2 }
  let own := if homes.contains w.die then w.floors.1 else 0
  { w with
    floors := (w.floors.1, d.floorPkg, d.floorGrant)
    reach := homes.foldl (fun f h => later f s.dies[h].earliest) own }

/-- The key of the Cave record in a block (R342). -/
def caveKey (t : Tte) (loc : Nat) : Nat := cellKey ((memTier t.tier).getD .pkg) (loc * 512 + t.backLen)

/-- The retained versions that a link leads to: their blocks and records, newest first (R342). -/
def caveChain (s : State) (t : Tte) : Nat → Nat → List (Nat × Tte)
  | 0, _ => []
  | n + 1, link =>
    if link = 0 then []
    else
      let r := s.tte (caveKey t (link - 1))
      (link - 1, r) :: caveChain s t n r.cave

/-- The retained versions of a tile, newest first; there are at most three, and a fourth while one is replaced (R344). -/
def retained (s : State) (t : Tte) : List (Nat × Tte) := caveChain s t 4 t.cave

/-- The reads of Cave records meet no uncorrectable error, which would drop the transfer (R394; log 42). -/
def needCave (s : State) (t : Tte) (rs : List (Nat × Tte)) : Res Unit := needAllGood s (rs.map (fun r => (caveKey t r.1, 64)))

/-- The newest of a tile's versions, current or retained, that fits: the records of the Cave are read down to it (R342, R394). -/
def versionWhere (s : State) (t : Tte) (p : Tte → Bool) : Res (Option Tte) :=
  if p t then .ok (some t)
  else
    let past := (retained s t).takeWhile (fun r => !p r.2)
    let upTo := (retained s t).take (past.length + 1)
    (needCave s t upTo).map fun _ => (upTo.find? (fun r => p r.2)).map (·.2)

/-- Write the Cave record of the version that goes out (R342, R346), unless an uncorrectable error drops it (R394). -/
def writeCave (t : Tte) (loc : Nat) (s : State) : Res State :=
  (needGood s (caveKey t loc) 64).map fun _ => s.setTte (caveKey t loc) (((t.put 6 0 48 0).put 7 0 64 0))

/-- Note that versions of an entry were reclaimed: nothing is left below a stamp (R344, R349). -/
def State.noteReclaimed (s : State) (k : Nat) (stamp : Word) : State :=
  { s with reclaimed := (k, stamp) :: s.reclaimed.filter (·.1 != k) }

/-- Cut the chain after n versions: the blocks that are dropped return to the pool, oldest first. The records of the chain are read,
and the last one that stays is written (R394). -/
def cutCave (c : TCtx) (idx k : Nat) (n : Nat) (s : State) : Res State :=
  let t := s.tte k
  let chain := retained s t
  let cut := fun (s : State) =>
    if n = 0 then s.setTte k ((s.tte k).put 4 0 32 0)
    else
      match chain[n - 1]? with
      | some (loc, r) => s.setTte (caveKey t loc) (r.put 4 0 32 0)
      | none => s
  (needCave s t chain).bind fun _ =>
    if chain.length ≤ n then .ok s
    else
      ((chain.drop n).reverse.foldlM (fun s (e : Nat × Tte) => returnBlock c idx t e.1 s) (cut s)).map fun s =>
        s.noteReclaimed k (((chain.take n).getLast?.map (·.2.stamp)).getD t.stamp)

/-- The number of retained versions that the watermark keeps: a version whose successor's stamp is at most VWATER may
go (R344). -/
def keptByWater (s : State) (t : Tte) : Nat :=
  let succ := t.stamp :: (retained s t).map (·.2.stamp)
  (succ.takeWhile (fun x => s.vwater.toNat < x.toNat)).length

/-- The reclamation of R344 after a change of the tile: by count, and by watermark where the device does so (log 17). -/
def reclaim (c : TCtx) (idx k : Nat) (s : State) : Res State :=
  let n := if Config.watermarkReclaims s.draw.1 then min 3 (keptByWater s (s.tte k)) else 3
  cutCave c idx k n s.draw.2

/-- The fields of an entry that a new version brings (R346); REFCNT stays while both versions are stored. -/
def versionEntry (t : Tte) (v : TileVer) (link : Nat) : Tte :=
  let n := if t.kind = 0 ∧ v.tte.kind = 0 then v.tte.put 2 0 16 t.refcnt else v.tte
  let t := ((t.put 0 61 3 n.kind).put 2 0 64 (n.get 2 0 64)).put 4 32 32 n.symc
  let t := ((t.put 1 24 40 n.loc).put 3 32 32 n.tscale).setSummary n.summary
  ((t.put 6 48 16 v.pver.toNat).put 5 0 64 v.stamp.toNat).put 4 0 32 link

/-- The bracket of a write on an AON tile: AONVER rises by 1 before and 1 after (R329). -/
def bumpAon (t : Tte) : Tte := if t.aon then t.put 0 11 16 (t.get 0 11 16 + 2) else t

/-- A pending version becomes current (R346). -/
def makeCurrent (c : TCtx) (v : TileVer) (s : State) : Res State :=
  let k := v.entry
  let t := s.tte k
  let c := { c with ttb := v.ttb }
  let s := { s with tileVers := s.tileVers.filter (· != v) }
  let out : Res (Option Nat × State) :=
    if t.kind = 0 then
      match v.recBlock with
      | some b => (returnBlock c v.index t b.toNat s).map fun s => (some t.loc, s)
      | none => .ok (some t.loc, s)
    else
      match v.recBlock with
      | some b => .ok (some b.toNat, s)
      | none =>
        match takeBlock c v.index t s with
        | .ok (b, s) => .ok (some b, s)
        | .error (.trap x) => if x.code = 0x0A then .ok (none, if (retained s t).isEmpty then s.noteReclaimed k v.stamp else s) else .error (.trap x)
        | .error e => .error e
  out.bind fun (block, s) =>
    match block with
    | some b => (writeCave t b s).bind fun (s : State) => reclaim c v.index k (s.setTte k (bumpAon (versionEntry t v (b + 1))))
    | none => reclaim c v.index k (s.setTte k (bumpAon (versionEntry t v t.cave)))

/-- The pending version of an entry that becomes current next: the one with the lowest stamp (R346). -/
def nextPending (s : State) (k : Nat) : Option TileVer :=
  (s.tileVers.filter (fun v => v.entry == k && v.state == .pending)).foldl (fun a v =>
    match a with
    | none => some v
    | some x => if v.stamp.toNat < x.stamp.toNat then some v else some x) none

/-- What holds the writes of an AON tile for a read by an outside party (R329). -/
def agentHold (sub : Nat) : Nat := 2 ^ 79 + sub

/-- Whether what a hold stands for is still reading: a tile-mode VLD is not while its job is parked (R329, R363). -/
def State.stillReads (s : State) (hold : Nat) : Bool :=
  !s.onCores.any (fun j => streamHold j.uid == hold && j.phase != .running)

/-- A write waits while a read of another holds the writes of an AON tile (R329). -/
def freeOfHold (w : Who) (k : Nat) (s : State) : Res State :=
  if s.aonHolds.any (fun h => h.1 == k && h.2 != w.cmd && s.stillReads h.2) then .error (.stall .engineQueue) else .ok s

/-- The stamp of the newest pending version of an entry that an access finds visible (R343). -/
def State.newestSeen (s : State) (w : Who) (home : Fin 4) (k : Nat) : Option Word :=
  (s.tileVers.filter (fun v => v.entry == k && v.state == .pending && s.finds w home v)).foldl (fun a v =>
    some (later (a.getD 0) v.stamp)) none

/-- Pending versions of an entry become current up to a stamp, in stamp order (R346). One that is not visible itself passes into
the Cave as one of those that the newest visible version comes after, and is noted (log 20). -/
def makeUpTo (w : Who) (home : Fin 4) (k : Nat) (stamp : Word) : Nat → State → Res State
  | 0, s => .ok s
  | n + 1, s =>
    match nextPending s k with
    | none => .ok s
    | some v =>
      if stamp < v.stamp then .ok s
      else
        let s := if s.finds w home v then s else { s with tileVers := s.tileVers ++ [{ v with state := .passed }] }
        (makeCurrent w.ctx v s).bind (makeUpTo w home k stamp n)

/-- The home makes current the newest version that an access finds visible, after every older one (R343, R346): a write of the
tile (R329). The home is the one that the access has reached, also where a version brings a block of another die. A version
that had passed into the Cave early, and is visible now, needs no note any more. -/
def makeVisible (w : Who) (home : Fin 4) (k : Nat) (s : State) : Res State :=
  let s := { s with tileVers := s.tileVers.filter (fun v => !(v.entry == k && v.state == .passed && s.finds w home v)) }
  match s.newestSeen w home k with
  | none => .ok s
  | some stamp => (freeOfHold w k s).bind (makeUpTo w home k stamp s.tileVers.length)

/-- A retained version that is not visible yet: it passed into the Cave early (R343, R354; log 20). -/
def State.hides (s : State) (k : Nat) (x : Tte) : Bool :=
  s.tileVers.any (fun v => v.entry == k && v.state == .passed && v.stamp == x.stamp)

/-- The request of a read reaches a home, which raises its floors to those that it carries (R338). -/
def Who.arrives (w : Who) (home : Fin 4) (s : State) : State :=
  s.onDie home (fun d => if d.out then d else d.raiseFloors w.floors.2.1 w.floors.2.2)

/-- The response of a read brings the home's floors back (R338). -/
def Who.hears (w : Who) (home : Fin 4) (s : State) : State := s.gossip home w.die

/-- The version that a read of a tile returns (R343, R354); a prepared version makes the read wait. Its request and its
response carry floors (R338). -/
def versionFor (w : Who) (k : Nat) (t : Tte) (s : State) : Res (Tte × State) :=
  if !t.versioned then .ok (t, s)
  else if s.tileVers.any (fun v => v.entry == k && v.state == .prepared) then .error (.stall .engineQueue)
  else
    let home := homeDie k (s.tte k)
    (makeVisible w home k (w.arrives home s)).bind fun s =>
      let s := w.hears home s
      let t := s.tte k
      if w.cur = 0 then .ok (t, s)
      else
        (versionWhere s t (fun x => decide (x.pver ≤ w.cur.toNat) && !s.hides k x)).bind fun
          | some x => .ok (x, s)
          | none => .error versionGone

end Sys2Proof.Machine
end

