-- ==== Sys2Proof/Machine/TileOps.lean ====
section
/-!
DEFINITION. Machine/TileOps.lean: reading a tile, and the changes of a tile: made a symbol or a REPEAT, promoted, written
whole or in part (spec/03_tiles.md R54 to R66, spec/04_press.md R72, R73, R80 to R86, spec/14_ordering_and_sync.md R329).
-/
namespace Sys2Proof.Machine

/-! ## Reading -/

/-- The direction of a port in the torus, by its group of eight: +X, −X, +Y, −Y, +Z, −Z (R18). That ports 8g to 8g + 7 form
group g, in this order, is the model's choice (log 60). -/
def portGroup (n : Nat) : Nat := n / 8

/-- The coordinate on an axis: 0 x, 1 y, 2 z. -/
def onAxis (axis : Nat) (p : Nat × Nat × Nat) : Nat :=
  match axis with
  | 0 => p.1 | 1 => p.2.1 | _ => p.2.2

/-- The last offset of a launch's box on an axis: XM1, YM1 or ZM1 (R89). -/
def Launch.boxLast (l : Launch) (axis : Nat) : Nat := bits (l.words.getD 2 0) (48 - 4 * axis) 4

/-- The offset of a package from the origin of a launch's box on an axis of the torus (R89, R101). -/
def Launch.offset (l : Launch) (torus place : Nat × Nat × Nat) (axis : Nat) : Nat :=
  let n := onAxis axis torus
  (onAxis axis place + n - bits (l.words.getD 2 0) (60 - 4 * axis) 4 % n) % n

/-- Whether a package is one of a launch's grant (R101). -/
def Launch.inBox (l : Launch) (torus place : Nat × Nat × Nat) : Bool :=
  [0, 1, 2].all (fun axis => decide (l.offset torus place axis ≤ l.boxLast axis))

/-- The direction group in which a route of a grant goes on an axis, if it does (R101): inside the box; where the box spans the
whole ring, the shorter way, and + on equal lengths. -/
def Launch.direction (l : Launch) (torus src dst : Nat × Nat × Nat) (axis : Nat) : Option Nat :=
  let n := onAxis axis torus
  let x := l.offset torus src axis
  let y := l.offset torus dst axis
  let plus := if n ≤ l.boxLast axis + 1 then decide (2 * ((y + n - x) % n) ≤ n) else decide (x < y)
  if x = y then none else some (2 * axis + if plus then 0 else 1)

/-- The direction group in which a route of a grant leaves its first package: x, then y, then z; none where it goes nowhere
(R101). -/
def Launch.firstGroup (l : Launch) (torus src dst : Nat × Nat × Nat) : Option Nat :=
  [0, 1, 2].findSome? (l.direction torus src dst)

/-- Whether a link of a direction group is up. -/
def State.groupUp (s : State) (g : Nat) : Bool :=
  (List.range 48).any (fun n => portGroup n == g && s.fabric.ports[n]?.any (·.up))

/-- Whether a grant has a route from this package to another (R101, R102): none leads to this package itself. -/
def Launch.routesTo (l : Launch) (s : State) (dst : Nat × Nat × Nat) : Bool :=
  dst != s.coords && l.inBox s.torus s.coords && l.inBox s.torus dst

/-- Whether a grant's route to a package starts on a link that is up (R101, R393): on a port of the group in which the route
leaves this package, if it does. -/
def State.routeUp (s : State) (dst : Nat × Nat × Nat) (l : Launch) : Bool :=
  match l.firstGroup s.torus s.coords dst with
  | none => true
  | some g => s.groupUp g

/-- A PEER backing is reached through an import, on the routes of a grant that holds the owner's table (R391): without them
the transfer ends REVOKED (log 47); with no link up on the route of any such grant it ends CORRUPT (R393). -/
def peerOk (s : State) (t : Tte) : Res Unit :=
  if t.tier ≠ 5 then .ok ()
  else
    match s.fabric.imports.find? (fun i => i.1.toNat == t.loc / 2 ^ 24) with
    | none => .error (.post 6)
    | some i =>
      let dst := Config.coordsOf i.2
      let grants := s.launches.filter (fun l => l.multi && l.state.routed && l.owner == t.owner && l.routesTo s dst)
      (ensure (s.fabric.routes.any (fun r => r.1 == t.owner && r.2 != 0) && !grants.isEmpty) (.post 6)).bind fun _ =>
        ensure (grants.any (s.routeUp dst)) (.post 3)

/-- The accesses of a party to a home carry floors both ways (R338). -/
def Who.meets (w : Who) (home : Fin 4) (s : State) : State := s.exchange w.die home

/-- An access reaches the home of the entry at a key, in its table, unless the core reads its own copy (R50, R338). -/
def Who.meetsEntry (w : Who) (k : Nat) (s : State) : State :=
  match homeOfKey k with
  | some d => if (s.entryCopy k).isSome then s else w.meets d s
  | none => s

/-- The home of the bytes that a read of an entry finds, in a Vat, package memory or far memory: of its own backing, or of a
REPEAT's target's (R56). A symbol has no bytes. -/
def bytesHome (s : State) (w : Who) (k : Nat) (t : Tte) : Option (Fin 4) :=
  let own := fun (r : Tte) => if r.kind = 0 then (memTier r.tier).bind (fun tier => homeOfKey (blockKey tier r.loc)) else none
  if t.kind = 5 then
    match repeatTarget s w.ctx (if k / 2 ^ 64 = 1 then 2 ^ 32 else 0) t with
    | .ok (_, _, r) => own r
    | .error _ => none
  else own t

/-- The accesses of a read go to the homes of the tile's entry and of its bytes (R338). -/
def Who.meetsTile (w : Who) (k : Nat) (t : Tte) (s : State) : State :=
  let s := w.meetsEntry k s
  match bytesHome s w k t with
  | some d => w.meets d s
  | none => s

/-- A read of a tile is checked and recorded (R310), and waits while AONVER is odd (R329). -/
def noteRead (w : Who) (k : Nat) (t : Tte) (s : State) : Res State :=
  if t.aon && t.get 0 11 16 % 2 == 1 then .error (.stall .engineQueue)
  else (checkAccess k (s.tte k) w.party false none s).map fun s => recordAccess k w.party false none s

/-- The version that a read of a tile returns, with the read checked and recorded (R310, R329, R343). -/
def chooseVersion (w : Who) (k : Nat) (t : Tte) (s : State) : Res (Tte × State) :=
  if t.aon && t.get 0 11 16 % 2 == 1 then .error (.stall .engineQueue)
  else (versionFor w k t s).bind fun (t', s) => (noteRead w k t s).map fun s => (t', s)

/-- A read of a tile by `w`: the version that it returns; it is checked and recorded (R310), and waits while AONVER is
odd (R329). Where it goes to another die, floors go both ways (R338). -/
def readTile (w : Who) (k : Nat) (t : Tte) (s : State) : Res (Tte × State) :=
  (chooseVersion w k t s).map fun (t', s) => (t', w.meetsTile k t' s)

/-- A read of a tile whose version an earlier part of the same command has chosen (R237). -/
def readChosen (w : Who) (k : Nat) (t : Tte) (s : State) : Res State := (noteRead w k t s).map (w.meetsTile k t)

/-- A write of a tile by `w` is checked and recorded (R310); it waits while the home holds it (R329). A GLOBAL tile's home is
met, and floors go both ways (R338). -/
def writeTile (w : Who) (k : Nat) (s : State) : Res State :=
  (freeOfHold w k s).bind fun s =>
    (checkAccess k (s.tte k) w.party true none s).map fun s =>
      let s := w.meetsEntry k (recordAccess k w.party true none s)
      if (memTier (s.tte k).tier).isSome then w.meets (homeDie k (s.tte k)) s else s

/-- The entry whose backing holds a tile's bytes: its own, or a REPEAT's target (R56). -/
def backingEntry (s : State) (c : TCtx) (idx : Nat) (t : Tte) : Res (Nat × Tte) :=
  if t.kind = 5 then (repeatTarget s c idx t).map fun (x, _, r) => (x, r) else .ok (idx, t)

/-- The element values of a tile (R235). -/
def valuesOf (s : State) (c : TCtx) (idx : Nat) (t : Tte) : Res TileVals :=
  if isSymbol t.kind then .ok t.symbolVals
  else (backingEntry s c idx t).bind fun (x, r) => (peerOk s r).bind fun _ => storedVals s c x r

/-! ## Rennet (R60) -/

/-- A symbol: its kind and operands A, B and C (R55). -/
structure Symbol where
  kind : Nat
  a : Nat
  b : Nat
  c : Nat
  deriving DecidableEq, Repr

/-- A w-bit value sign-extended to 32 bits. -/
def signExt32 (w x : Nat) : Nat := intMod 32 (toSInt w x)

/-- The integer formats in which Rennet finds a RAMP. -/
def rampFmt : Fmt → Bool
  | .i8 | .i16 | .i32 | .n8 | .n16 | .n32 => true
  | _ => false

/-- The RAMP that the values of a tile are, if any. -/
def rennetRamp (t : Tte) (vals : List Nat) : Option Symbol :=
  let w := fmtWidth t.fmt
  let at_ := elemAt vals t.cols
  let v0 := at_ 0 0
  let dr := if t.rows = 1 then 0 else intMod w ((at_ 1 0 : Int) - v0)
  let dc := if t.cols = 1 then 0 else intMod w ((at_ 0 1 : Int) - v0)
  let fits := (List.range t.rows).all (fun i => (List.range t.cols).all (fun j =>
    at_ i j == (v0 + i * dr + j * dc) % 2 ^ w))
  if rampFmt t.fmt && fits then some ⟨3, signExt32 w v0, signExt32 w dr, signExt32 w dc⟩ else none

/-- The symbol that the values of a tile are in disguise (R60). -/
def rennet (t : Tte) (v : TileVals) : Option Symbol :=
  let v0 := v.vals.getD 0 0
  if v.vals.all (· == 0) && !(t.fmt == .e2m1 && (t.usedScales v.scales).any (· == 0xFF)) then some ⟨1, 0, 0, 0⟩
  else if t.fmt = .e2m1 then none
  else if v.vals.all (· == v0) then some ⟨2, v0, 0, 0⟩
  else rennetRamp t v.vals

/-! ## Entries -/

/-- Change the REFCNT of the entry at a key (R66). -/
def State.addRef (s : State) (k : Nat) (n : Nat) : State :=
  s.setTte k ((s.tte k).put 2 0 16 ((s.tte k).refcnt + n))

/-- The target of a REPEAT loses one reference. -/
def unref (c : TCtx) (idx : Nat) (t : Tte) (s : State) : Res State :=
  if t.kind = 5 then (repeatTarget s c idx t).map fun (_, kx, _) => s.addRef kx maxRef else .ok s

/-- What the old content of a tile gives up when the tile becomes a symbol or a REPEAT (R61, R65). -/
def detach (c : TCtx) (idx : Nat) (t : Tte) (s : State) : Res State :=
  if t.kind = 0 then (if t.pooled then returnBlock c idx t t.loc s else .ok s) else unref c idx t s

/-- An entry with a kind and symbol operands: its backing is gone if it is pooled (R61). -/
def Tte.withSymbol (t : Tte) (x : Symbol) : Tte :=
  let t := ((t.put 0 61 3 x.kind).put 2 0 64 (x.a * 2 ^ 32 + x.b % 2 ^ 32)).put 4 32 32 x.c
  if t.pooled then t.put 1 24 40 noLoc else t

/-- The tile at a key is made a symbol (R65); its summary is exact (R54). -/
def makeSymbol (c : TCtx) (idx k : Nat) (x : Symbol) (s : State) : Res State :=
  (detach c idx (s.tte k) s).map fun s =>
    let t := (s.tte k).withSymbol x
    s.setTte k (bumpAon (t.setSummary (t.summaryOf t.symbolVals)))

/-- The tile at a key is made a REPEAT of entry x of its table, which stands at key kx (R56, R65). -/
def makeRepeat (c : TCtx) (idx k x kx : Nat) (s : State) : Res State :=
  (detach c idx (s.tte k) s).map fun s =>
    let s := s.addRef kx 1
    let t := (s.tte k).withSymbol ⟨5, x, 0, 0⟩
    s.setTte k (bumpAon (t.setSummary (s.tte kx).summary))

/-- The PLEN fields of a tile: those given, and 63 beyond the last block (R73). -/
def Tte.setPlens (t : Tte) (ps : List Nat) : Tte :=
  (List.range 8).foldl (fun t b => t.put 2 (16 + 6 * b) 6 (ps.getD b 63)) t

/-- The PLEN fields beyond the last of n blocks are 63 (R73). -/
def Tte.endPlens (t : Tte) (n : Nat) : Tte := t.setPlens ((List.range n).map t.plen)

/-! ## Blocks (R72, R73, R80) -/

/-- Block b of an image. -/
def chunkOf (image : List Byte) (b : Nat) : List Byte := (image.drop (4096 * b)).take 4096

/-- The coded form of a block of bytes: PLEN and bytes (R80). -/
def encodeBlock (tab : PressTable) (bs : List Byte) : Nat × List Byte :=
  match pressEncode tab bs.length (numsOf 2 (bs.length / 2) bs) with
  | some (plen, ws) => (plen, bytesOf 4 ws)
  | none => (63, bs)

/-- The blocks of an image, coded. -/
def encodeImage (tab : PressTable) (image : List Byte) : List (Nat × List Byte) :=
  (List.range (blockCount image.length)).map (fun b => encodeBlock tab (chunkOf image b))

/-- The blocks of an image, RAW. -/
def rawImage (image : List Byte) : List (Nat × List Byte) :=
  (List.range (blockCount image.length)).map (fun b => (63, chunkOf image b))

/-- Write one block at its place, of len bytes; what stands beyond its coded form is not preserved: free bytes (R73; log
12). -/
def writeBlock (k len : Nat) (bs : List Byte) (s : State) : State :=
  let (rest, s) := s.freeBytes (len - bs.length)
  s.storeBytes k (bs ++ rest)

/-- Write the blocks of an image of p bytes. -/
def writeBlocks (k p : Nat) : Nat → List (Nat × List Byte) → State → State
  | _, [], s => s
  | b, x :: xs, s => writeBlocks k p (b + 1) xs (writeBlock (k + 4096 * b) (blockLen p b) x.2 s)

/-- The coded blocks of a stored tile, as they stand (R73, R221). -/
def storedBlocks (s : State) (k : Nat) (t : Tte) : List (Nat × List Byte) :=
  (List.range (blockCount t.imageLen)).map (fun b =>
    (t.plen b, memRead s.mem (k + 4096 * b) (t.codedLen b)))

/-! ## Writing -/

/-- A tile that is not STORED receives backing: a pooled one takes a block; a REPEAT's target loses a reference (R64).
The entry is then STORED with REFCNT 1 and RAW blocks, under its own PRESS and PTAB (R84; log 18); its bytes are still to
come. -/
def attach (c : TCtx) (idx k : Nat) (s : State) : Res State :=
  let t := s.tte k
  if t.kind = 0 then .ok s
  else
    (if t.pooled then takeBlock c idx t s else .ok (t.loc, s)).bind fun (loc, s) =>
      (unref c idx t s).map fun s =>
        let t := ((s.tte k).put 0 61 3 0).put 1 24 40 loc
        s.setTte k (((t.put 2 0 64 1).setPlens []).put 4 32 32 0)

/-- The blocks that a whole write of a pressed tile writes: as given, or those of the image of values, coded (R80). -/
def codedBlocks (s : State) (c : TCtx) (t : Tte) (v : TileVals) (blocks : Option (List (Nat × List Byte))) :
    Res (List (Nat × List Byte)) :=
  match blocks with
  | some bs => .ok bs
  | none => (tableFor s c t.ptab).map fun tab => encodeImage tab (t.image v.vals)

/-- Write bytes of a STORED tile whole: as given blocks, or as the image of values, coded where the tile is pressed. -/
def putBytes (c : TCtx) (idx k : Nat) (v : TileVals) (blocks : Option (List (Nat × List Byte))) (s : State) : Res State :=
  let t := s.tte k
  (peerOk s t).bind fun _ =>
    (backKey s c 1 idx t).bind fun base =>
      if t.press then
        (codedBlocks s c t v blocks).bind fun bs =>
          (needAllGood s (bs.zipIdx.map (fun (x, b) => (base + 4096 * b, x.2.length)))).map fun _ =>
            (writeBlocks base t.imageLen 0 bs s).setTte k (t.setPlens (bs.map (·.1)))
      else (needGood s base t.backLen).map fun _ => s.storeBytes base (t.backing v)

/-- Set the summary of the entry at a key, and bracket the write (R54, R329). -/
def finishWrite (k sm : Nat) (s : State) : State := s.setTte k (bumpAon ((s.tte k).setSummary sm))

/-- A whole-tile write (R59, R65, R84): Rennet first where DETECT = 1. -/
def wholeWrite (c : TCtx) (idx k : Nat) (v : TileVals) (blocks : Option (List (Nat × List Byte))) (s : State) :
    Res State :=
  let t := s.tte k
  match if t.detect then rennet t v else none with
  | some x => makeSymbol c idx k x s
  | none =>
    (attach c idx k s).bind fun s =>
      (putBytes c idx k v blocks s).map (finishWrite k (t.summaryOf v))

/-- Promotion (R64): a symbol's values are written raw, a REPEAT's target is copied with its PLEN and the PRESS and PTAB
by which its bytes are read (R56; log 18). All PLEN fields are copied, but that a pressed tile has 63 beyond its last block
(R73). A block goes with the length that its PLEN says, whatever its place holds (log 56). The summary is the symbol's or the
target's. The bytes go to a PEER tile's home as those of any write do (R391), and an uncorrectable error on either side drops
the transfer (R394). -/
def promote (c : TCtx) (idx k : Nat) (s : State) : Res State :=
  let t := s.tte k
  if t.kind = 0 then .ok s
  else if t.kind = 5 then
    (repeatTarget s c idx t).bind fun (x, _, r) =>
      (peerOk s r).bind fun _ => (backKey s c 0 x r).bind fun from_ => (needAllGood s (r.storedPlaces from_)).bind fun _ =>
        (attach c idx k s).bind fun s =>
          let t := ((s.tte k).put 0 36 1 (if r.press then 1 else 0)).put 0 3 8 r.ptab
          let t := t.setPlens ((List.range (if r.press then blockCount r.imageLen else 8)).map r.plen)
          (peerOk s t).bind fun _ => (backKey s c 1 idx t).bind fun base => (needAllGood s (t.storedPlaces base)).map fun _ =>
            let s := if r.press then writeBlocks base r.imageLen 0 (storedBlocks s from_ r) s
              else s.storeBytes base (memRead s.mem from_ r.backLen)
            s.setTte k (t.setSummary r.summary)
  else
    (attach c idx k s).bind fun s =>
      (putBytes c idx k t.symbolVals (some (rawImage (t.image t.symbolVals.vals))) s).map fun s =>
        s.setTte k ((s.tte k).setSummary t.summary)

/-- The bytes of an image, of a ROWCOL tile its ROW half, that hold bits of element n: offsets and lengths (R45, R46). -/
def Tte.elemPlaces (t : Tte) (n : Nat) : List (Nat × Nat) :=
  let w := fmtWidth t.fmt
  if t.layout = 2 then (List.range w).map (fun b => (b * planeBytes t.rows t.cols + n / 8, 1))
  else [((if t.layout = 1 then n % t.cols * t.rows + n / t.cols else n) * w / 8, max 1 (w / 8))]

/-- The scale byte of element n of an E2M1 tile, in its half (R47). -/
def Tte.scalePlace (t : Tte) (n : Nat) : List (Nat × Nat) :=
  if t.fmt = .e2m1 then
    let i := n / t.cols
    let j := n % t.cols
    [(t.imageLen + (if t.mxaxis then 4 * j + i / 32 else 4 * i + j / 32), 1)]
  else []

/-- The bytes of a backing that a write of element n changes, with its scale byte if the write brings scales: those of its image,
and of both halves of a ROWCOL tile. -/
def Tte.writtenPlaces (t : Tte) (scaled : Bool) (n : Nat) : List (Nat × Nat) :=
  let half := fun (u : Tte) => u.elemPlaces n ++ if scaled then u.scalePlace n else []
  half t ++ (if t.layout = 3 then (half (t.put 0 55 2 1)).map (fun x => (t.halfLen + x.1, x.2)) else [])

/-- Places relative to a key. -/
def placesAt (base : Nat) (xs : List (Nat × Nat)) : List (Nat × Nat) := xs.map (fun x => (base + x.1, x.2))

/-- The blocks of a pressed image that hold bits of element n (R46, R72). -/
def Tte.blocksOf (t : Tte) (n : Nat) : List Nat := (t.elemPlaces n).map (·.1 / 4096)

/-- The classes of the elements that a partial write has written (R54; log 71). -/
def Tte.touchedSummary (t : Tte) (v : TileVals) (touched : List Nat) : Nat :=
  touched.foldl (fun a n =>
    a ||| elemClass t.fmt (v.vals.getD n 0) |||
      (if t.fmt = .e2m1 && t.scaleOf v.scales (n / t.cols) (n % t.cols) == 0xFF then 4 else 0)) 0

/-- Decode the blocks that a partial write touches; the others stand as zeros, and are not written (R85). -/
def decodeTouched (s : State) (tab : PressTable) (base : Nat) (t : Tte) (hit : Nat → Bool) : Nat → Nat → Res (List Byte)
  | 0, _ => .ok []
  | n + 1, b =>
    (if hit b then readBlock s tab (base + 4096 * b) (t.plen b) (blockLen t.imageLen b)
      else .ok (List.replicate (blockLen t.imageLen b) 0)).bind fun bs =>
      (decodeTouched s tab base t hit n (b + 1)).map (bs ++ ·)

/-- Re-encode the touched blocks of a new image at their places (R85). -/
def encodeTouched (tab : PressTable) (base k : Nat) (image : List Byte) (hit : Nat → Bool) : Nat → Nat → State → State
  | 0, _, s => s
  | n + 1, b, s =>
    let s := if hit b then
        let (plen, bs) := encodeBlock tab (chunkOf image b)
        let s := writeBlock (base + 4096 * b) (blockLen image.length b) bs s
        s.setTte k ((s.tte k).put 2 (16 + 6 * b) 6 plen)
      else s
    encodeTouched tab base k image hit n (b + 1) s

/-- The coded bytes that a partial write stores: those of the blocks that it touches (R85, R394). -/
def touchedPlaces (tab : PressTable) (base : Nat) (image : List Byte) (hits : List Nat) : List (Nat × Nat) :=
  hits.map (fun b => (base + 4096 * b, (encodeBlock tab (chunkOf image b)).2.length))

/-- New backing bytes with the old pad (R45): a write of some elements does not write the pad. -/
def keepPad (t : Tte) (new old : List Byte) : List Byte :=
  let used := t.backing ⟨List.replicate (t.rows * t.cols) (2 ^ fmtWidth t.fmt - 1), List.replicate 512 0xFF⟩
  List.zipWith (fun (n : Byte) (uo : Byte × Byte) => (n &&& uo.1) ||| (uo.2 &&& ~~~uo.1)) new (used.zip old)

/-- A partial write (R59, R64, R85): `f` changes the elements whose indices are given, in row order, and their scale bytes where
the write brings scales. Only the bytes of those elements are carried, and of a pressed tile the blocks that hold them: an error elsewhere in the tile drops nothing (R234,
R394). -/
def partialWrite (c : TCtx) (idx k : Nat) (touched : List Nat) (scaled : Bool) (f : TileVals → TileVals) (s : State) : Res State :=
  (promote c idx k s).bind fun s =>
    let t := s.tte k
    let sum := fun (v : TileVals) => t.summary ||| t.touchedSummary v touched
    if t.press then
      let hits := touched.flatMap t.blocksOf
      let hit := fun b => hits.contains b
      let n := blockCount t.imageLen
      (tableFor s c t.ptab).bind fun tab => (peerOk s t).bind fun _ => (backKey s c 1 idx t).bind fun base =>
        (decodeTouched s tab base t hit n 0).bind fun image =>
          let v := f ⟨t.unimage image, []⟩
          (needAllGood s (touchedPlaces tab base (t.image v.vals) hits.eraseDups)).map fun _ =>
            let s := encodeTouched tab base k (t.image v.vals) hit n 0 s
            finishWrite k (sum v) (s.setTte k ((s.tte k).endPlens n))
    else
      (peerOk s t).bind fun _ => (backKey s c 1 idx t).bind fun base =>
        (needAllGood s (placesAt base (touched.flatMap (t.writtenPlaces scaled)))).map fun _ =>
          let old := memRead s.mem base t.backLen
          let v := f (t.imageVals (old.take t.halfLen))
          finishWrite k (sum v) (s.storeBytes base (keepPad t (t.backing v) old))

end Sys2Proof.Machine
end

