-- ==== Sys2Proof/Machine/Engines.lean ====
section
/-!
DEFINITION. Machine/Engines.lean: engine commands: the checks at issue, acceptance, and posting
(spec/09_memory_and_engines.md R204 to R208, R218, R219, spec/03_tiles.md R70, spec/14_ordering_and_sync.md R305 to R307).
-/
namespace Sys2Proof.Machine

/-! ## Checks 1 to 4 of R70 -/

/-- The permission bits of R67, as in `Cap.perms`. -/
def prd : Nat := 16
/-- PWR. -/
def pwr : Nat := 8
/-- PCOM. -/
def pcom : Nat := 4
/-- PPUB. -/
def ppub : Nat := 2
/-- PALI. -/
def pali : Nat := 1

/-- Any class. -/
def anyClass : Nat → Bool := fun _ => true
/-- Class LOCAL. -/
def localClass (c : Nat) : Bool := c == 0
/-- Class GLOBAL or PACKAGE. -/
def globalClass (c : Nat) : Bool := c == 1 || c == 2

/-- Steps 1 and 2: the pair is tagged and its owner is the job's. -/
def State.ownCap (s : State) (p : Pair) (acc : BitVec 2) : Res Cap :=
  let c : Cap := s.st.cap p
  if !s.st.tag p then .error (trapAt 0x04 acc 0)
  else if c.owner != s.job.owner then .error (trapAt 0x06 acc 0)
  else .ok c

/-- Step 4, and the class that a command requires (R218). -/
def capMay (c : Cap) (perms : Nat) (cls : Nat → Bool) : Bool := c.perms &&& perms == perms && cls c.tclass

/-- The kind of a tile access that permissions ask for: a read where PRD is among them and no write is (R365). -/
def accessOf (perms : Nat) : BitVec 2 := if perms &&& (pwr + pcom + ppub) = 0 then 0 else 1

/-- Steps 1 to 4 for tile (a, b) of a pair. -/
def State.useCap (s : State) (p : Pair) (perms : Nat) (cls : Nat → Bool) (a b : Nat) : Res Cap :=
  (s.ownCap p (accessOf perms)).bind fun c =>
    if c.rowt ≤ a ∨ c.colt ≤ b then .error (trapAt 0x05 (accessOf perms) 0)
    else if capMay c perms cls then .ok c
    else .error (trapAt 0x06 (accessOf perms) 0)

/-- The tile row and column of pair a in a coordinate register (R219). -/
def coordA (x : Word) : Nat × Nat := (bits x 48 16, bits x 32 16)

/-- The tile row and column of pair b. -/
def coordB (x : Word) : Nat × Nat := (bits x 16 16, bits x 0 16)

/-- The capability pair of a tile-mode vector access (R231). -/
def tilePair (imm : BitVec 6) : Pair := imm.extractLsb' 3 3

/-! ## Acceptance -/

/-- The commands that a queue holds (R208). -/
def engineDepth : Engine → Nat
  | .ce => 32 | .mx => 16 | .vq => 64

/-- A command of the stream in focus, of n words, with what it captures. -/
def State.command (s : State) (n : Nat) (i : Instr) (cc : Cc) (uint : Bool) (a b c : Pair) (x y : Word) : Cmd where
  id := s.nextCmd
  instr := i
  stream := s.cur
  pc := s.ipc n
  cc := cc
  uint := uint
  capA := s.st.cap a
  capB := s.st.cap b
  capC := s.st.cap c
  x := x
  y := y
  c := 0
  pa := 0
  room := 0
  tier := .pkg
  fpctl := s.st.fpctl
  seed := s.job.seed
  cur := s.job.pvrCur
  floors := s.dies[s.myDie].floors
  bank := s.st.inHandler
  attempt := 0
  parked := false
  accv := []
  ver := none
  cut := false

/-- Accept a command into its queue (R121, R208), and fork its party (R305, R307); a full queue stalls the stream. -/
def accept (e : Engine) (c : Cmd) (s : State) : Res State :=
  let q := s.job.cmds e
  if engineDepth e ≤ q.length then .error (.stall .engineQueue)
  else .ok ({ s with nextCmd := s.nextCmd + 1 }.onJob (fun j => (j.setCmds e (q ++ [c])).fork (threadSub e c.cc)))

/-- The commands of every queue of a job (R208). -/
def Job.allCmds (j : Job) : List Cmd := j.ceQ ++ j.mxQ ++ j.vqQ

/-! ## Posting -/

/-- The tiles (0, 0) to (ROWT − 1, 0) of a capability. -/
def column (cap : BitVec 128) : List Nat := (List.range (Cap.rowt cap)).map (fun g => Cap.tile cap g 0)

/-- The tiles that a command may transfer, by the coordinates that it takes (R219, R222, R239, R257). -/
def cmdTiles (c : Cmd) : List Nat :=
  let a := Cap.tile c.capA (coordA c.x).1 (coordA c.x).2
  let b := Cap.tile c.capB (coordB c.x).1 (coordB c.x).2
  match c.instr with
  | .tgath .. => column c.capA ++ [Cap.tile c.capB 0 0]
  | .tscat .. => Cap.tile c.capA 0 0 :: column c.capB
  | .tpref .. | .tfill .. | .tpromo .. => [a]
  | .publ .. | .obopen .. | .obclose .. | .mzero .. | .mmov .. => []
  | .mma _ _ pa _ pc _ _ _ _ _ _ | .mmat _ _ pa _ pc _ _ _ _ _ _ _ _ _ =>
    (if pa = 0 then [] else [Cap.tile c.capA 0 0]) ++ Cap.tile c.capB 0 0 ::
      (if pc = 0 then [] else [Cap.tile c.capC 0 0])
  | .macc .. => [Cap.tile c.capC 0 0]
  | .mdrain .. => [Cap.tile c.capA 0 0]
  | .tld .. | .tldas .. | .tst .. | .tstash .. | .tcommit .. | .tcopy .. | .tdedup .. | .talias .. | .tredst .. => [a, b]
  | _ => []

/-- The row-scale tile of a tile of the job in focus, if it has one (R243). -/
def State.rowScaleTile (s : State) (idx : Nat) : Option Nat :=
  match entryKey s.job.tctx 0 idx with
  | .ok k => if (s.tte k).rowsc then sameTable (isLtt idx) (s.tte k).rsidx else none
  | .error _ => none

/-- Whether a command names a PEER tile; the transfers of a Copy Engine command there stand in the fabric queue (R318). -/
def peerCmd (s : State) (c : Cmd) : Bool :=
  (cmdTiles c).any (fun t =>
    match entryKey s.job.tctx 0 t with
    | .ok k => (s.tte k).tier == 5
    | .error _ => false)

/-- The effect of a posting on the job: the command leaves its queue, the counter and ERRCNT advance, the party's epoch
rises, and UINT requests the interrupt of the issuing stream (R205, R206, R306, R371, R372). -/
def Job.post (j : Job) (e : Engine) (c : Cmd) (st : Nat) : Job :=
  let err := isErrorStatus st
  let j := (j.setCmds e ((j.cmds e).filter (·.id != c.id))).ccPost c.cc st err
  let j := ((if err then j.countError else j).posted (threadSub e c.cc)).wake
  if c.uint then j.setStream c.stream { j.stream c.stream with upend := putBit (j.stream c.stream).upend c.cc.toNat true }
  else j

/-- An owner's counters count a transfer that ends CORRUPT or REVOKED (R82, R393). -/
def State.countStatus (s : State) (o : BitVec 16) (st : Nat) : State :=
  if st = 3 then s.countCorrupt o else if st = 6 then s.countRevoked o else s

/-- The thread of a command of job uid posts a status; one that fails gives back the blocks that it took (R220). The owner's
counters count CORRUPT and REVOKED (R82, R393). -/
def State.post (s : State) (uid : Nat) (e : Engine) (c : Cmd) (st : Nat) : State :=
  let owner := (s.jobOf? uid).map (·.owner)
  let toFabric := e == .ce && s.job.uid == uid && peerCmd s c
  let s := s.onUid uid (fun j =>
    let j := j.post e c st
    if toFabric then { j with fabricCcs := putBit j.fabricCcs c.cc.toNat true } else j)
  let s := s.endHolds c.id
  let s := if isErrorStatus st then s.giveBack (owner.getD 0) c else s
  match owner with
  | some o => s.countStatus o st
  | none => s

/-- What the result of a command's thread does (R205, R220): it posts, it traps, or it waits. -/
def finishThread (uid : Nat) (e : Engine) (c : Cmd) (s : State) : Res (Nat × State) → Out
  | .ok (st, t) => .next (t.post uid e c st)
  | .error (.post st) => .next (s.post uid e c st)
  | .error (.trap t) => .next (takeThreadTrap uid e c t s)
  | .error (.stall _) => .next s
  | .error (.fault f) => .fault f

/-- The n-th command of a queue, if its thread may run: it is not parked, and no earlier command of its party is still in
the queue (R207). -/
def Job.runnable (j : Job) (e : Engine) (n : Nat) : Option Cmd :=
  match (j.cmds e)[n]? with
  | some c => if c.parked || ((j.cmds e).take n).any (·.cc == c.cc) then none else some c
  | none => none

end Sys2Proof.Machine
end

