-- ==== Sys2Proof/Machine/Translate.lean ====
section
/-!
DEFINITION. Machine/Translate.lean: device virtual addresses, page tables and the translations that TLBs hold
(spec/09_memory_and_engines.md R198 to R203), and the bytes of scalar accesses (R210, R235).
-/
namespace Sys2Proof.Machine

/-- A physical place: its tier, address, and the bytes to the end of the leaf page (R198, R213). -/
structure Phys where
  tier : Tier
  pa : Nat
  room : Nat
  deriving DecidableEq, Repr

/-- The tier of a page table entry: 2 VAT, 3 PKG, 4 FAR, 5 HOST (R199). -/
def pteTier (e : Word) : Option Tier :=
  match bits e 60 3 with
  | 2 => some .vat | 3 => some .pkg | 4 => some .far | 5 => some .host | _ => none

/-- The physical address in FRAME (R199). -/
def pteFrame (e : Word) : Nat := bits e 12 40 * 2 ^ 12

/-- The page size in bits of a leaf at a level (R198). -/
def levelBits (level : Nat) : Nat := 12 + 9 * (level - 1)

/-- Whether an entry maps a page at this level (R200): levels 1 to 3, a known tier, FRAME aligned to the page. -/
def leafOk (level : Nat) (e : Word) : Bool :=
  e.getLsbD 59 && decide (level ≤ 3) && (pteTier e).isSome && pteFrame e % 2 ^ levelBits level == 0

/-- Walk the tables from a level downward: the page size in bits and the leaf, or none where an entry is absent (R200). A read
of a table that meets an uncorrectable error is dropped, and the walk with it (R394; log 42). -/
def walk (s : State) (va : Nat) : Nat → Tier → Nat → Res (Option (Nat × Word))
  | 0, _, _ => .ok none
  | level + 1, t, table =>
    let sh := levelBits (level + 1)
    let at_ := table + 8 * (if level = 3 then va / 2 ^ sh else va / 2 ^ sh % 512)
    (exists? t at_ 8).bind fun _ => (needGood s (cellKey t at_) 8).bind fun _ =>
      let e := s.load64 (cellKey t at_)
      if !e.getLsbD 63 then .ok none
      else if leafOk (level + 1) e then .ok (some (sh, e))
      else if e.getLsbD 59 then .ok none
      else
        match pteTier e with
        | some .vat => walk s va level .vat (pteFrame e)
        | some .pkg => walk s va level .pkg (pteFrame e)
        | _ => .ok none

/-- The keys of the table entries that a walk reads. -/
def walkKeys (s : State) (va : Nat) : Nat → Tier → Nat → List Nat
  | 0, _, _ => []
  | level + 1, t, table =>
    let sh := levelBits (level + 1)
    let k := cellKey t (table + 8 * (if level = 3 then va / 2 ^ sh else va / 2 ^ sh % 512))
    let e := s.load64 k
    k :: (if e.getLsbD 63 && !e.getLsbD 59 then
      (match pteTier e with
        | some .vat => walkKeys s va level .vat (pteFrame e)
        | some .pkg => walkKeys s va level .pkg (pteFrame e)
        | _ => [])
      else [])

/-- Whether the leaf allows the access: 0 read, 1 write, 2 fetch (R199, R200). -/
def leafAllows (e : Word) (access : BitVec 2) : Bool :=
  match access with
  | 1 => e.getLsbD 58
  | 2 => e.getLsbD 57
  | _ => true

/-- A translation that a TLB holds for an owner's address (R200). -/
def tlbHit (s : State) (o : BitVec 16) (va : Nat) : Option TlbEntry :=
  s.tlb.find? (fun e => e.owner == o && e.base == va / 2 ^ e.bits * 2 ^ e.bits)

/-- The leaf that translates an address: from a TLB, or by a walk, which is then held (R200). A retry walks afresh. The reads of
a walk carry floors between the die of the core in focus and the homes of the tables (R338; log 49). -/
def leafOf (s : State) (o : BitVec 16) (retry : Bool) (va : Nat) : Res (Option (Nat × Word) × State) :=
  match if retry then none else tlbHit s o va with
  | some e => .ok (some (e.bits, e.pte), s)
  | none =>
    match s.owners.find? (·.id == o) with
    | none => .ok (none, s)
    | some w =>
      (walk s va 4 .pkg w.root).map fun
        | none => (none, s)
        | some (b, e) =>
          let entry : TlbEntry := ⟨o, va / 2 ^ b * 2 ^ b, b, e⟩
          (some (b, e), { (walkKeys s va 4 .pkg w.root).foldl State.exchangeWith s with
            tlb := entry :: s.tlb.filter (fun x => !(x.owner == o && x.base == entry.base)) })

/-- Translate of R235: the physical place of an address for an access, or PAGE_ABSENT. -/
def translate (s : State) (o : BitVec 16) (retry : Bool) (va : Nat) (access : BitVec 2) : Res (Phys × State) :=
  (leafOf s o retry va).bind fun (l, s) =>
    match l with
    | none => .error (pageAbsent access (word va))
    | some (b, e) =>
      match pteTier e with
      | none => .error (pageAbsent access (word va))
      | some t =>
        if leafAllows e access then .ok (⟨t, pteFrame e + va % 2 ^ b, 2 ^ b - va % 2 ^ b⟩, s)
        else .error (pageAbsent access (word va))

/-- Translate an address for the stream in focus. -/
def State.translate (s : State) (va : Nat) (access : BitVec 2) : Res (Phys × State) :=
  Machine.translate s s.job.owner (s.st.attempt != 0) va access

/-- The key of a physical place whose n bytes exist. -/
def Phys.cell (p : Phys) (n : Nat) : Res Nat := (exists? p.tier p.pa n).map fun _ => cellKey p.tier p.pa

/-- The key of the n bytes at a device virtual address for the stream in focus: MISALIGN is raised before translation
(R210). The access reaches the home, and floors go both ways (R338). -/
def State.place (s : State) (va n : Nat) (access : BitVec 2) : Res (Nat × State) :=
  if va % n ≠ 0 then .error (misalign access (word va))
  else (s.translate va access).bind fun (p, s) => (p.cell n).map fun k => (k, s.exchangeWith k)

/-- Translate n bytes at an address for reading, page by page in ascending order (R233, R294): a key and a length for each
page. `fuel` bounds the pages. -/
def pagesOf (o : BitVec 16) (retry : Bool) : Nat → Nat → Nat → State → Res (List (Nat × Nat) × State)
  | _, _, 0, s => .ok ([], s)
  | 0, _, _, s => .ok ([], s)
  | fuel + 1, va, n, s =>
    (translate s o retry va 0).bind fun (p, s) =>
      let m := min n p.room
      (p.cell m).bind fun k =>
        (pagesOf o retry fuel ((va + m) % 2 ^ 57) (n - m) s).map fun (ps, s) => ((k, m) :: ps, s)

/-- Read places; an uncorrectable error drops the transfer (R82, R394). -/
def readPlaces (s : State) (ps : List (Nat × Nat)) : Res (List Byte) :=
  (needAllGood s ps).map fun _ => ps.flatMap (fun (k, m) => memRead s.mem k m)

/-- Read n bytes at an address: every page is translated before any is read (R233, R294). -/
def readVa (o : BitVec 16) (retry : Bool) (fuel va n : Nat) (s : State) : Res (List Byte × State) :=
  (pagesOf o retry fuel va n s).bind fun (ps, s) => (readPlaces s ps).map fun bs => (bs, s)

/-- Accesses of the job in focus to places carry floors (R338). -/
def State.reaches (s : State) (ps : List (Nat × Nat)) : State := ps.foldl (fun s x => s.exchangeWith x.1) s

/-- Read n bytes for the job in focus, by a party that retries or not. -/
def State.readFor (s : State) (retry : Bool) (va n : Nat) : Res (List Byte × State) :=
  (pagesOf s.job.owner retry (n / 4096 + 2) va n s).bind fun (ps, s) => (readPlaces s ps).map fun bs => (bs, s.reaches ps)

/-- Read n bytes for the stream in focus. -/
def State.readSpan (s : State) (va n : Nat) : Res (List Byte × State) := s.readFor (s.st.attempt != 0) va n

end Sys2Proof.Machine
end

