-- ==== Sys2Proof/Machine/LoadStore.lean ====
section
/-!
DEFINITION. Machine/LoadStore.lean: scalar loads and stores (spec/09_memory_and_engines.md R209, R210).
-/
namespace Sys2Proof.Machine

/-- The address of a scalar access: the offset counts in units of the size (R210). -/
def State.scalarVa (s : State) (a : SReg) (off : BitVec 11) (n : Nat) : Nat :=
  vaOf (s.reg a + off.signExtend 64 * BitVec.ofNat 64 n)

/-- A scalar load of n bytes with the extension of its result (R209, R210); one that meets an uncorrectable error writes no
register (R82, R394; log 42). -/
def scalarLoad (w : Wheel) (d a : SReg) (off : BitVec 11) (n : Nat) (ext : Nat → Word) (s : State) : Out :=
  issue w 1 onlyAE (regBit d ||| regBit a) (fun s =>
    (s.place (s.scalarVa a off n) n 0).bind fun (k, s) =>
      .ok (s.transfer k n (fun s => s.setReg d (ext (s.load k n))))) s

/-- A scalar store of the low n bytes of a register (R209, R210); one that meets an uncorrectable error writes nothing (R82,
R394; log 42). -/
def scalarStore (w : Wheel) (r a : SReg) (off : BitVec 11) (n : Nat) (s : State) : Out :=
  issue w 1 onlyAE (regBit r ||| regBit a) (fun s =>
    (s.place (s.scalarVa a off n) n 1).bind fun (k, s) =>
      .ok (s.transfer k n (fun s => s.store k n (s.reg r).toNat))) s

/-- Sign extension of an m-bit number. -/
def sextNat (m : Nat) (x : Nat) : Word := (BitVec.ofNat m x).signExtend 64

/-- LDB. -/
def execLdb (w : Wheel) (d a : SReg) (off : BitVec 11) (s : State) : Out := scalarLoad w d a off 1 (sextNat 8) s
/-- LDBN. -/
def execLdbn (w : Wheel) (d a : SReg) (off : BitVec 11) (s : State) : Out := scalarLoad w d a off 1 word s
/-- LDH. -/
def execLdh (w : Wheel) (d a : SReg) (off : BitVec 11) (s : State) : Out := scalarLoad w d a off 2 (sextNat 16) s
/-- LDHN. -/
def execLdhn (w : Wheel) (d a : SReg) (off : BitVec 11) (s : State) : Out := scalarLoad w d a off 2 word s
/-- LDW. -/
def execLdw (w : Wheel) (d a : SReg) (off : BitVec 11) (s : State) : Out := scalarLoad w d a off 4 (sextNat 32) s
/-- LDWN. -/
def execLdwn (w : Wheel) (d a : SReg) (off : BitVec 11) (s : State) : Out := scalarLoad w d a off 4 word s
/-- LDD. -/
def execLdd (w : Wheel) (d a : SReg) (off : BitVec 11) (s : State) : Out := scalarLoad w d a off 8 word s
/-- STB. -/
def execStb (w : Wheel) (r a : SReg) (off : BitVec 11) (s : State) : Out := scalarStore w r a off 1 s
/-- STH. -/
def execSth (w : Wheel) (r a : SReg) (off : BitVec 11) (s : State) : Out := scalarStore w r a off 2 s
/-- STW. -/
def execStw (w : Wheel) (r a : SReg) (off : BitVec 11) (s : State) : Out := scalarStore w r a off 4 s
/-- STD. -/
def execStd (w : Wheel) (r a : SReg) (off : BitVec 11) (s : State) : Out := scalarStore w r a off 8 s

end Sys2Proof.Machine
end

