-- ==== Sys2Proof/Machine/Atomics.lean ====
section
/-!
DEFINITION. Machine/Atomics.lean: atomics, performed at once or accepted into an ordered batch
(spec/09_memory_and_engines.md R211, R212, R216; spec/14_ordering_and_sync.md R323, R324).
-/
namespace Sys2Proof.Machine

/-- The value that an atomic stores, from old, the operand v and the compare value c; none where it stores nothing. -/
abbrev AmoFn := Word → Word → Word → Option Word

/-- AMOFADD's value (R211). -/
def fp32Add (old v : Word) : Word := word (toFp32 (addVal .rne (f32 old.toNat) (f32 v.toNat))).1

/-- The size and the function of an atomic (R211). -/
def amoOf : Instr → Option (Nat × AmoFn)
  | .amoadd .. => some (8, fun old v _ => some (old + v))
  | .amoand .. => some (8, fun old v _ => some (old &&& v))
  | .amoor .. => some (8, fun old v _ => some (old ||| v))
  | .amoxor .. => some (8, fun old v _ => some (old ^^^ v))
  | .amomin .. => some (8, fun old v _ => some (if v.slt old then v else old))
  | .amomax .. => some (8, fun old v _ => some (if old.slt v then v else old))
  | .amominn .. => some (8, fun old v _ => some (if v.ult old then v else old))
  | .amomaxn .. => some (8, fun old v _ => some (if old.ult v then v else old))
  | .amoxchg .. => some (8, fun _ v _ => some v)
  | .amocas .. => some (8, fun old v c => if old = c then some v else none)
  | .amoincb .. => some (8, fun old v _ => if old.ult v then some (old + 1) else none)
  | .amofadd .. => some (4, fun old v _ => some (fp32Add old v))
  | _ => none

/-- Perform an atomic of n bytes at a key: the old value, the state after, and whether it stored. -/
def performAmo (k n : Nat) (f : AmoFn) (v c : Word) (s : State) : Word × State × Bool :=
  let old := word (s.load k n)
  match f old v c with
  | some x => (old, s.store k n x.toNat, true)
  | none => (old, s, false)

/-- The aligned word of a key, by which release sets are kept (R323). -/
def setWord (k : Nat) : Nat := k / 8 * 8

/-- Whether the home of a key holds release sets: not HOST (R323, R386). -/
def holdsSets (k : Nat) : Bool := k / 2 ^ 64 != 5

/-- The effect of an atomic without .ord at its home (R212, R323, R324). -/
def amoAt (o : AmoOrd) (d b : SReg) (k n : Nat) (f : AmoFn) (s : State) : State :=
  let (old, s', stored) := performAmo k n f (s.reg b) (s.reg d) s
  let s' := if o = .rel && stored then s'.releaseWord (setWord k) (holdsSets k) else s'
  let s' := if o = .acq then s'.acquireWord (setWord k) else s'
  s'.setReg d old

/-- An atomic without .ord (R212); one that meets an uncorrectable error changes no byte, set or register (R82, R394; log
42). -/
def plainAmo (o : AmoOrd) (d a b : SReg) (n : Nat) (f : AmoFn) (s : State) : Res State :=
  (s.place (vaOf (s.reg a)) n 1).bind fun (k, s) => .ok (s.transfer k n (amoAt o d b k n f))

/-- Set or clear the pending mark of a register in a bank (R216, R373). -/
def Stream.setPend (t : Stream) (bank : Bool) (d : SReg) (b : Bool) : Stream :=
  if d = 0 then t
  else if inShadow bank d then { t with shadowPend := putBit t.shadowPend d.toNat b }
  else { t with pend := putBit t.pend d.toNat b }

/-- An ordered atomic (R216): checked at issue, and accepted into the Vat operation queue. -/
def orderedAmo (i : Instr) (d a b : SReg) (n : Nat) (s : State) : Res State :=
  let va := vaOf (s.reg a)
  if va % n ≠ 0 then .error (misalign 1 (word va))
  else
    (s.translate va 1).bind fun (p, s) => (p.cell n).bind fun _ =>
      let c := s.command 1 i d false 0 0 0 (s.reg b) (s.reg (b ||| 1))
      (accept .vq { c with c := s.reg d, pa := p.pa, room := p.room, tier := p.tier } s).map fun s =>
        s.onSt (fun t => t.setPend t.inHandler d true)

/-- An atomic (R211). -/
def amo (i : Instr) (w : Wheel) (o : AmoOrd) (d a b : SReg) (s : State) : Out :=
  match amoOf i with
  | none => .next s
  | some (n, f) =>
    issue w 1 onlyAE (regBit d ||| regBit a ||| regBit b ||| (if o = .ord then regBit (b ||| 1) else 0)) (fun s =>
      if o = .ord then orderedAmo i d a b n s else plainAmo o d a b n f s) s

/-- AMOADD. -/
def execAmoadd (w : Wheel) (o : AmoOrd) (d a b : SReg) (s : State) : Out := amo (.amoadd w o d a b) w o d a b s
/-- AMOAND. -/
def execAmoand (w : Wheel) (o : AmoOrd) (d a b : SReg) (s : State) : Out := amo (.amoand w o d a b) w o d a b s
/-- AMOOR. -/
def execAmoor (w : Wheel) (o : AmoOrd) (d a b : SReg) (s : State) : Out := amo (.amoor w o d a b) w o d a b s
/-- AMOXOR. -/
def execAmoxor (w : Wheel) (o : AmoOrd) (d a b : SReg) (s : State) : Out := amo (.amoxor w o d a b) w o d a b s
/-- AMOMIN. -/
def execAmomin (w : Wheel) (o : AmoOrd) (d a b : SReg) (s : State) : Out := amo (.amomin w o d a b) w o d a b s
/-- AMOMAX. -/
def execAmomax (w : Wheel) (o : AmoOrd) (d a b : SReg) (s : State) : Out := amo (.amomax w o d a b) w o d a b s
/-- AMOMINN. -/
def execAmominn (w : Wheel) (o : AmoOrd) (d a b : SReg) (s : State) : Out := amo (.amominn w o d a b) w o d a b s
/-- AMOMAXN. -/
def execAmomaxn (w : Wheel) (o : AmoOrd) (d a b : SReg) (s : State) : Out := amo (.amomaxn w o d a b) w o d a b s
/-- AMOXCHG. -/
def execAmoxchg (w : Wheel) (o : AmoOrd) (d a b : SReg) (s : State) : Out := amo (.amoxchg w o d a b) w o d a b s
/-- AMOCAS. -/
def execAmocas (w : Wheel) (o : AmoOrd) (d a b : SReg) (s : State) : Out := amo (.amocas w o d a b) w o d a b s
/-- AMOINCB. -/
def execAmoincb (w : Wheel) (o : AmoOrd) (d a b : SReg) (s : State) : Out := amo (.amoincb w o d a b) w o d a b s
/-- AMOFADD. -/
def execAmofadd (w : Wheel) (o : AmoOrd) (d a b : SReg) (s : State) : Out := amo (.amofadd w o d a b) w o d a b s

end Sys2Proof.Machine
end

