-- ==== Sys2Proof/Machine/Batches.lean ====
section
/-!
DEFINITION. Machine/Batches.lean: ordered batches: OBOPEN, OBCLOSE, TREDST, the arrival of a request at its die, and the
application of a batch (spec/09_memory_and_engines.md R213 to R217, R223; spec/14_ordering_and_sync.md R325, R326).
-/
namespace Sys2Proof.Machine

/-! ## Reduce-stores (R223) -/

/-- The value of element (i, j): its pattern, times its block scale for E2M1 (R24). -/
def Tte.valueAt (t : Tte) (v : TileVals) (i j : Nat) : Val :=
  let x := decodeVal t.fmt (elemAt v.vals t.cols i j)
  if t.fmt = .e2m1 then
    let e := t.scaleOf v.scales i j
    if e = 0xFF then .nan false else (mulVal (.rat false 1 1 ((e : Int) - 127)) x).1
  else x

/-- A reduce-store between opened tiles: index, key and entry of the source and of the destination. -/
structure Red where
  src : Nat
  sk : Nat
  st : Tte
  dst : Nat
  dk : Nat
  dt : Tte
  deriving DecidableEq, Repr

/-- The formats of R223. -/
def redFits (src dst : Fmt) : Bool :=
  match dst with
  | .fp32 | .bf16 => isFloat src
  | .i32 => rampFmt src
  | _ => false

/-- Checks 5 to 8 of a TREDST, and its conditions: anything else posts SHAPE (R223). -/
def redPlan (s : State) (w : Who) (c : Cmd) : Res Red :=
  let a := Cap.tile c.capA (coordA c.x).1 (coordA c.x).2
  let b := Cap.tile c.capB (coordB c.x).1 (coordB c.x).2
  (openTile s w.ctx c.capA 0 a).bind fun (sk, st) =>
    (openWrite s w.ctx c.capB b).bind fun (dk, dt) =>
      if dt.tier = 2 ∧ dt.pooled = false ∧ st.rows = dt.rows ∧ st.cols = dt.cols ∧ redFits st.fmt dt.fmt then
        .ok ⟨a, sk, st, b, dk, dt⟩
      else .error (.post 4)

/-- One element of a reduce-store (R223). -/
def redElem (f : Fmt) (x : Val) (d : Nat) : Nat :=
  let x := (roundTo f rneCtx x).1
  if f = .i32 then (d + x) % 2 ^ 32 else (roundTo f rneCtx (addVal .rne (decodeVal f d) (decodeVal f x)).1).1

/-- The values of the destination after a reduce-store. -/
def redVals (r : Red) (sv v : TileVals) : TileVals :=
  ⟨(List.range r.dt.rows).flatMap (fun i => (List.range r.dt.cols).map (fun j =>
    redElem r.dt.fmt (r.st.valueAt sv i j) (elemAt v.vals r.dt.cols i j))), v.scales⟩

/-- Every element of a tile. -/
def Tte.allElems (t : Tte) : List Nat := List.range (t.rows * t.cols)

/-- The identity of a batch in a record (R325): its die, owner and id. -/
def batchKey (die : Fin 4) (owner id : BitVec 16) : Nat := die.val * 2 ^ 32 + owner.toNat * 2 ^ 16 + id.toNat

/-- The batch id and the key that a request carries (R216, R223). -/
def Cmd.batchId (c : Cmd) : BitVec 16 := c.y.extractLsb' 48 16
/-- The key of a request. -/
def Cmd.key (c : Cmd) : BitVec 32 := c.y.extractLsb' 0 32

/-- Place the write record of a TREDST, after its check (R326). -/
def placeRed (w : Who) (c : Cmd) (r : Red) (s : State) : Res State :=
  let b := batchKey (homeDie r.dk r.dt) w.ctx.owner c.batchId
  (checkAccess r.dk r.dt w.party true (some b) s).map (recordAccess r.dk w.party true (some (b, c.id)))

/-- Whether the record of a TREDST stands on its destination (R326). -/
def redPlaced (s : State) (k : Nat) (c : Cmd) : Bool :=
  s.recs.any (fun g => g.entry == k && g.slot == .w && g.batch.any (·.2 == c.id))

/-- Acceptance of a TREDST: where its checks pass, its record is placed at once; MM_RACE belongs to the thread (R313,
R326). One that ends in SHAPE places none. -/
def acceptRed (c : Cmd) (s : State) : Res State :=
  (accept .vq c s).bind fun s =>
    let w := s.whoOf .vq c
    match redPlan s w c with
    | .error (.fault f) => .error (.fault f)
    | .error _ => .ok s
    | .ok r =>
      match placeRed w c r s with
      | .ok s => .ok s
      | .error (.trap t) => .ok (takeThreadTrap s.job.uid .vq c t s)
      | .error e => .error e

/-- The scalar registers that a TREDST uses (R216). -/
def redUses (a b : Pair) (r : SReg) : BitVec 16 := pairBits a ||| pairBits b ||| regBit r ||| regBit (r ||| 1)

/-- The command of a TREDST that passes its checks at issue (R70, R223). -/
def redCommand (w : Wheel) (a b : Pair) (r : SReg) (cc : Cc) (uint : Bool) (s : State) : Res Cmd :=
  let x := s.reg r
  (s.useCap a prd anyClass (coordA x).1 (coordA x).2).bind fun _ =>
    (s.useCap b pwr anyClass (coordB x).1 (coordB x).2).map fun _ =>
      s.command 1 (.tredst w a b r cc uint) cc uint a b 0 x (s.reg (r ||| 1))

/-- Where the checks of a TREDST's thread trap, an absent tile's for one, its record cannot be placed yet: the command is accepted,
and the stream waits for the record (R326). The state then; none where the TREDST does not come to this. -/
def redHeld (w : Wheel) (a b : Pair) (r : SReg) (cc : Cc) (uint : Bool) (s : State) : Option State :=
  if s.st.pendMask &&& redUses a b r != 0 || !onlyAE s.cur then none
  else
    (s.job.takeTokens s.cur w).bind fun j =>
      let u := (s.setJob j).advance 1
      match redCommand w a b r cc uint u with
      | .error _ => none
      | .ok c =>
        match accept .vq c u with
        | .error _ => none
        | .ok t =>
          match redPlan t (t.whoOf .vq c) c with
          | .error (.trap _) =>
            some (t.onSt (fun x => { x with pc := s.st.pc, redAt := some (c.id, false), blocked := some .engineQueue }))
          | _ => none

/-- TREDST (R223, R326): one whose record is not placed yet waits, and goes on when it is, or when the command has ended. -/
def execTredst (w : Wheel) (a b : Pair) (r : SReg) (cc : Cc) (uint : Bool) (s : State) : Out :=
  match s.st.redAt with
  | some (id, placed) =>
    if placed || !s.job.allCmds.any (·.id == id) then
      settle w s (.ok ((s.onSt (fun t => { t with redAt := none })).advance 1))
    else .next (s.block .engineQueue)
  | none =>
    match redHeld w a b r cc uint s with
    | some t => .next t
    | none => issue w 1 onlyAE (redUses a b r) (fun s => (redCommand w a b r cc uint s).bind (acceptRed · s)) s

/-! ## OBOPEN and OBCLOSE -/

/-- A Vat-queue command whose address is translated at issue (R213, R217). -/
def batchCommand (i : Instr) (n : Nat) (cc : Cc) (a b : SReg) (s : State) : Res State :=
  (s.translate (vaOf (s.reg a)) 1).bind fun (p, s) =>
    let c := s.command n i cc false 0 0 0 (s.reg a) (s.reg b)
    accept .vq { c with pa := p.pa, room := p.room, tier := p.tier } s

/-- OBOPEN (R213). -/
def execObopen (w : Wheel) (cc : Cc) (a b : SReg) (id : BitVec 16) (s : State) : Out :=
  issue w 2 onlyAE (regBit a ||| regBit b) (batchCommand (.obopen w cc a b id) 2 cc a b) s

/-- OBCLOSE (R217). -/
def execObclose (w : Wheel) (cc : Cc) (a b : SReg) (s : State) : Out :=
  issue w 1 onlyAE (regBit a ||| regBit b) (batchCommand (.obclose w cc a b) 1 cc a b) s

/-! ## Applying a batch (R215) -/

/-- The die of a Vat address (R199). -/
def vatDie (pa : Nat) : Fin 4 := ⟨pa / 2 ^ 29 % 4, Nat.mod_lt _ (by decide)⟩

/-- The response of a request that reached a Vat die carries that die's floors (R338). -/
def respond (r : Req) (s : State) : State :=
  if r.len = 0 then s else match s.jobOf? r.uid with | some j => s.gossip (vatDie r.pa) (s.dieOf j.core) | none => s

/-- The die of a job, if it stands on a core. -/
def State.dieOfUid (s : State) (uid : Nat) : Option (Fin 4) := (s.jobOf? uid).map (fun j => s.dieOf j.core)

/-- A request of a job reaches a die with the floors of the job's die (R338). -/
def State.sentTo (s : State) (uid : Nat) (d : Fin 4) : State := (s.dieOfUid uid).elim s (s.gossip · d)

/-- An OBOPEN or OBCLOSE that has reached a die posts: the response carries that die's floors (R338). -/
def State.postFrom (s : State) (d : Fin 4) (uid : Nat) (c : Cmd) (st : Nat) : State :=
  ((s.dieOfUid uid).elim s (s.gossip d ·)).post uid .vq c st

/-- A request ends with a status: an ordered AMO's register is no longer pending (R216). A peer package's member posts at no
job here, and its importer's counters count it (R393). -/
def endReq (r : Req) (st : Nat) (s : State) : State :=
  let s := respond r s
  let s := match amoOf r.cmd.instr with
    | some _ => s.onUid r.uid (fun j =>
        j.setStream r.cmd.stream ((j.stream r.cmd.stream).setPend r.cmd.bank r.cmd.cc false))
    | none => s
  let s := s.post r.uid .vq r.cmd st
  if r.uid = 0 then s.countStatus r.owner st else s

/-- Apply an ordered AMO: memory, then s[d] ← old (R216). -/
def applyAmo (r : Req) (n : Nat) (f : AmoFn) (s : State) : State :=
  let c := r.cmd
  let (old, s, _) := performAmo (cellKey c.tier c.pa) n f c.x c.c s
  s.onUid r.uid (fun j => j.setStream c.stream ((j.stream c.stream).setRegIn c.bank c.cc old))

/-- The thread of a request as a party of its own job, wherever that job stands. -/
def State.reqWho (s : State) (r : Req) : Who :=
  match s.jobOf? r.uid with
  | some j => ⟨⟨j.uid, threadSub .vq r.cmd.cc⟩, j.tctx, r.cmd.cur, s.dieOf j.core, r.cmd.floors, r.cmd.id, 0⟩
  | none => ⟨⟨0, 0⟩, (Job.reset 0).tctx, 0, 0, r.cmd.floors, r.cmd.id, 0⟩

/-- Apply a TREDST at its destination's home (R223); it waits while a read holds the writes of the tile (R329). -/
def applyRed (r : Req) (s : State) : Res State :=
  let w := s.reqWho r
  (redPlan s w r.cmd).bind fun p =>
    (readTile w p.sk p.st s).bind fun (st, s) => (freeOfHold w p.dk s).bind fun s =>
      (valuesOf s w.ctx p.src st).bind fun sv =>
        partialWrite w.ctx p.dst p.dk p.dt.allElems false (redVals { p with st := st } sv) s

/-- Apply one member (R215). -/
def applyReq (r : Req) (s : State) : Res State :=
  match amoOf r.cmd.instr with
  | some (n, f) => (needGood s (cellKey r.cmd.tier r.cmd.pa) n).map fun _ => applyAmo r n f s
  | none => applyRed r s

/-- A member merges into its thread's table what the members before it pass on (R325). -/
def carryInto (r : Req) (carried : AcqTable) (s : State) : State :=
  let sub := threadSub .vq r.cmd.cc
  s.onUid r.uid (fun j => { j with threadAcq := assocSet j.threadAcq sub ((j.threadTable sub).merge carried) })

/-- What a member passes on, as it stands at its own posting (R325). -/
def carryFrom (r : Req) (carried : AcqTable) (s : State) : AcqTable :=
  let sub := threadSub .vq r.cmd.cc
  match s.jobOf? r.uid with
  | some j => (AcqTable.merge carried (j.threadTable sub)).acquire ⟨r.uid, sub⟩ (j.posts sub)
  | none => carried

/-- Requests by ascending key. -/
def insertReq (r : Req) : List Req → List Req
  | [] => [r]
  | x :: xs => if r.key.toNat < x.key.toNat then r :: x :: xs else x :: insertReq r xs

/-- The members that share their key with another. -/
def sharesKey (ms : List Req) (r : Req) : Bool := ms.any (fun x => x.key == r.key && x.cmd.id != r.cmd.id)

/-- Records that a member made are plain records once it has posted, at the epoch of its posting (R326). -/
def unbatch (cmd : Nat) (s : State) : State :=
  (s.recs.filter (fun g => g.batch.any (·.2 == cmd))).foldl State.settleRecord s

/-- Apply members in order: what they pass on, and the members left when one parks (R215, R363). A member whose job the
trap of an earlier member ended is skipped. -/
def applyMembers : List Req → AcqTable → State → AcqTable × List Req × State
  | [], car, s => (car, [], s)
  | r :: rs, car, s =>
    if r.uid != 0 && (s.jobOf? r.uid).isNone then applyMembers rs car s
    else
      let s := carryInto r car s
      match applyReq r (s.endHolds r.cmd.id) with
      | .ok s =>
        let s := unbatch r.cmd.id (endReq r 0 s)
        applyMembers rs (carryFrom r car s) s
      | .error (.post st) => applyMembers rs car (unbatch r.cmd.id (endReq r st s))
      | .error (.trap t) =>
        let s := takeThreadTrap r.uid .vq r.cmd t s
        if parks t.code then (car, r :: rs, s.endHolds r.cmd.id) else applyMembers rs car s
      | .error _ => (car, r :: rs, s.endHolds r.cmd.id)

/-- Whether a batch has the identity (owner, id) on its die (R213). -/
def Batch.named (b : Batch) (owner id : BitVec 16) : Bool := b.owner == owner && b.id == id

/-- Put a batch back on its die. -/
def setBatch (d : Fin 4) (b : Batch) (s : State) : State :=
  s.onDie d (fun x => { x with batches := x.batches.map (fun y => if y.named b.owner b.id then b else y) })

/-- The batch is gone from its die, and its id is free. -/
def freeBatch (d : Fin 4) (b : Batch) (s : State) : State :=
  s.onDie d (fun x => { x with batches := x.batches.filter (fun y => !y.named b.owner b.id) })

/-- Go on applying a batch: when every member has posted, its OBOPEN and the OBCLOSEs that wait post OK (R213, R217). -/
def continueBatch (d : Fin 4) (b : Batch) (s : State) : State :=
  let (car, left, s) := applyMembers b.members b.carried s
  if left.isEmpty then
    let s := (freeBatch d b s).postFrom d b.openUid b.openCmd 0
    b.closers.foldl (fun s x => s.postFrom d x.1 x.2 0) s
  else setBatch d { b with members := left, carried := car } s

/-- Apply a batch (R215): members that share a key end with DUPKEY, the others are applied by ascending key. -/
def applyBatch (d : Fin 4) (b : Batch) (s : State) : State :=
  let dup := b.members.filter (sharesKey b.members)
  let rest := (b.members.filter (fun r => !sharesKey b.members r)).foldr insertReq []
  let b := { b with members := rest, applying := true, carried := [] }
  continueBatch d b (dup.foldl (fun s r => unbatch r.cmd.id (endReq r 8 s)) (setBatch d b s))

/-! ## Arrival (R214) -/

/-- The bytes that a request targets: first address and length (R214). -/
structure Target where
  die : Fin 4
  pa : Nat
  len : Nat
  deriving DecidableEq, Repr

/-- A member's target lies in the region of a batch. -/
def Batch.holds (b : Batch) (r : Req) : Bool := decide (b.base ≤ r.pa ∧ r.pa + r.len ≤ b.base + b.len)

/-- The target of a request of a job: none for an AMO to another tier (R214). -/
def reqTarget (s : State) (r : Req) : Res (Option Target) :=
  match amoOf r.cmd.instr with
  | some _ => .ok (if r.cmd.tier = .vat then some ⟨vatDie r.cmd.pa, r.cmd.pa / 8 * 8, 8⟩ else none)
  | none =>
    (redPlan s (s.reqWho r) r.cmd).map fun p =>
      some ⟨homeDie p.dk p.dt, p.dt.loc * 512, p.dt.backLen⟩

/-- The requests that a die holds, members and held ones (R214). -/
def Die.load (d : Die) : Nat := d.held.length + (d.batches.map (·.members.length)).foldl (· + ·) 0

/-- A request becomes a member, and the batch is applied when it is full; or it ends with BATCH outside the region. -/
def joinBatch (d : Fin 4) (b : Batch) (r : Req) (s : State) : State :=
  if !b.holds r then unbatch r.cmd.id (endReq r 7 s)
  else
    let b := { b with members := b.members ++ [r] }
    if b.count ≤ b.members.length then applyBatch d b s else setBatch d b s

/-- A request is held at its die. -/
def holdReq (d : Fin 4) (owner : BitVec 16) (r : Req) (s : State) : State :=
  s.onDie d (fun x => { x with held := x.held ++ [⟨owner, r.cmd.batchId, r⟩] })

/-- The record of a TREDST is placed: a stream that waits for it goes on (R326). -/
def State.redDone (s : State) (uid : Nat) (c : Cmd) : State :=
  s.onUid uid (fun j =>
    let t := j.stream c.stream
    if t.redAt = some (c.id, false) then j.setStream c.stream { t with redAt := some (c.id, true), blocked := none } else j)

/-- Before it is held or admitted, a TREDST whose record is not placed yet has it placed now. -/
def ensureRed (r : Req) (s : State) : Res State :=
  match amoOf r.cmd.instr with
  | some _ => .ok s
  | none =>
    let w := s.reqWho r
    (redPlan s w r.cmd).bind fun p =>
      if redPlaced s p.dk r.cmd then .ok s else (placeRed w r.cmd p s).map (·.redDone r.uid r.cmd)

/-- A request reaches its die (R214). One whose id names a batch that is being applied is held for the next OBOPEN of the id,
wherever its target lies: R214 does not say (log 13). -/
def arrive (uid : Nat) (owner : BitVec 16) (c : Cmd) (s : State) : Res State :=
  (reqTarget s ⟨uid, owner, c, c.key, 0, 0⟩).bind fun
    | none => .ok (endReq ⟨uid, owner, c, c.key, 0, 0⟩ 7 s)
    | some t =>
      let r : Req := ⟨uid, owner, c, c.key, t.pa, t.len⟩
      (ensureRed r s).bind fun s =>
        let s := s.sentTo uid t.die
        let x := s.dies[t.die]
        match x.batches.find? (·.named owner c.batchId) with
        | some b =>
          if b.applying then
            (if x.load < 65536 then .ok (holdReq t.die owner r s) else .error batchOverflow)
          else if !b.holds r then .ok (unbatch r.cmd.id (endReq r 7 s))
          else if 65536 ≤ x.load then .error batchOverflow
          else .ok (joinBatch t.die b r s)
        | none => if 65536 ≤ x.load then .error batchOverflow else .ok (holdReq t.die owner r s)

/-- The region and count that an OBOPEN names are in order (R213). -/
def openOk (s : State) (owner id : BitVec 16) (c : Cmd) : Bool :=
  let len := bits c.y 0 32
  let n := bits c.y 32 32
  c.tier == .vat && c.pa % 64 == 0 && len != 0 && len % 64 == 0 && decide (len ≤ c.room) && n != 0 &&
    decide (n ≤ 65536) && !(s.dies[vatDie c.pa].batches.any (·.named owner id))

/-- Held requests meet the batch that has opened, in order of arrival, until it is applied (R214, R215). -/
def drainHeld (d : Fin 4) (owner id : BitVec 16) : List HeldReq → State → State
  | [], s => s
  | h :: hs, s =>
    match s.dies[d].batches.find? (fun b => b.named owner id && !b.applying) with
    | none => s
    | some b =>
      let s := s.onDie d (fun x => { x with held := x.held.filter (·.req.cmd.id != h.req.cmd.id) })
      drainHeld d owner id hs (joinBatch d b h.req s)

/-- An OBOPEN reaches its die, with the floors of the job's (R213, R338). -/
def openBatch (uid : Nat) (owner id : BitVec 16) (c : Cmd) (s : State) : State :=
  let d := vatDie c.pa
  let s := if c.tier = .vat then s.sentTo uid d else s
  if !openOk s owner id c then (if c.tier = .vat then s.postFrom d uid c 7 else s.post uid .vq c 7)
  else
    let b : Batch := ⟨owner, id, c.pa, bits c.y 0 32, bits c.y 32 32, uid, c, [], false, [], []⟩
    let s := s.onDie d (fun x => { x with batches := x.batches ++ [b] })
    drainHeld d owner id (s.dies[d].held.filter (fun h => h.owner == owner && h.id == id)) s

/-- An OBCLOSE reaches its die, with the floors of the job's (R217, R338). -/
def closeBatch (uid : Nat) (owner : BitVec 16) (c : Cmd) (s : State) : State :=
  let id := c.y.extractLsb' 0 16
  if c.tier ≠ .vat then s.post uid .vq c 7
  else
    let d := vatDie c.pa
    let s := s.sentTo uid d
    match s.dies[d].batches.find? (·.named owner id) with
    | some b =>
      let b := { b with closers := b.closers ++ [(uid, c)] }
      if b.applying then setBatch d b s else applyBatch d b (setBatch d b s)
    | none =>
      let hs := s.dies[d].held.filter (fun h => h.owner == owner && h.id == id)
      let s := s.onDie d (fun x => { x with held := x.held.filter (fun h => !(h.owner == owner && h.id == id)) })
      (hs.foldl (fun s h => unbatch h.req.cmd.id (endReq h.req 7 s)) s).postFrom d uid c 7

/-- Whether a command has reached its die already. -/
def hasArrived (s : State) (uid : Nat) (c : Cmd) : Bool :=
  let mine := fun (r : Req) => r.uid == uid && r.cmd.id == c.id
  s.dies.toList.any (fun d => d.held.any (fun h => mine h.req) ||
    d.batches.any (fun b => b.members.any mine || (b.openUid == uid && b.openCmd.id == c.id) ||
      b.closers.any (fun x => x.1 == uid && x.2.id == c.id)))

/-- Whether the first member of a batch that is being applied may be applied: its command is not parked (R363). -/
def mayContinue (s : State) (b : Batch) : Bool :=
  match b.members with
  | [] => true
  | r :: _ => !((s.jobOf? r.uid).any (fun j => j.vqQ.any (fun c => c.id == r.cmd.id && c.parked)))

/-- Batches whose parked member has resumed, or whose last members were stopped, go on. -/
def continueBatches (s : State) : State :=
  [(0 : Fin 4), 1, 2, 3].foldl (fun s d =>
    (s.dies[d].batches.filter (·.applying)).foldl (fun s b => if mayContinue s b then continueBatch d b s else s) s) s

/-- The n-th command of the Vat operation queue that may reach its die: commands of one party arrive in the order of
acceptance (R207). -/
def arrivable (s : State) (n : Nat) : Option Cmd :=
  match s.job.vqQ[n]? with
  | some c =>
    if c.parked || hasArrived s s.job.uid c ||
        (s.job.vqQ.take n).any (fun x => x.cc == c.cc && !hasArrived s s.job.uid x) then none
    else some c
  | none => none

/-- ORDERED_REQUEST_ARRIVAL: the n-th command of the Vat operation queue of the job in focus reaches its die (R213, R214,
R217). -/
def execOrderedRequestArrival (n : Nat) (s : State) : Out :=
  let s := continueBatches s
  match arrivable s n with
  | none => .next s
  | some c =>
    let uid := s.job.uid
    let owner := s.job.owner
    match c.instr with
    | .obopen _ _ _ _ id => .next (openBatch uid owner id c s)
    | .obclose .. => .next (closeBatch uid owner c s)
    | _ =>
      match if c.cut && peerCmd s c then .error (.post 3) else arrive uid owner c s with
      | .ok s => .next s
      | .error (.post st) => .next (unbatch c.id (endReq ⟨uid, owner, c, c.key, 0, 0⟩ st s))
      | .error (.trap t) => .next (takeThreadTrap uid .vq c t s)
      | .error (.stall _) => .next s
      | .error (.fault f) => .fault f

end Sys2Proof.Machine
end

