-- ==== Sys2Proof/Machine/Flags.lean ====
section
/-!
DEFINITION. Machine/Flags.lean: where flags are kept: the sticky flags of a stream's FPCTL (spec/02_numbers.md R30, R31,
R34) and of an accumulator's status word (spec/06_streams_and_words.md R139).
-/
namespace Sys2Proof.Machine

/-- FPCTL with sticky flags raised: V O S I are bits [31:28] (R30, R34). -/
def fpctlRaise (w : Word) (f : FFlags) : Word := w ||| (f.bits.setWidth 64 <<< 28)

/-- Raise flags in the FPCTL of the stream in focus (R31). -/
def State.raise (s : State) (f : FFlags) : State := s.onSt (fun t => { t with fpctl := fpctlRaise t.fpctl f })

/-- A status word with sticky flags raised: V O S I are bits [35:32] (R139). -/
def statusRaise (w : Word) (f : FFlags) : Word := w ||| (f.bits.setWidth 64 <<< 32)

/-- Add to the SKIP count of a status word, modulo 2^24 (R139). -/
def statusSkip (w : Word) (n : Nat) : Word := setBits w 40 24 (bits w 40 24 + n)

/-- The flags that a CSRW to FPCTL leaves: each 1 bit written clears its flag (R5, R30). RM is kept for codes 5 to 7. -/
def fpctlWrite (old v : Word) : Word :=
  let flags := bits old 28 4 - (bits old 28 4 &&& bits v 28 4)
  let rm := if bits v 16 3 ≤ 4 then bits v 16 3 else bits old 16 3
  word (flags * 2 ^ 28 + rm * 2 ^ 16 + bits v 8 6 * 2 ^ 8 + bits v 0 6)

end Sys2Proof.Machine
end

