-- ==== Sys2Proof/Machine/Operands.lean ====
section
/-!
DEFINITION. Machine/Operands.lean: operand forms: vector and predicate registers, rotation and live depth
(spec/06_streams_and_words.md R130 to R138), lanes (R132, spec/12_vector.md R265, R270), and the queues (R127 to R129).
-/
namespace Sys2Proof.Machine

/-! ## Rotation (R134 to R136) -/

/-- The number of rotating slots S (R134). -/
def rotSize (size : BitVec 2) : Nat :=
  match size with
  | 1 => 8
  | 2 => 16
  | _ => 0

/-- The number of rotating slots of a job. -/
def Job.rot (j : Job) : Nat := rotSize j.rsize

/-- Whether a register rotates, and its distance (R135). -/
def Job.distance (j : Job) (v : VReg) : Option Nat :=
  if 16 ≤ v.toNat ∧ v.toNat - 16 < j.rot then some (v.toNat - 16) else none

/-- The index in the file of the register that a name reaches: v0 to v15 are 0 to 15 and slot p is 16 + p (R135). -/
def Job.physical (j : Job) (v : VReg) : Fin 32 :=
  match j.distance v with
  | some d => ⟨(16 + (d + j.rbase.toNat) % j.rot) % 32, Nat.mod_lt _ (by decide)⟩
  | none => ⟨v.toNat, v.isLt⟩

/-- Whether a read of the register gives zeros: it rotates, and it stands at distance D or more or its slot is dead (R136). -/
def Job.isDead (j : Job) (v : VReg) : Bool :=
  match j.distance v with
  | some d => decide (j.rlive.toNat ≤ d) || !j.slotLive.getLsbD ((d + j.rbase.toNat) % j.rot)
  | none => false

/-- The value of a vector register (R136). -/
def Job.vreg (j : Job) (v : VReg) : VecReg := if j.isDead v then 0 else j.vregs[j.physical v]

/-- Count one dead read (R136). -/
def Job.deadRead (j : Job) : Job := { j with deadrd := setBits j.deadrd 0 32 (bits j.deadrd 0 32 + 1) }
/-- Count one dead write (R136). -/
def Job.deadWrite (j : Job) : Job := { j with deadrd := setBits j.deadrd 32 32 (bits j.deadrd 32 32 + 1) }

/-- Count the read of a register that an instruction names. -/
def Job.countRead (j : Job) (v : VReg) : Job := if j.isDead v then j.deadRead else j

/-- Write a vector register: a rotating one at distance D or more is discarded, another is stored and live (R136). -/
def Job.setVreg (j : Job) (v : VReg) (x : VecReg) : Job :=
  match j.distance v with
  | some d =>
    if j.rlive.toNat ≤ d then j.deadWrite
    else
      { j with
        vregs := j.vregs.set (j.physical v) x
        slotLive := putBit j.slotLive ((d + j.rbase.toNat) % j.rot) true }
  | none => { j with vregs := j.vregs.set (j.physical v) x }

/-- Read a vector register of the job in focus. -/
def State.vreg (s : State) (v : VReg) : VecReg := s.job.vreg v
/-- Count the reads of the registers that an instruction names, each once (R136). -/
def State.countReads (s : State) (vs : List VReg) : State := s.onJob (fun j => vs.eraseDups.foldl Job.countRead j)
/-- Write a vector register of the job in focus. -/
def State.setVreg (s : State) (v : VReg) (x : VecReg) : State := s.onJob (·.setVreg v x)

/-- Read a predicate register; k0 is all ones (R130). -/
def Job.pred (j : Job) (k : KReg) : PredReg := if k = 0 then BitVec.allOnes 512 else j.pregs[k.toNat]'k.isLt
/-- Write a predicate register; a write to k0 is discarded (R132). -/
def Job.setPred (j : Job) (k : KReg) (x : PredReg) : Job :=
  if k = 0 then j else { j with pregs := j.pregs.set k.toNat x k.isLt }
/-- Read a predicate register of the job in focus. -/
def State.pred (s : State) (k : KReg) : PredReg := s.job.pred k
/-- Write a predicate register of the job in focus. -/
def State.setPred (s : State) (k : KReg) (x : PredReg) : State := s.onJob (·.setPred k x)

/-! ## Lanes (R132, R265) -/

/-- The lane count of a width. -/
def laneCount (w : Nat) : Nat := 4096 / w

/-- Lane m of a register of w-bit lanes: bits [w(m + 1) − 1 : wm] (R132). -/
def lane (w : Nat) (x : VecReg) (m : Nat) : Nat := x.toNat / 2 ^ (w * m) % 2 ^ w

/-- The number whose w-bit digits are given, lane 0 lowest. -/
def packNat (w : Nat) : List Nat → Nat
  | [] => 0
  | x :: xs => x % 2 ^ w + 2 ^ w * packNat w xs

/-- The lane width that VTYPE sets (R265). -/
def Job.laneWidth (j : Job) : Nat := fmtWidth j.et

/-- The register whose lane m of w bits is f m. -/
def fromLanes (w : Nat) (f : Nat → Nat) : VecReg := BitVec.ofNat 4096 (packNat w ((List.range (laneCount w)).map f))

/-- The predicate register whose bit m is f m. -/
def fromBits (f : Nat → Bool) : PredReg :=
  BitVec.ofNat 512 (packNat 1 ((List.range 512).map (fun m => if f m then 1 else 0)))

/-- Whether lane m is active under a predicate (R270). -/
def active (k : PredReg) (m : Nat) : Bool := k.getLsbD m

/-- The register whose active lanes are f m and whose other lanes keep their old value (R270). -/
def mergeLanes (w : Nat) (k : PredReg) (old : VecReg) (f : Nat → Nat) : VecReg :=
  fromLanes w (fun m => if active k m then f m else lane w old m)

/-- The bytes of a register, byte 0 first. -/
def vecBytes (x : VecReg) : List Byte := leBytes 512 x.toNat
/-- The register of 512 bytes. -/
def vecOfBytes (bs : List Byte) : VecReg := BitVec.ofNat 4096 (leNat bs)

/-! ## Queues (R127 to R129) -/

/-- The entries that a queue holds (R127). -/
def queueDepth (q : QNum) : Nat := if q.getLsbD 2 then 16 else 4

/-- A queue of a job. -/
def Job.queue (j : Job) (q : QNum) : Queue := j.queues[q.toNat]'q.isLt
/-- Replace the entries of a queue. -/
def Job.setQueue (j : Job) (q : QNum) (es : List QEntry) : Job :=
  { j with queues := j.queues.set q.toNat { j.queue q with entries := es } q.isLt }

/-- Whether a stream is the producer of a queue (R128). -/
def Job.produces (j : Job) (q : QNum) (x : StreamId) : Bool :=
  match (j.queue q).bound with
  | some (p, _) => p == x
  | none => false
/-- Whether a stream is the consumer of a queue (R128). -/
def Job.consumes (j : Job) (q : QNum) (x : StreamId) : Bool :=
  match (j.queue q).bound with
  | some (_, c) => c == x
  | none => false

/-- Stream x of a job appends an entry, with the commits that it passes on (R128, R347). -/
def Job.enqueue (j : Job) (x : StreamId) (q : QNum) (e : QEntry) : Job :=
  { j.setQueue q ((j.queue q).entries ++ [e]) with flow := j.flow.pushes x q.toFin }

/-- Stream x of a job takes the head entry, with the commits that it passes on (R128, R347). -/
def Job.dequeue (j : Job) (x : StreamId) (q : QNum) : Job :=
  { j.setQueue q (j.queue q).entries.tail with flow := j.flow.pops x q.toFin }

/-- Push an entry; a full queue stalls (R128). -/
def State.push (s : State) (q : QNum) (e : QEntry) : Res State :=
  if queueDepth q ≤ (s.job.queue q).entries.length then .error (.stall .queue) else .ok (s.onJob (·.enqueue s.cur q e))

/-- Pop the head entry; an empty queue, or a head that is reserved and not filled, stalls (R128, R129). -/
def State.pop (s : State) (q : QNum) : Res (VecReg × State) :=
  match (s.job.queue q).entries with
  | e :: _ => if e.ready then .ok (e.data, s.onJob (·.dequeue s.cur q)) else .error (.stall .queue)
  | [] => .error (.stall .queue)

/-- The stream is the producer of the queue, or ILLEGAL_STREAM (R128). -/
def State.needProducer (s : State) (q : QNum) : Res Unit := ensure (s.job.produces q s.cur) illegalStream
/-- The stream is the consumer of the queue, or ILLEGAL_STREAM (R128). -/
def State.needConsumer (s : State) (q : QNum) : Res Unit := ensure (s.job.consumes q s.cur) illegalStream

end Sys2Proof.Machine
end

