-- ==== Sys2Proof/Machine/Control.lean ====
section
/-!
DEFINITION. Machine/Control.lean: branches, jumps and counted loops (spec/08_scalar_and_control.md R171 to R179,
spec/06_streams_and_words.md R135, R137), and the queue and spill instructions (R180 to R187).
-/
namespace Sys2Proof.Machine

/-- The pc of an instruction moved by a signed word offset; `pc` has passed the instruction's one word (R171). -/
def target {n : Nat} (pc : VA) (off : BitVec n) : VA := pc - 4 + off.signExtend 57 * 4

/-- Set the pc of the stream in focus. -/
def State.setPc (s : State) (pc : VA) : State := s.onSt (fun t => { t with pc := pc })

/-- Go to a word offset from the instruction when taken (R171). -/
def State.jumpIf {n : Nat} (s : State) (taken : Bool) (off : BitVec n) : State :=
  if taken then s.setPc (target s.st.pc off) else s

/-- A conditional branch (R171). -/
def branch (w : Wheel) (a b : SReg) (off : BitVec 14) (c : Word → Word → Bool) (s : State) : Out :=
  issue w 1 anyStream (regBit a ||| regBit b) (fun s => .ok (s.jumpIf (c (s.reg a) (s.reg b)) off)) s

/-- BEQ. -/
def execBeq (w : Wheel) (a b : SReg) (off : BitVec 14) (s : State) : Out := branch w a b off (· == ·) s
/-- BNE. -/
def execBne (w : Wheel) (a b : SReg) (off : BitVec 14) (s : State) : Out := branch w a b off (· != ·) s
/-- BLT. -/
def execBlt (w : Wheel) (a b : SReg) (off : BitVec 14) (s : State) : Out := branch w a b off (fun x y => x.slt y) s
/-- BGE. -/
def execBge (w : Wheel) (a b : SReg) (off : BitVec 14) (s : State) : Out := branch w a b off (fun x y => !x.slt y) s
/-- BLTN. -/
def execBltn (w : Wheel) (a b : SReg) (off : BitVec 14) (s : State) : Out := branch w a b off (fun x y => x.ult y) s
/-- BGEN. -/
def execBgen (w : Wheel) (a b : SReg) (off : BitVec 14) (s : State) : Out := branch w a b off (fun x y => !x.ult y) s

/-- JMP (R172). -/
def execJmp (w : Wheel) (off : BitVec 22) (s : State) : Out :=
  issue w 1 anyStream 0 (fun s => .ok (s.jumpIf true off)) s

/-- JAL: s15 receives the address after the instruction (R172). -/
def execJal (w : Wheel) (off : BitVec 22) (s : State) : Out :=
  issue w 1 anyStream (regBit 15) (fun s => .ok ((s.setReg 15 (s.st.pc.setWidth 64)).setPc (target s.st.pc off))) s

/-- JR: a misaligned target is MISALIGN (R173). Its fault entry carries ACCESS 2, a fetch; R173 and R365 do not say which of
the four values a target that is not fetched from has (DEDUCED, log 39). -/
def execJr (w : Wheel) (a : SReg) (s : State) : Out :=
  issue w 1 anyStream (regBit a) (fun s =>
    let x := s.reg a
    if x.extractLsb' 0 2 ≠ 0 then .error (misalign 2 (word (vaOf x))) else .ok (s.setPc (x.setWidth 57))) s

/-! ## Counted loops -/

/-- Whether a loop instruction of stream x moves the rotation state (R135, R137): in V with SIZE ≠ 0. -/
def Job.rotates (j : Job) (x : StreamId) : Bool := x == .V && j.rsize != 0

/-- k4 to k7 as LOOP sets them (R177). -/
def Job.startStages (j : Job) : Job :=
  (((j.setPred 4 (BitVec.allOnes 512)).setPred 5 0).setPred 6 0).setPred 7 0

/-- The stage predicates move up, and k4 is set by the kernel (R137). -/
def Job.shiftStages (j : Job) (kernel : Bool) : Job :=
  (((j.setPred 7 (j.pred 6)).setPred 6 (j.pred 5)).setPred 5 (j.pred 4)).setPred 4
    (if kernel then BitVec.allOnes 512 else 0)

/-- The base moves down by one, and every slot whose new distance is D or more is marked dead (R135). -/
def Job.rotate (j : Job) : Job :=
  let n := j.rot
  let base := (j.rbase.toNat + n - 1) % n
  let keep := fun p => decide ((p + n - base) % n < j.rlive.toNat)
  { j with
    rbase := BitVec.ofNat 4 base
    slotLive := BitVec.ofNat 16 (packNat 1 ((List.range 16).map (fun p =>
      if j.slotLive.getLsbD p && (decide (n ≤ p) || keep p) then 1 else 0))) }

/-- LOOP (R177). -/
def execLoop (w : Wheel) (a : SReg) (off : BitVec 14) (s : State) : Out :=
  issue w 1 anyStream (regBit a) (fun s =>
    let x := s.reg a
    if bits x 0 32 = 0 then .ok (s.jumpIf true off)
    else
      let s := s.onSt (fun t => { t with kern := x.extractLsb' 0 32, epi := x.extractLsb' 32 6 })
      .ok (if s.job.rotates s.cur then s.onJob Job.startStages else s)) s

/-- ENDL (R178): `more` and `ins` follow the counts that it sets, as the passes in the table after R179 show. -/
def execEndl (w : Wheel) (off : BitVec 14) (s : State) : Out :=
  issue w 1 anyStream 0 (fun s =>
    let s := s.onSt (fun t =>
      if t.kern ≠ 0 then { t with kern := t.kern - 1 } else if t.epi ≠ 0 then { t with epi := t.epi - 1 } else t)
    let more := s.st.kern != 0 || s.st.epi != 0
    let kernel := s.st.kern != 0
    let s := if s.job.rotates s.cur then s.onJob (fun j => j.rotate.shiftStages kernel) else s
    .ok (s.jumpIf more off)) s

/-! ## Scalar queues (R180, R183) -/

/-- SPUSH. -/
def execSpush (w : Wheel) (q : QNum) (a : SReg) (s : State) : Out :=
  issue w 1 anyStream (regBit a) (fun s =>
    (s.needProducer q).bind fun _ => s.push q ⟨(s.reg a).setWidth 4096, true⟩) s

/-- SPOP. -/
def execSpop (w : Wheel) (d : SReg) (q : QNum) (s : State) : Out :=
  issue w 1 anyStream (regBit d) (fun s =>
    (s.needConsumer q).bind fun _ => (s.pop q).bind fun (x, s) => .ok (s.setReg d (x.setWidth 64))) s

/-- QCNT: the entries pushed and not yet popped, reserved slots included. -/
def execQcnt (w : Wheel) (d : SReg) (q : QNum) (s : State) : Out :=
  issue w 1 anyStream (regBit d) (fun s =>
    (ensure (s.job.produces q s.cur || s.job.consumes q s.cur) illegalStream).bind fun _ =>
      .ok (s.setReg d (word (s.job.queue q).entries.length))) s

/-- Pop the head entry and branch on whether it is 0 (R183). -/
def queueBranch (w : Wheel) (q : QNum) (off : BitVec 14) (onZero : Bool) (s : State) : Out :=
  issue w 1 anyStream 0 (fun s =>
    (s.needConsumer q).bind fun _ => (s.pop q).bind fun (x, s) =>
      .ok (s.jumpIf ((x.setWidth 64 == (0 : Word)) == onZero) off)) s

/-- BQZ. -/
def execBqz (w : Wheel) (q : QNum) (off : BitVec 14) (s : State) : Out := queueBranch w q off true s
/-- BQNZ. -/
def execBqnz (w : Wheel) (q : QNum) (off : BitVec 14) (s : State) : Out := queueBranch w q off false s

/-! ## Vector queues (R182) -/

/-- VPUSH: inactive lanes are zero in the entry. -/
def execVpush (w : Wheel) (v : VReg) (q : QNum) (k : KReg) (s : State) : Out :=
  issue w 1 onlyV 0 (fun s =>
    (s.needProducer q).bind fun _ =>
      let wd := s.job.laneWidth
      let x := mergeLanes wd (s.pred k) 0 (lane wd (s.vreg v))
      (s.countReads [v]).push q ⟨x, true⟩) s

/-- VPOP: inactive lanes of v keep their value (R182). Those of a dead slot keep the zeros that it reads as (R136), not the
bytes that lie under it (R134): DESIGN CHOICE, log 62. -/
def execVpop (w : Wheel) (v : VReg) (q : QNum) (k : KReg) (s : State) : Out :=
  issue w 1 onlyV 0 (fun s =>
    (s.needConsumer q).bind fun _ => (s.pop q).bind fun (x, s) =>
      let wd := s.job.laneWidth
      .ok (s.setVreg v (mergeLanes wd (s.pred k) (s.vreg v) (lane wd x)))) s

/-! ## Spill memory (R186, R187) -/

/-- SSPILL. -/
def execSspill (w : Wheel) (r : SReg) (slot : BitVec 6) (s : State) : Out :=
  issue w 1 anyStream (regBit r) (fun s =>
    .ok (s.onSt (fun t => { t with spill := t.spill.set slot.toNat (t.reg r) slot.isLt }))) s

/-- SFILL. -/
def execSfill (w : Wheel) (d : SReg) (slot : BitVec 6) (s : State) : Out :=
  issue w 1 anyStream (regBit d) (fun s => .ok (s.setReg d (s.st.spill[slot.toNat]'slot.isLt))) s

/-- VSPILL. -/
def execVspill (w : Wheel) (v : VReg) (slot : BitVec 5) (s : State) : Out :=
  issue w 1 onlyV 0 (fun s =>
    let x := s.vreg v
    .ok ((s.countReads [v]).onJob (fun j => { j with vspill := j.vspill.set slot.toNat x slot.isLt }))) s

/-- VFILL. -/
def execVfill (w : Wheel) (v : VReg) (slot : BitVec 5) (s : State) : Out :=
  issue w 1 onlyV 0 (fun s => .ok (s.setVreg v (s.job.vspill[slot.toNat]'slot.isLt))) s

end Sys2Proof.Machine
end

