-- ==== Sys2Proof/Machine/Special.lean ====
section
/-!
DEFINITION. Machine/Special.lean: the special functions of spec/12_vector.md R273, each rounded once from its exact value.
Where the exact value is rational it is computed; elsewhere it is enclosed between two rationals, and where the two round to
different results the value is left open (log 10).
-/
namespace Sys2Proof.Machine

/-- The special functions (R273). -/
inductive SpecialFn where
  | sqrt | rsq | rcp | exp2 | log2 | tanh | sigm
  deriving DecidableEq, Repr

/-- The function code of R273. -/
def SpecialFn.code : SpecialFn → Nat
  | .sqrt => 0 | .rsq => 1 | .rcp => 2 | .exp2 => 3 | .log2 => 4 | .tanh => 5 | .sigm => 6

/-- What is known of a function's value: exact with its flags, or strictly between two values of one sign. -/
inductive Enclosure where
  | exact (v : Val) (f : FFlags)
  | within (lo hi : Val)
  deriving DecidableEq, Repr

/-! ## Integer arithmetic -/

/-- The bits of a square root from bit b − 1 down. -/
def isqrtBits : Nat → Nat → Nat → Nat
  | 0, _, r => r
  | b + 1, n, r => if (r + 2 ^ b) * (r + 2 ^ b) ≤ n then isqrtBits b n (r + 2 ^ b) else isqrtBits b n r

/-- ⌊√n⌋. -/
def isqrt (n : Nat) : Nat := isqrtBits (n.log2 / 2 + 1) n 0

/-- The bits after the point of the fixed-point numbers below. -/
def fixBits : Nat := 640
/-- 1 in fixed point. -/
def fixOne : Nat := 2 ^ fixBits
/-- A bound on the error of every fixed-point result below, in units of the last place: each of at most a thousand steps
loses less than one unit, and ln 2 enters at most two thousand times. -/
def fixErr : Nat := 2 ^ 32

/-- atanh of the fraction num / den below 1/2, in fixed point: Σ z^(2k + 1) ÷ (2k + 1) over n terms. -/
def atanhSum (z2 : Nat) : Nat → Nat → Nat → Nat → Nat
  | 0, _, _, acc => acc
  | n + 1, k, t, acc => atanhSum z2 n (k + 1) (t * z2 / fixOne) (acc + t / (2 * k + 1))

/-- atanh (num / den) in fixed point. -/
def fixAtanh (num den : Nat) : Nat :=
  let z := num * fixOne / den
  atanhSum (z * z / fixOne) 330 0 z 0

/-- ln 2 in fixed point: 2 atanh (1/3). -/
def fixLn2 : Nat := 2 * fixAtanh 1 3

/-- Σ y^k ÷ k! over n terms, in fixed point. -/
def expSum (y : Nat) : Nat → Nat → Nat → Nat → Nat
  | 0, _, _, acc => acc
  | n + 1, k, t, acc => expSum y n (k + 1) (t * y / fixOne / k) (acc + t)

/-- e^y in fixed point, for y below 1 in fixed point. -/
def fixExp (y : Nat) : Nat := expSum y 130 1 fixOne 0

/-! ## Enclosures -/

/-- A fixed-point number times 2^e as a value. -/
def fixVal (n : Nat) (e : Int) : Val := .rat false n 1 (e - fixBits)

/-- The sum, product and quotient of exact values. -/
def sumVal (x y : Val) : Val := (addVal .rne x y).1
/-- The quotient. -/
def quotVal (x y : Val) : Val := (divVal x y).1
/-- 1. -/
def oneVal : Val := .rat false 1 1 0
/-- 2^e. -/
def powVal (e : Int) : Val := .rat false 1 1 e

/-- Bounds of e^−y for a positive y = num / den × 2^e below 1024. -/
def expNeg (num den : Nat) (e : Int) : Val × Val :=
  let y := num * 2 ^ (e + fixBits).toNat / (den * 2 ^ (-(e + fixBits)).toNat)
  let k := y / fixLn2
  let x := fixExp (y - k * fixLn2)
  (quotVal (powVal (-k)) (fixVal (x + fixErr) 0), quotVal (powVal (-k)) (fixVal (x - fixErr) 0))

/-- √x of a positive x (R273). -/
def encSqrt (n d : Nat) (e : Int) : Val ⊕ (Val × Val) :=
  let (n, e) := if e % 2 = 0 then (n * d, e) else (2 * n * d, e - 1)
  let p : Nat := 256
  let s := isqrt (n * 2 ^ (2 * p))
  let at_ := fun m => Val.rat false m d (e / 2 - p)
  if s * s = n * 2 ^ (2 * p) then .inl (at_ s) else .inr (at_ s, at_ (s + 1))

/-- 2^x of a finite x (R273): outside ±1000 every value rounds alike. -/
def encExp2 (neg : Bool) (n d : Nat) (e : Int) : Enclosure :=
  if ratLog2 n d + e ≥ 10 then .within (powVal (if neg then -1001 else 1001)) (powVal (if neg then -1000 else 1002))
  else
    let (k, r, dd) := onGrid n d e 0
    if r = 0 then .exact (powVal (if neg then -(k : Int) else k)) .none
    else
      let (i, r) := if neg then (-(k : Int) - 1, dd - r) else ((k : Int), r)
      let x := fixExp (r * fixLn2 / dd)
      .within (fixVal (x - fixErr) i) (fixVal (x + fixErr) i)

/-- log₂ x of a positive x (R273). -/
def encLog2 (n d : Nat) (e : Int) : Enclosure :=
  let l := ratLog2 n d
  let (m, dd) := (n * 2 ^ (-l).toNat, d * 2 ^ l.toNat)
  let i := l + e
  let iv : Val := .rat (decide (i < 0)) i.natAbs 1 0
  if m = dd then .exact (if i = 0 then .rat false 0 1 0 else iv) .none
  else
    let a := 2 * fixAtanh (m - dd) (m + dd)
    .within (sumVal iv (quotVal (fixVal (a - fixErr) 0) (fixVal (fixLn2 + fixErr) 0)))
      (sumVal iv (quotVal (fixVal (a + fixErr) 0) (fixVal (fixLn2 - fixErr) 0)))

/-- tanh x of a positive x (R273): near 0 by x − x³/3 and x − x³/3 + 2x⁵/15, far out by 1 − 2^−200, beyond which every value
below 1 rounds alike. -/
def encTanh (n d : Nat) (e : Int) : Val × Val :=
  let x : Val := .rat false n d e
  let l := ratLog2 n d + e
  if l < -32 then
    let x3 := (mulVal x (mulVal x x).1).1
    let lo := sumVal x (negVal (quotVal x3 (.rat false 3 1 0)))
    (lo, sumVal lo (quotVal (mulVal (.rat false 2 1 0) (mulVal x3 (mulVal x x).1).1).1 (.rat false 15 1 0)))
  else if l ≥ 7 then
    (sumVal oneVal (negVal (powVal (-200))), sumVal oneVal (negVal (powVal (-201))))
  else
    let (ul, uh) := expNeg n d (e + 1)
    let f := fun u => quotVal (sumVal oneVal (negVal u)) (sumVal oneVal u)
    (f uh, f ul)

/-- 1 ÷ (1 + e^−x) of a finite non-zero x (R273): beyond ±512 every value rounds alike. -/
def encSigm (neg : Bool) (n d : Nat) (e : Int) : Val × Val :=
  if ratLog2 n d + e ≥ 9 then
    if neg then (powVal (-401), powVal (-400))
    else (sumVal oneVal (negVal (powVal (-200))), sumVal oneVal (negVal (powVal (-201))))
  else
    let (ul, uh) := expNeg n d e
    if neg then (quotVal ul (sumVal oneVal ul), quotVal uh (sumVal oneVal uh))
    else (quotVal oneVal (sumVal oneVal uh), quotVal oneVal (sumVal oneVal ul))

/-- A quiet NaN, with V where it is invalid. -/
def nanExact (v : Bool) : Enclosure := .exact (.nan false) (.invalid v)
/-- An infinity with O: a pole (R273). -/
def poleExact (neg : Bool) : Enclosure := .exact (.inf neg) ⟨false, true, false, false⟩

/-- The value of a special function (R273). -/
def special (f : SpecialFn) (x : Val) : Enclosure :=
  match f, x with
  | _, .nan sig => nanExact sig
  | .sqrt, .inf neg => if neg then nanExact true else .exact (.inf false) .none
  | .sqrt, .rat neg n d e =>
    if n = 0 then .exact x .none
    else if neg then nanExact true
    else match encSqrt n d e with | .inl v => .exact v .none | .inr b => .within b.1 b.2
  | .rsq, .inf neg => if neg then nanExact true else .exact (.rat false 0 1 0) .none
  | .rsq, .rat neg n d e =>
    if n = 0 then poleExact neg
    else if neg then nanExact true
    else
      match encSqrt n d e with
      | .inl v => .exact (quotVal oneVal v) .none
      | .inr b => .within (quotVal oneVal b.2) (quotVal oneVal b.1)
  | .rcp, x => let r := divVal oneVal x; .exact r.1 r.2
  | .exp2, .inf neg => .exact (if neg then .rat false 0 1 0 else .inf false) .none
  | .exp2, .rat neg n d e => if n = 0 then .exact oneVal .none else encExp2 neg n d e
  | .log2, .inf neg => if neg then nanExact true else .exact (.inf false) .none
  | .log2, .rat neg n d e =>
    if n = 0 then poleExact true else if neg then nanExact true else encLog2 n d e
  | .tanh, .inf neg => .exact (.rat neg 1 1 0) .none
  | .tanh, .rat neg n d e =>
    if n = 0 then .exact x .none
    else
      let b := encTanh n d e
      if neg then .within (negVal b.2) (negVal b.1) else .within b.1 b.2
  | .sigm, .inf neg => .exact (.rat false (if neg then 0 else 1) 1 0) .none
  | .sigm, .rat neg n d e =>
    if n = 0 then .exact (powVal (-1)) .none
    else
      let b := encSigm neg n d e
      .within b.1 b.2

/-- A special function of an operand pattern, rounded once; open where the enclosure does not decide (log 10). -/
def specialLane (f : SpecialFn) (fmt : Fmt) (c : RCtx) (fpctl : Word) (b : Nat) : Nat × FFlags :=
  match special f (readOperand fpctl fmt b) with
  | .exact v g => finish fmt c (v, g)
  | .within lo hi =>
    let x := roundTo fmt c lo
    let y := roundTo fmt c hi
    if x = y then x else (Config.specialBits f.code fmt.code b, ⟨false, false, false, true⟩)

end Sys2Proof.Machine
end

