-- ==== Sys2Proof/Machine/Vector.lean ====
section
/-!
DEFINITION. Machine/Vector.lean: lane arithmetic, special functions, compares, integer lanes, reductions, predicates, permutes
and VCFG (spec/12_vector.md R264 to R278, spec/02_numbers.md R40 and R41).
-/
namespace Sys2Proof.Machine

/-! ## Rules common to every vector instruction (R268 to R271) -/

/-- The element types of floating-point lane arithmetic (R269). -/
def floatEt (f : Fmt) : Bool := isFloat f && f != .e2m1

/-- The element types of integer lane arithmetic (R269). -/
def intEt (f : Fmt) : Bool := !isFloat f && etOk f

/-- Any element type. -/
def anyEt : Fmt → Bool := fun _ => true

/-- Issue an instruction of the vector unit: V stream, and an accepted element type (R268, R269). -/
def vectorOp (w : Wheel) (ok : Fmt → Bool) (uses : BitVec 16) (body : State → State) (s : State) : Out :=
  issue w 1 onlyV uses (fun s => if ok s.job.et then .ok (body s) else .error illegalEncoding) s

/-- Write the active lanes of vd, and raise their flags (R270, R271); `reads` are the registers that the instruction reads. -/
def State.writeLanes (s : State) (wd : Nat) (k : KReg) (d : VReg) (reads : List VReg) (f : Nat → Nat × FFlags) : State :=
  let p := s.pred k
  let old := s.vreg d
  let rs := (List.range (laneCount wd)).map (fun m => if active p m then f m else (lane wd old m, FFlags.none))
  let x : VecReg := BitVec.ofNat 4096 (packNat wd (rs.map (·.1)))
  ((s.countReads reads).setVreg d x).raise (rs.foldl (fun a r => a.or r.2) .none)

/-- Write the active lanes of vd without flags. -/
def State.moveLanes (s : State) (wd : Nat) (k : KReg) (d : VReg) (reads : List VReg) (f : Nat → Nat) : State :=
  (s.countReads reads).setVreg d (mergeLanes wd (s.pred k) (s.vreg d) f)

/-- The rounding context of lane m (R271). -/
def State.laneCtx (s : State) (m : Option RMode) (dst : Fmt) (n : Nat) : RCtx :=
  rctx s.st.fpctl s.job.seed m dst (lanePos n)

/-- Lane m of a register as an operand (R271). -/
def State.operand (s : State) (x : VecReg) (m : Nat) : Val := readOperand s.st.fpctl s.job.et (lane s.job.laneWidth x m)

/-! ## Floating-point arithmetic (R272) -/

/-- An instruction of one operand. -/
def unaryFloat (w : Wheel) (d a : VReg) (k : KReg) (f : Val → Val × FFlags) (s : State) : Out :=
  vectorOp w floatEt 0 (fun s =>
    let va := s.vreg a
    s.writeLanes s.job.laneWidth k d [a] (fun m => finish s.job.et (s.laneCtx none s.job.et m) (f (s.operand va m)))) s

/-- An instruction of two operands. -/
def binaryFloat (w : Wheel) (d a b : VReg) (k : KReg) (f : RMode → Val → Val → Val × FFlags) (s : State) : Out :=
  vectorOp w floatEt 0 (fun s =>
    let va := s.vreg a
    let vb := s.vreg b
    s.writeLanes s.job.laneWidth k d [a, b] (fun m =>
      finish s.job.et (s.laneCtx none s.job.et m) (f (fpRm s.st.fpctl) (s.operand va m) (s.operand vb m)))) s

/-- An instruction of three operands. -/
def ternaryFloat (w : Wheel) (d a b : VReg) (k : KReg) (f : RMode → Val → Val → Val → Val × FFlags) (s : State) : Out :=
  vectorOp w floatEt 0 (fun s =>
    let va := s.vreg a
    let vb := s.vreg b
    let vd := s.vreg d
    s.writeLanes s.job.laneWidth k d [a, b, d] (fun m =>
      finish s.job.et (s.laneCtx none s.job.et m)
        (f (fpRm s.st.fpctl) (s.operand va m) (s.operand vb m) (s.operand vd m)))) s

/-- A value that a sign change makes, with V for a signalling NaN (R271). -/
def signChange (f : Val → Val) (x : Val) : Val × FFlags := (f x, .invalid (isSig x))

/-- VADD. -/
def execVadd (w : Wheel) (d a b : VReg) (k : KReg) (s : State) : Out := binaryFloat w d a b k addVal s
/-- VSUB. -/
def execVsub (w : Wheel) (d a b : VReg) (k : KReg) (s : State) : Out :=
  binaryFloat w d a b k (fun m x y => addVal m x (negVal y)) s
/-- VMUL. -/
def execVmul (w : Wheel) (d a b : VReg) (k : KReg) (s : State) : Out := binaryFloat w d a b k (fun _ => mulVal) s
/-- VFMA. -/
def execVfma (w : Wheel) (d a b : VReg) (k : KReg) (s : State) : Out := ternaryFloat w d a b k fmaVal s
/-- VFMS. -/
def execVfms (w : Wheel) (d a b : VReg) (k : KReg) (s : State) : Out :=
  ternaryFloat w d a b k (fun m x y z => fmaVal m x y (negVal z)) s
/-- VFNMA. -/
def execVfnma (w : Wheel) (d a b : VReg) (k : KReg) (s : State) : Out :=
  ternaryFloat w d a b k (fun m x y z => fmaVal m (negVal x) y z) s
/-- VMIN. -/
def execVmin (w : Wheel) (d a b : VReg) (k : KReg) (s : State) : Out := binaryFloat w d a b k (fun _ => minVal) s
/-- VMAX. -/
def execVmax (w : Wheel) (d a b : VReg) (k : KReg) (s : State) : Out := binaryFloat w d a b k (fun _ => maxVal) s
/-- VABS. -/
def execVabs (w : Wheel) (d a : VReg) (k : KReg) (s : State) : Out := unaryFloat w d a k (signChange absVal) s
/-- VNEG. -/
def execVneg (w : Wheel) (d a : VReg) (k : KReg) (s : State) : Out := unaryFloat w d a k (signChange negVal) s
/-- VDIV. -/
def execVdiv (w : Wheel) (d a b : VReg) (k : KReg) (s : State) : Out := binaryFloat w d a b k (fun _ => divVal) s

/-! ## Special functions (R273) -/

/-- A special function of the active lanes. -/
def specialOp (f : SpecialFn) (w : Wheel) (d a : VReg) (k : KReg) (s : State) : Out :=
  vectorOp w floatEt 0 (fun s =>
    let va := s.vreg a
    s.writeLanes s.job.laneWidth k d [a] (fun m =>
      specialLane f s.job.et (s.laneCtx none s.job.et m) s.st.fpctl (lane s.job.laneWidth va m))) s

/-- VSQRT. -/
def execVsqrt (w : Wheel) (d a : VReg) (k : KReg) (s : State) : Out := specialOp .sqrt w d a k s
/-- VRSQ. -/
def execVrsq (w : Wheel) (d a : VReg) (k : KReg) (s : State) : Out := specialOp .rsq w d a k s
/-- VRCP. -/
def execVrcp (w : Wheel) (d a : VReg) (k : KReg) (s : State) : Out := specialOp .rcp w d a k s
/-- VEXP2. -/
def execVexp2 (w : Wheel) (d a : VReg) (k : KReg) (s : State) : Out := specialOp .exp2 w d a k s
/-- VLOG2. -/
def execVlog2 (w : Wheel) (d a : VReg) (k : KReg) (s : State) : Out := specialOp .log2 w d a k s
/-- VTANH. -/
def execVtanh (w : Wheel) (d a : VReg) (k : KReg) (s : State) : Out := specialOp .tanh w d a k s
/-- VSIGM. -/
def execVsigm (w : Wheel) (d a : VReg) (k : KReg) (s : State) : Out := specialOp .sigm w d a k s

/-! ## Compares (R274) -/

/-- A compare of two lanes: its bit, and whether V is raised. -/
def compareLane (s : State) (f : Val → Val → Bool) (g : Int → Int → Bool) (va vb : VecReg) (m : Nat) : Bool × Bool :=
  let et := s.job.et
  if isFloat et then
    let x := s.operand va m
    let y := s.operand vb m
    (f x y, isSig x || isSig y)
  else (g (intVal et (lane s.job.laneWidth va m)) (intVal et (lane s.job.laneWidth vb m)), false)

/-- The predicate register whose active bits below n are f m, and whose other bits keep their old value (R270, R277). -/
def mergeBits (n : Nat) (p old : PredReg) (f : Nat → Bool) : PredReg :=
  fromBits (fun m => if m < n && active p m then f m else old.getLsbD m)

/-- A compare (R274): a kd of k0 discards the bits, and V is still raised. -/
def compare (w : Wheel) (d : KReg) (a b : VReg) (k : KReg) (f : Val → Val → Bool) (g : Int → Int → Bool) (s : State) :
    Out :=
  vectorOp w anyEt 0 (fun s =>
    let va := s.vreg a
    let vb := s.vreg b
    let p := s.pred k
    let n := laneCount s.job.laneWidth
    let v := (List.range n).any (fun m => active p m && (compareLane s f g va vb m).2)
    ((s.countReads [a, b]).setPred d (mergeBits n p (s.pred d) (fun m => (compareLane s f g va vb m).1))).raise
      (.invalid v)) s

/-- Whether a value is NaN. -/
def isNaNVal : Val → Bool
  | .nan _ => true
  | _ => false

/-- VCEQ. -/
def execVceq (w : Wheel) (d : KReg) (a b : VReg) (k : KReg) (s : State) : Out := compare w d a b k eqVal (· == ·) s
/-- VCNE. -/
def execVcne (w : Wheel) (d : KReg) (a b : VReg) (k : KReg) (s : State) : Out :=
  compare w d a b k (fun x y => !eqVal x y) (· != ·) s
/-- VCLT. -/
def execVclt (w : Wheel) (d : KReg) (a b : VReg) (k : KReg) (s : State) : Out :=
  compare w d a b k ltVal (fun x y => decide (x < y)) s
/-- VCLE. -/
def execVcle (w : Wheel) (d : KReg) (a b : VReg) (k : KReg) (s : State) : Out :=
  compare w d a b k (fun x y => ltVal x y || eqVal x y) (fun x y => decide (x ≤ y)) s
/-- VCUN. -/
def execVcun (w : Wheel) (d : KReg) (a b : VReg) (k : KReg) (s : State) : Out :=
  compare w d a b k (fun x y => isNaNVal x || isNaNVal y) (fun _ _ => false) s

/-! ## Integer, bitwise and shift lanes (R275) -/

/-- An integer instruction of two lanes of width w: raw patterns in, low w bits out. -/
def integerOp (w : Wheel) (ok : Fmt → Bool) (d a b : VReg) (k : KReg) (f : Fmt → Nat → Nat → Nat → Nat) (s : State) : Out :=
  vectorOp w ok 0 (fun s =>
    let wd := s.job.laneWidth
    let va := s.vreg a
    let vb := s.vreg b
    s.moveLanes wd k d [a, b] (fun m => f s.job.et wd (lane wd va m) (lane wd vb m) % 2 ^ wd)) s

/-- Arithmetic shift right of a w-bit lane. -/
def sraLane (wd x n : Nat) : Nat := intMod wd (toSInt wd x / (2 ^ n : Nat))

/-- VIADD. -/
def execViadd (w : Wheel) (d a b : VReg) (k : KReg) (s : State) : Out :=
  integerOp w intEt d a b k (fun _ _ x y => x + y) s
/-- VISUB. -/
def execVisub (w : Wheel) (d a b : VReg) (k : KReg) (s : State) : Out :=
  integerOp w intEt d a b k (fun _ wd x y => x + (2 ^ wd - y)) s
/-- VIMUL. -/
def execVimul (w : Wheel) (d a b : VReg) (k : KReg) (s : State) : Out :=
  integerOp w intEt d a b k (fun _ _ x y => x * y) s
/-- VAND. -/
def execVand (w : Wheel) (d a b : VReg) (k : KReg) (s : State) : Out :=
  integerOp w anyEt d a b k (fun _ _ x y => x &&& y) s
/-- VOR. -/
def execVor (w : Wheel) (d a b : VReg) (k : KReg) (s : State) : Out :=
  integerOp w anyEt d a b k (fun _ _ x y => x ||| y) s
/-- VXOR. -/
def execVxor (w : Wheel) (d a b : VReg) (k : KReg) (s : State) : Out :=
  integerOp w anyEt d a b k (fun _ _ x y => x ^^^ y) s
/-- VSHL. -/
def execVshl (w : Wheel) (d a b : VReg) (k : KReg) (s : State) : Out :=
  integerOp w anyEt d a b k (fun _ wd x y => x * 2 ^ (y % wd)) s
/-- VSHR. -/
def execVshr (w : Wheel) (d a b : VReg) (k : KReg) (s : State) : Out :=
  integerOp w anyEt d a b k (fun _ wd x y => x / 2 ^ (y % wd)) s
/-- VSRA. -/
def execVsra (w : Wheel) (d a b : VReg) (k : KReg) (s : State) : Out :=
  integerOp w anyEt d a b k (fun _ wd x y => sraLane wd x (y % wd)) s
/-- VIMIN. -/
def execVimin (w : Wheel) (d a b : VReg) (k : KReg) (s : State) : Out :=
  integerOp w intEt d a b k (fun et _ x y => if intVal et y < intVal et x then y else x) s
/-- VIMAX. -/
def execVimax (w : Wheel) (d a b : VReg) (k : KReg) (s : State) : Out :=
  integerOp w intEt d a b k (fun et _ x y => if intVal et x < intVal et y then y else x) s

/-! ## Reductions (R40, R41, R276) -/

/-- The depth of a tree of n lanes. -/
def treeDepth (n : Nat) : Nat := n.log2

/-- A node with the flags of its subtrees. -/
def nodeWith {α : Type} (f : α → α → α × FFlags) (x y : α × FFlags) : α × FFlags :=
  let r := f x.1 y.1
  (r.1, (x.2.or y.2).or r.2)

/-- The tree over lanes, or the default where there is none. -/
def reduceTree {α : Type} (d : α) (f : α → α → α × FFlags) (xs : List α) : α × FFlags :=
  (treeReduce (nodeWith f) (treeDepth xs.length) (xs.map (fun x => (x, FFlags.none)))).headD (d, .none)

/-- The lanes of a floating-point reduction: operands where active, else the identity. -/
def State.floatLanes (s : State) (va : VecReg) (p : PredReg) (ident : Val) : List Val :=
  (List.range (laneCount s.job.laneWidth)).map (fun m => if active p m then s.operand va m else ident)

/-- The lanes of an integer reduction. -/
def State.intLanes (s : State) (va : VecReg) (p : PredReg) (ident : Int) : List Int :=
  let wd := s.job.laneWidth
  (List.range (laneCount wd)).map (fun m => if active p m then intVal s.job.et (lane wd va m) else ident)

/-- The smallest and the largest value of an integer format (R25). -/
def intMin (f : Fmt) : Int := -(intLimit f true : Int)
/-- The largest. -/
def intMax (f : Fmt) : Int := intLimit f false

/-- A 32-bit result as s[s] receives it: Sext for Iw, Zext for Nw (R276). -/
def reducedWord (f : Fmt) (x : Int) : Word :=
  if isSigned f then BitVec.ofInt 64 (toSInt 32 (intMod 32 x)) else word (intMod 32 x)

/-- Write the scalar of a reduction, and raise its flags. -/
def State.reduced (s : State) (a : VReg) (r : SReg) (x : Word) (f : FFlags) : State :=
  ((s.countReads [a]).setReg r x).raise f

/-- A reduction by a node on values and a node on integers, with the identities of R41. -/
def reduceOp (w : Wheel) (a : VReg) (r : SReg) (k : KReg) (fid : Val) (fnode : Val → Val → Val × FFlags)
    (iid : Fmt → Int) (inode : Int → Int → Int) (s : State) : Out :=
  vectorOp w anyEt (regBit r) (fun s =>
    let va := s.vreg a
    let p := s.pred k
    let et := s.job.et
    if isFloat et then
      let t := reduceTree fid fnode (s.floatLanes va p fid)
      let b := finish et (s.laneCtx none et 0) t
      s.reduced a r (word b.1) b.2
    else
      let t := reduceTree (iid et) (fun x y => (inode x y, FFlags.none)) (s.intLanes va p (iid et))
      s.reduced a r (reducedWord et t.1) .none) s

/-- The sum node: an FP32 addition in RNE (R40). -/
def sumNode (x y : Val) : Val × FFlags :=
  let r := toFp32 (addVal .rne x y)
  (decodeVal .fp32 r.1, r.2)

/-- VRSUM: integer sums wrap modulo 2^32. -/
def execVrsum (w : Wheel) (a : VReg) (r : SReg) (k : KReg) (s : State) : Out :=
  reduceOp w a r k (.rat true 0 1 0) sumNode (fun _ => 0) (· + ·) s
/-- VRMAX. -/
def execVrmax (w : Wheel) (a : VReg) (r : SReg) (k : KReg) (s : State) : Out :=
  reduceOp w a r k (.inf true) maxVal intMin max s
/-- VRMIN. -/
def execVrmin (w : Wheel) (a : VReg) (r : SReg) (k : KReg) (s : State) : Out :=
  reduceOp w a r k (.inf false) minVal intMax min s

/-- The argument-of-maximum node on values (R40): +0 and −0 are equal values here, so the lower lane wins (log 54). -/
def argNode (x y : Val × Nat) : (Val × Nat) × FFlags :=
  (if isNaNVal x.1 then x else if isNaNVal y.1 || ltVal x.1 y.1 then y else x, .invalid (isSig x.1 || isSig y.1))

/-- VRARGMX. -/
def execVrargmx (w : Wheel) (a : VReg) (r : SReg) (k : KReg) (s : State) : Out :=
  vectorOp w anyEt (regBit r) (fun s =>
    let va := s.vreg a
    let p := s.pred k
    let et := s.job.et
    if isFloat et then
      let t := reduceTree (.inf true, 0) argNode (s.floatLanes va p (.inf true)).zipIdx
      s.reduced a r (word t.1.2) t.2
    else
      let node := fun (x y : Int × Nat) => (if x.1 < y.1 then y else x, FFlags.none)
      let t := reduceTree (0, 0) node (s.intLanes va p (intMin et)).zipIdx
      s.reduced a r (word t.1.2) .none) s

/-! ## Predicates (R277) -/

/-- An instruction that writes a predicate register. -/
def predicateOp (w : Wheel) (uses : BitVec 16) (d : KReg) (k : KReg) (f : State → Nat → Bool) (s : State) : Out :=
  vectorOp w anyEt uses (fun s =>
    s.setPred d (mergeBits (laneCount s.job.laneWidth) (s.pred k) (s.pred d) (f s))) s

/-- KAND. -/
def execKand (w : Wheel) (d a b k : KReg) (s : State) : Out :=
  predicateOp w 0 d k (fun s m => (s.pred a).getLsbD m && (s.pred b).getLsbD m) s
/-- KOR. -/
def execKor (w : Wheel) (d a b k : KReg) (s : State) : Out :=
  predicateOp w 0 d k (fun s m => (s.pred a).getLsbD m || (s.pred b).getLsbD m) s
/-- KXOR. -/
def execKxor (w : Wheel) (d a b k : KReg) (s : State) : Out :=
  predicateOp w 0 d k (fun s m => (s.pred a).getLsbD m != (s.pred b).getLsbD m) s
/-- KNOT. -/
def execKnot (w : Wheel) (d a k : KReg) (s : State) : Out :=
  predicateOp w 0 d k (fun s m => !(s.pred a).getLsbD m) s
/-- KSET. -/
def execKset (w : Wheel) (d : KReg) (r : SReg) (k : KReg) (s : State) : Out :=
  predicateOp w (regBit r) d k (fun s m => decide (m < (s.reg r).toNat)) s

/-- The active lanes below n in which ka is set. -/
def State.setLanes (s : State) (a k : KReg) : List Nat :=
  (List.range (laneCount s.job.laneWidth)).filter (fun m => (s.pred a).getLsbD m && active (s.pred k) m)

/-- KPOP. -/
def execKpop (w : Wheel) (a : KReg) (r : SReg) (k : KReg) (s : State) : Out :=
  vectorOp w anyEt (regBit r) (fun s => s.setReg r (word (s.setLanes a k).length)) s
/-- KFIRST. -/
def execKfirst (w : Wheel) (a : KReg) (r : SReg) (k : KReg) (s : State) : Out :=
  vectorOp w anyEt (regBit r) (fun s => s.setReg r (word ((s.setLanes a k).headD (laneCount s.job.laneWidth)))) s

/-! ## Permutes (R278) -/

/-- The active lanes below n, ascending. -/
def activeLanes (p : PredReg) (n : Nat) : List Nat := (List.range n).filter (active p)

/-- VCOMP: every lane is written. -/
def execVcomp (w : Wheel) (d a : VReg) (k : KReg) (s : State) : Out :=
  vectorOp w anyEt 0 (fun s =>
    let wd := s.job.laneWidth
    let va := s.vreg a
    let ms := activeLanes (s.pred k) (laneCount wd)
    (s.countReads [a]).setVreg d (fromLanes wd (fun j => (ms[j]?.map (lane wd va)).getD 0))) s

/-- VEXPD. -/
def execVexpd (w : Wheel) (d a : VReg) (k : KReg) (s : State) : Out :=
  vectorOp w anyEt 0 (fun s =>
    let wd := s.job.laneWidth
    let va := s.vreg a
    let p := s.pred k
    s.moveLanes wd k d [a] (fun m => lane wd va (activeLanes p m).length)) s

/-- VPERM. -/
def execVperm (w : Wheel) (d a b : VReg) (k : KReg) (s : State) : Out :=
  vectorOp w anyEt 0 (fun s =>
    let wd := s.job.laneWidth
    let va := s.vreg a
    let vb := s.vreg b
    s.moveLanes wd k d [a, b] (fun m =>
      let i := lane wd vb m
      if i < laneCount wd then lane wd va i else 0)) s

/-- VSLIDE. -/
def execVslide (w : Wheel) (d a : VReg) (r : SReg) (k : KReg) (s : State) : Out :=
  vectorOp w anyEt (regBit r) (fun s =>
    let wd := s.job.laneWidth
    let va := s.vreg a
    let t := (s.reg r).toInt
    s.moveLanes wd k d [a] (fun m =>
      let i := (m : Int) + t
      if 0 ≤ i ∧ i < laneCount wd then lane wd va i.toNat else 0)) s

/-- VBCAST. -/
def execVbcast (w : Wheel) (d : VReg) (r : SReg) (k : KReg) (s : State) : Out :=
  vectorOp w anyEt (regBit r) (fun s =>
    let wd := s.job.laneWidth
    let x := (s.reg r).toNat
    s.moveLanes wd k d [] (fun _ => x % 2 ^ wd)) s

/-- VIOTA. -/
def execViota (w : Wheel) (d : VReg) (r : SReg) (k : KReg) (s : State) : Out :=
  vectorOp w anyEt (regBit r) (fun s =>
    let wd := s.job.laneWidth
    let x := (s.reg r).toNat
    s.moveLanes wd k d [] (fun m => (x + m) % 2 ^ wd)) s

/-- VSEL: every lane is written. -/
def execVsel (w : Wheel) (d a b : VReg) (k : KReg) (s : State) : Out :=
  vectorOp w anyEt 0 (fun s =>
    let wd := s.job.laneWidth
    (s.countReads [a, b]).setVreg d (mergeLanes wd (s.pred k) (s.vreg b) (lane wd (s.vreg a)))) s

/-- VMOV. -/
def execVmov (w : Wheel) (d a : VReg) (k : KReg) (s : State) : Out :=
  vectorOp w anyEt 0 (fun s =>
    let wd := s.job.laneWidth
    let va := s.vreg a
    s.moveLanes wd k d [a] (lane wd va)) s

/-- A lane as a scalar: Sext for Iw, Zext otherwise (R278). -/
def laneWord (f : Fmt) (x : Nat) : Word := if isSigned f then BitVec.ofInt 64 (intVal f x) else word x

/-- VEXT. -/
def execVext (w : Wheel) (a : VReg) (r : SReg) (s : State) : Out :=
  vectorOp w anyEt (regBit r) (fun s =>
    let wd := s.job.laneWidth
    let i := (s.reg r).toNat
    let x := if i < laneCount wd then laneWord s.job.et (lane wd (s.vreg a) i) else 0
    (s.countReads [a]).setReg r x) s

/-- VINS. -/
def execVins (w : Wheel) (d a : VReg) (r : SReg) (k : KReg) (s : State) : Out :=
  vectorOp w anyEt (regBit r) (fun s =>
    let wd := s.job.laneWidth
    let va := s.vreg a
    let x := (s.reg r).toNat
    s.moveLanes wd k d [a] (fun m => if m = 0 then x % 2 ^ wd else lane wd va (m - 1))) s

/-! ## VCFG (R266) -/

/-- FPCTL with RM set, or left where the field is DYN. -/
def setRm (w : Word) (rm : Option RMode) : Word :=
  match rm with
  | some m => setBits w 16 3 (modeCode (some m))
  | none => w

/-- VCFG. -/
def execVcfg (w : Wheel) (et : Fmt) (rm : Option RMode) (s : State) : Out :=
  issue w 1 onlyV 0 (fun s =>
    .ok ((s.onJob (fun j => { j with et := et })).onSt (fun t => { t with fpctl := setRm t.fpctl rm }))) s

end Sys2Proof.Machine
end

