-- ==== Sys2Proof/Machine/Convert.lean ====
section
/-!
DEFINITION. Machine/Convert.lean: VCVT, VQUANT and VDEQ (spec/12_vector.md R279 to R283).
-/
namespace Sys2Proof.Machine

/-- The control word of a conversion (R279). -/
structure Control where
  src : Fmt
  dst : Fmt
  part : Nat
  mode : Option RMode
  blk : Nat
  deriving DecidableEq, Repr

/-- The formats that a conversion accepts (R281). -/
def convertible (f : Fmt) : Bool := f != .i64 && f != .n64

/-- ρ of R280. -/
def widthRatio (a b : Fmt) : Nat := max (fmtWidth a) (fmtWidth b) / min (fmtWidth a) (fmtWidth b)

/-- Read a control word; none for a value that every conversion refuses (R279 to R281). -/
def readControl (x : Word) : Option Control :=
  match fmtOfCode (bits x 0 4), fmtOfCode (bits x 4 4), modeOfCode (bits x 11 3) with
  | some sf, some df, some m =>
    if convertible sf && convertible df && decide (bits x 8 3 < widthRatio sf df) then
      some ⟨sf, df, bits x 8 3, m, bits x 14 2⟩
    else none
  | _, _, _ => none

/-- The elements of a register of a format: lanes, or the nibbles of E2M1 (R265). -/
def elements (f : Fmt) (x : VecReg) : List Nat := (List.range (4096 / fmtWidth f)).map (lane (fmtWidth f) x)

/-- The lanes of the wider side, and the source and destination lane of each (R280). -/
def lanePairs (c : Control) : List (Nat × Nat × Nat) :=
  let ns := 4096 / fmtWidth c.src
  let nd := 4096 / fmtWidth c.dst
  (List.range (min ns nd)).map (fun m =>
    if fmtWidth c.src < fmtWidth c.dst then (m, c.part * nd + m, m)
    else if fmtWidth c.dst < fmtWidth c.src then (m, m, c.part * ns + m)
    else (m, m, m))

/-- Whether lane m is active; k0 leaves every lane active, those above 511 too (R270). Under another predicate register, whose 512
bits name no such lane, lanes 512 to 1,023 are inactive (R280; log 67). -/
def activeIn (k : KReg) (p : PredReg) (m : Nat) : Bool := k == 0 || active p m

/-- Replace elements of a list at places. -/
def putElements (xs : List Nat) (ps : List (Nat × Nat)) : List Nat := ps.foldl (fun xs p => xs.set p.1 p.2) xs

/-- Convert the active lanes: `f` gives the destination element of wide lane m from its source element. -/
def convertLanes (c : Control) (k : KReg) (p : PredReg) (src old : VecReg) (f : Nat → Nat → Nat × FFlags) :
    VecReg × FFlags :=
  let xs := elements c.src src
  let rs := (lanePairs c).filterMap (fun (m, i, j) =>
    if activeIn k p m then some (j, f m (xs.getD i 0)) else none)
  let out := putElements (elements c.dst old) (rs.map (fun r => (r.1, r.2.1)))
  (BitVec.ofNat 4096 (packNat (fmtWidth c.dst) out), rs.foldl (fun a r => a.or r.2.2) .none)

/-- Issue a conversion whose control word `ok` accepts. -/
def conversionOp (w : Wheel) (r : SReg) (ok : Control → Bool) (body : Control → State → State) (s : State) : Out :=
  issue w 1 onlyV (regBit r) (fun s =>
    match readControl (s.reg r) with
    | none => .error illegalEncoding
    | some c => if ok c then .ok (body c s) else .error illegalEncoding) s

/-- VCVT (R281). -/
def execVcvt (w : Wheel) (d a : VReg) (r : SReg) (k : KReg) (s : State) : Out :=
  conversionOp w r (fun _ => true) (fun c s =>
    let out := convertLanes c k (s.pred k) (s.vreg a) (s.vreg d) (fun m x =>
      convert c.src c.dst (s.laneCtx c.mode c.dst m) s.st.fpctl x)
    ((s.countReads [a]).setVreg d out.1).raise out.2) s

/-! ## VQUANT and VDEQ -/

/-- The wide formats of VQUANT and VDEQ (R282, R283). -/
def wideFmt (f : Fmt) : Bool := f == .fp32 || f == .bf16 || f == .f16
/-- The narrow formats of VQUANT and VDEQ. -/
def narrowFmt (f : Fmt) : Bool := f == .e4m3 || f == .e5m2 || f == .e2m1

/-- The number of blocks of a wide register of n lanes, and the block of lane m (R282, R283). -/
def blockCountOf (blk n : Nat) : Nat := if blk = 0 then n / 32 else 1
/-- The block of lane m. -/
def blockOf (blk m : Nat) : Nat := if blk = 0 then m / 32 else 0

/-- The exponent of a block: from its active, finite source elements (R282). -/
def blockExp (c : Control) (fpctl : Word) (k : KReg) (p : PredReg) (xs : List Nat) (b : Nat) : Int :=
  quantExp (-127) c.dst ((xs.zipIdx.filter (fun (_, m) => blockOf c.blk m == b && activeIn k p m)).map (fun (x, _) =>
    readOperand fpctl c.src x))

/-- Whether a block holds an active source lane. -/
def blockActive (c : Control) (k : KReg) (p : PredReg) (n b : Nat) : Bool :=
  (List.range n).any (fun m => blockOf c.blk m == b && activeIn k p m)

/-- The odd register that holds the scales beside an even one. -/
def scaleReg (v : VReg) : VReg := v ||| 1

/-- VQUANT (R282). -/
def execVquant (w : Wheel) (d a : VReg) (r : SReg) (k : KReg) (s : State) : Out :=
  conversionOp w r (fun c => wideFmt c.src && narrowFmt c.dst && decide (c.blk ≤ 1) && (c.dst != .e2m1 || c.blk == 0))
    (fun c s =>
      let p := s.pred k
      let f := s.st.fpctl
      let xs := elements c.src (s.vreg a)
      let nb := blockCountOf c.blk xs.length
      let exps := (List.range nb).map (blockExp c f k p xs)
      let out := convertLanes c k p (s.vreg a) (s.vreg d) (fun m x =>
        let v := readOperand f c.src x
        finish c.dst (s.laneCtx c.mode c.dst m) (divVal v (.rat false 1 1 (exps.getD (blockOf c.blk m) 0))))
      let scales := (List.range nb).filterMap (fun b =>
        if blockActive c k p xs.length b then some (c.part * nb + b, (127 + exps.getD b 0).toNat) else none)
      let sc : VecReg := BitVec.ofNat 4096
        (packNat 8 (putElements ((List.range 512).map (lane 8 (s.vreg (scaleReg d)))) scales))
      (((s.countReads [a]).setVreg d out.1).setVreg (scaleReg d) sc).raise out.2) s

/-- VDEQ (R283). -/
def execVdeq (w : Wheel) (d a : VReg) (r : SReg) (k : KReg) (s : State) : Out :=
  conversionOp w r (fun c => narrowFmt c.src && wideFmt c.dst && decide (c.blk ≤ 1)) (fun c s =>
    let sc := s.vreg (scaleReg a)
    let nd := 4096 / fmtWidth c.dst
    let out := convertLanes c k (s.pred k) (s.vreg a) (s.vreg d) (fun m x =>
      let e := lane 8 sc (c.part * blockCountOf c.blk nd + blockOf c.blk m)
      finish c.dst (s.laneCtx c.mode c.dst m) (mulVal (e8m0 e) (readOperand s.st.fpctl c.src x)))
    ((s.countReads [a, scaleReg a]).setVreg d out.1).raise out.2) s

end Sys2Proof.Machine
end

