-- ==== Sys2Proof/Machine/CopyEngine.lean ====
section
/-!
DEFINITION. Machine/CopyEngine.lean: the Copy Engine commands: their issue, and what their threads do at completion
(spec/09_memory_and_engines.md R218 to R230), except the commands of versions, which Versions.lean holds.
-/
namespace Sys2Proof.Machine

/-- The registers of an optional pair. -/
def pairUse (p : Pair) : BitVec 16 := if p = 0 then 0 else pairBits p

/-- Issue a Copy Engine command (R218, R219): `two` where it also captures the odd register of its even s. -/
def tileCommand (i : Instr) (w : Wheel) (a b : Pair) (r : SReg) (two : Bool) (cc : Cc) (uint : Bool)
    (check : State → Word → Res Unit) (s : State) : Out :=
  issue w 1 onlyAE (pairUse a ||| pairUse b ||| regBit r ||| (if two then regBit (r ||| 1) else 0)) (fun s =>
    let x := s.reg r
    (check s x).bind fun _ => accept .ce (s.command 1 i cc uint a b 0 x (s.reg (r ||| 1))) s) s

/-- Checks 1 to 4 at issue for tile (a, b) of a pair, as a check of a command. -/
def needTile (s : State) (p : Pair) (perms : Nat) (cls : Nat → Bool) (ab : Nat × Nat) : Res Unit :=
  (s.useCap p perms cls ab.1 ab.2).map fun _ => ()

/-- Both pairs of a command that names a source a and a destination b by coordinates. -/
def needMove (a b : Pair) (ca cb : Nat → Bool) (s : State) (x : Word) : Res Unit :=
  (needTile s a prd ca (coordA x)).bind fun _ => needTile s b pwr cb (coordB x)

/-- TLD (R218, R221). -/
def execTld (w : Wheel) (a b : Pair) (r : SReg) (cc : Cc) (uint : Bool) (s : State) : Out :=
  tileCommand (.tld w a b r cc uint) w a b r false cc uint (needMove a b anyClass localClass) s

/-- TST (R218, R221). -/
def execTst (w : Wheel) (a b : Pair) (r : SReg) (cc : Cc) (uint : Bool) (s : State) : Out :=
  tileCommand (.tst w a b r cc uint) w a b r false cc uint (needMove a b localClass globalClass) s

/-- TSTASH (R218, R221). -/
def execTstash (w : Wheel) (a b : Pair) (r : SReg) (cc : Cc) (uint : Bool) (s : State) : Out :=
  tileCommand (.tstash w a b r cc uint) w a b r false cc uint (needMove a b localClass globalClass) s

/-- TCOPY (R218, R221). -/
def execTcopy (w : Wheel) (a b : Pair) (r : SReg) (cc : Cc) (uint : Bool) (s : State) : Out :=
  tileCommand (.tcopy w a b r cc uint) w a b r false cc uint (needMove a b anyClass anyClass) s

/-- TPREF (R218, R225). -/
def execTpref (w : Wheel) (a : Pair) (r : SReg) (cc : Cc) (uint : Bool) (s : State) : Out :=
  tileCommand (.tpref w a r cc uint) w a 0 r false cc uint (fun s x => needTile s a prd anyClass (coordA x)) s

/-- TGATH (R218, R222): tile (0, 0) of both pairs. -/
def execTgath (w : Wheel) (a b : Pair) (r : SReg) (cc : Cc) (uint : Bool) (s : State) : Out :=
  tileCommand (.tgath w a b r cc uint) w a b r false cc uint (fun s _ =>
    (needTile s a prd anyClass (0, 0)).bind fun _ => needTile s b pwr anyClass (0, 0)) s

/-- TSCAT (R218, R222). -/
def execTscat (w : Wheel) (a b : Pair) (r : SReg) (cc : Cc) (uint : Bool) (s : State) : Out :=
  tileCommand (.tscat w a b r cc uint) w a b r false cc uint (fun s _ =>
    (needTile s a prd anyClass (0, 0)).bind fun _ => needTile s b pwr anyClass (0, 0)) s

/-- TFILL (R218, R224). -/
def execTfill (w : Wheel) (a : Pair) (r : SReg) (cc : Cc) (uint : Bool) (kind : FillKind) (s : State) : Out :=
  tileCommand (.tfill w a r cc uint kind) w a 0 r true cc uint (fun s x => needTile s a pwr anyClass (coordA x)) s

/-- TDEDUP (R218, R228). -/
def execTdedup (w : Wheel) (a b : Pair) (r : SReg) (cc : Cc) (uint : Bool) (s : State) : Out :=
  tileCommand (.tdedup w a b r cc uint) w a b r false cc uint (fun s x =>
    (needTile s a (prd + pwr + pali) anyClass (coordA x)).bind fun _ =>
      needTile s b (prd + pali) anyClass (coordB x)) s

/-- TPROMO (R218, R225). -/
def execTpromo (w : Wheel) (a : Pair) (r : SReg) (cc : Cc) (uint : Bool) (s : State) : Out :=
  tileCommand (.tpromo w a r cc uint) w a 0 r false cc uint (fun s x => needTile s a pwr anyClass (coordA x)) s

/-- TALIAS (R218, R229). -/
def execTalias (w : Wheel) (a b : Pair) (r : SReg) (cc : Cc) (uint : Bool) (s : State) : Out :=
  tileCommand (.talias w a b r cc uint) w a b r false cc uint (fun s x =>
    (needTile s a (pwr + pali) anyClass (coordA x)).bind fun _ =>
      needTile s b (prd + pali) anyClass (coordB x)) s

/-- TINFO (R226): checks 1 to 7 in the stream, then s[s] ← word n of the entry. -/
def execTinfo (w : Wheel) (a : Pair) (r : SReg) (n : BitVec 3) (s : State) : Out :=
  issue w 1 onlyAE (pairBits a ||| regBit r) (fun s =>
    let ab := coordA (s.reg r)
    (s.useCap a prd anyClass ab.1 ab.2).bind fun c =>
      (openTile s s.job.tctx c 0 (c.tile ab.1 ab.2)).map fun (k, t) =>
        (s.who.meetsEntry k s).setReg r (t.view n.toNat)) s

/-! ## Moves (R221) -/

/-- A tile that a thread has opened: index, key, entry. -/
structure Opened where
  idx : Nat
  k : Nat
  t : Tte
  deriving DecidableEq, Repr

/-- Open the source tile of a command. -/
def openSrc (s : State) (w : Who) (c : BitVec 128) (ab : Nat × Nat) : Res Opened :=
  let idx := Cap.tile c ab.1 ab.2
  (openTile s w.ctx c 0 idx).map fun (k, t) => ⟨idx, k, t⟩

/-- Open a destination tile of a command. -/
def openDst (s : State) (w : Who) (c : BitVec 128) (ab : Nat × Nat) : Res Opened :=
  let idx := Cap.tile c ab.1 ab.2
  (openWrite s w.ctx c idx).map fun (k, t) => ⟨idx, k, t⟩

/-- The same format, row count and column count (R221). -/
def sameShape (a b : Tte) : Bool := a.fmtCode == b.fmtCode && a.rows == b.rows && a.cols == b.cols

/-- The values that a move gives its destination: the scale bytes go along where the block axes agree, and are open where
they do not (log 19). -/
def moveVals (st dt : Tte) (v : TileVals) (s : State) : TileVals × State :=
  if st.fmt ≠ .e2m1 then (⟨v.vals, []⟩, s)
  else if st.mxaxis = dt.mxaxis then (⟨v.vals, st.cleanScales v.scales⟩, s)
  else
    let (bs, s) := s.freeBytes 512
    (⟨v.vals, dt.cleanScales (bs.map (·.toNat))⟩, s)

/-- A stored source that is pressed like its destination gives its coded blocks (R221). -/
def moveBlocks (s : State) (c : TCtx) (o : Opened) (dt : Tte) : Res (Option (List (Nat × List Byte))) :=
  (backingEntry s c o.idx o.t).bind fun (x, r) =>
    if r.press && dt.press && r.layout == dt.layout && r.ptab == dt.ptab then
      (backKey s c 0 x r).bind fun k => (needAllGood s (r.storedPlaces k)).map fun _ => some (storedBlocks s k r)
    else .ok none

/-- A REPEAT's target is stored under the PRESS and PTAB that the REPEAT's own entry has. -/
def ownCoding (t r : Tte) : Bool := t.press == r.press && (!r.press || t.ptab == r.ptab)

/-- TLD into a tile (R221, R65, R85): a write of every element of what promotion leaves, under the destination's own PRESS
and PTAB, which a move does not change. A REPEAT whose target is coded otherwise is read, not copied (log 18). -/
def loadInto (w : Who) (src d : Opened) (v : TileVals) (s : State) : Res State :=
  let c := w.ctx
  (backingEntry s c d.idx d.t).bind fun (_, r) =>
    if d.t.kind = 5 ∧ ownCoding d.t r = false then
      (moveBlocks s c src d.t).bind fun blocks => (valuesOf s c d.idx d.t).bind fun _ =>
        let (v, s) := moveVals src.t d.t v s
        (attach c d.idx d.k s).bind fun s =>
          (putBytes c d.idx d.k v blocks s).map (finishWrite d.k (r.summary ||| d.t.summaryOf v))
    else
      (promote c d.idx d.k s).bind fun s =>
        let s := s.setTte d.k ((s.tte d.k).put 0 3 8 d.t.ptab)
        let t := s.tte d.k
        (moveBlocks s c src t).bind fun blocks =>
          let (v, s) := moveVals src.t t v s
          match blocks with
          | none => partialWrite c d.idx d.k t.allElems true (fun _ => v) s
          | some _ => (putBytes c d.idx d.k v blocks s).map (finishWrite d.k (t.summary ||| t.summaryOf v))

/-- The effect of a move on its destination: `whole` for TST, TCOPY and TSTASH; for TLD a partial write (R65). -/
def moveInto (w : Who) (whole : Bool) (src : Opened) (d : Opened) (s : State) : Res State :=
  let c := w.ctx
  if isSymbol src.t.kind then
    makeSymbol c d.idx d.k ⟨src.t.kind, src.t.syma, src.t.symb, src.t.symc⟩ s
  else
    (valuesOf s c src.idx src.t).bind fun v =>
      if whole then
        (moveBlocks s c src d.t).bind fun blocks =>
          let (v, s) := moveVals src.t d.t v s
          wholeWrite c d.idx d.k v blocks s
      else loadInto w src d v s

/-- The source as a read finds it: its version, with the record placed. -/
def readOpened (w : Who) (o : Opened) (s : State) : Res (Opened × State) :=
  (readTile w o.k o.t s).map fun (t, s) => ({ o with t := t }, s)

/-- A move command (R221). TSTASH asks for layout ROWCOL. -/
def runMove (c : Cmd) (whole stash : Bool) (s : State) : Res State :=
  let w := s.whoOf .ce c
  (openSrc s w c.capA (coordA c.x)).bind fun a =>
    (openDst s w c.capB (coordB c.x)).bind fun b =>
      if sameShape a.t b.t = false ∨ (stash ∧ b.t.layout ≠ 3) then .error (.post 4)
      else
        (readOpened w a s).bind fun (a, s) => (writeTile w b.k s).bind fun s => moveInto w whole a b s

/-! ## Gather and scatter (R222) -/

/-- The index list of a command: n N32 values. -/
def indexList (c : Cmd) (n : Nat) (s : State) : Res (List Nat × State) :=
  let va := vaOf c.x
  if va % 4 ≠ 0 then .error (misalign 0 (word va))
  else (s.readFor (c.attempt != 0) va (4 * n)).map fun (bs, s) => (numsOf 4 n bs, s)

/-- Open tiles (g, 0) of a column. -/
def openColumn (s : State) (w : Who) (cap : BitVec 128) (write : Bool) : List Nat → Res (List (Nat × Opened))
  | [] => .ok []
  | g :: gs =>
    (if write then openDst s w cap (g, 0) else openSrc s w cap (g, 0)).bind fun o =>
      (openColumn s w cap write gs).map ((g, o) :: ·)

/-- The tiles of a column that indices fall on, ascending. -/
def columnTiles (rowt rc : Nat) (idx : List Nat) : List Nat :=
  (List.range rowt).filter (fun g => idx.any (fun x => x / rc == g))

/-- Row r of a tile's values. -/
def rowOf (t : Tte) (v : TileVals) (r : Nat) : List Nat := (v.vals.drop (r * t.cols)).take t.cols

/-- Replace row r. -/
def setRow (t : Tte) (r : Nat) (xs : List Nat) (vals : List Nat) : List Nat :=
  vals.take (r * t.cols) ++ xs ++ vals.drop ((r + 1) * t.cols)

/-- The indices of the elements of rows. -/
def rowElems (t : Tte) (rows : List Nat) : List Nat :=
  rows.flatMap (fun r => (List.range t.cols).map (fun j => r * t.cols + j))

/-- A row that moves: the row it lands on, its patterns, and its four scale bytes where the blocks run along rows. -/
structure RowMove where
  row : Nat
  xs : List Nat
  scales : Option (List Nat)
  deriving DecidableEq, Repr

/-- The rows of scale bytes of one tile line (R47). -/
def lineScales (v : TileVals) (r : Nat) : List Nat := (List.range 4).map (fun b => v.scales.getD (4 * r + b) 0)

/-- Replace scale bytes at positions. -/
def putScales (ps : List (Nat × Nat)) (sc : List Nat) : List Nat :=
  ps.foldl (fun sc (p, x) => sc.set p x) (sc ++ List.replicate (512 - sc.length) 0)

/-- The scale positions whose values a row write leaves open: where blocks of source or destination run along columns
(log 19). -/
def openScales (t : Tte) (r : Nat) : List Nat :=
  if t.mxaxis then (List.range t.cols).map (fun j => 4 * j + r / 32) else (List.range 4).map (fun b => 4 * r + b)

/-- Write rows into the values of a tile, in the order given; `free` stands for the scale bytes left open. -/
def writeRows (t : Tte) (ms : List RowMove) (free : List Nat) (v : TileVals) : TileVals :=
  ms.foldl (fun v m =>
    let vals := setRow t m.row m.xs v.vals
    if t.fmt ≠ .e2m1 then ⟨vals, v.scales⟩
    else
      match m.scales, t.mxaxis with
      | some sc, false => ⟨vals, putScales ((List.range 4).map (fun b => (4 * m.row + b, sc.getD b 0))) v.scales⟩
      | _, _ => ⟨vals, putScales ((openScales t m.row).map (fun p => (p, free.getD p 0))) v.scales⟩) v

/-- Write rows into a tile, as a partial write (R222). -/
def writeTileRows (w : Who) (o : Opened) (ms : List RowMove) (s : State) : Res State :=
  let (bs, s) := if o.t.fmt = .e2m1 then s.freeBytes 512 else ([], s)
  partialWrite w.ctx o.idx o.k (rowElems o.t (ms.map (·.row))) true (writeRows o.t ms (bs.map (·.toNat))) s

/-- A row that leaves a tile. -/
def takeRow (o : Opened) (v : TileVals) (r dst : Nat) : RowMove :=
  ⟨dst, rowOf o.t v r, if o.t.mxaxis then none else some (lineScales v r)⟩

/-- Read tiles of a column in order, by the floors of `w` alone: those of the homes move once every version is chosen (R351). -/
def readColumn (w : Who) : List (Nat × Opened) → State → Res (List (Nat × Opened) × State)
  | [], s => .ok ([], s)
  | (g, o) :: os, s =>
    (chooseVersion w o.k o.t s).bind fun (t, s) =>
      (readColumn w os s).map fun (r, s) => ((g, { o with t := t }) :: r, w.meetsTile o.k t s)

/-- The values of tiles of a column: every block of a tile that an index falls on is decoded, whichever rows are taken (log 63). -/
def columnVals (s : State) (c : TCtx) : List (Nat × Opened) → Res (List (Nat × Opened × TileVals))
  | [] => .ok []
  | (g, o) :: os => (valuesOf s c o.idx o.t).bind fun v => (columnVals s c os).map ((g, o, v) :: ·)

/-- Tile (0, 0) of a column as far as its shape goes: its entry is read without an access. -/
def columnShape (s : State) (w : Who) (cap : BitVec 128) : Res Tte :=
  (entryKey w.ctx 0 (Cap.tile cap 0 0)).map s.tte

/-- Whether every tile of a column has the format and shape of its tile (0, 0): another posts SHAPE (R222). The fields of
an ABSENT entry are software's own (R51), and such a tile is passed over unless it is accessed. -/
def columnFits (s : State) (w : Who) (cap : BitVec 128) (t : Tte) : Bool :=
  (List.range (Cap.rowt cap)).all (fun g =>
    match entryKey w.ctx 0 (Cap.tile cap g 0) with
    | .ok k => (s.tte k).tier == 6 || sameShape t (s.tte k)
    | .error _ => false)

/-- The indices of a gather or scatter and the tiles of the column that they fall on, opened (R222): one out of range posts
BADIDX, and a column that does not fit the single tile posts SHAPE. Where several fail, the index list comes first, then
BADIDX, the checks of the tiles, and SHAPE (log 63). -/
def openIndexed (w : Who) (c : Cmd) (cap : BitVec 128) (write : Bool) (single : Tte) (s : State) :
    Res (Tte × List Nat × List (Nat × Opened) × State) :=
  (columnShape s w cap).bind fun t0 =>
    (indexList c single.rows s).bind fun (idx, s) =>
      if idx.any (fun x => decide (Cap.rowt cap * t0.rows ≤ x)) then .error (.post 5)
      else
        (openColumn s w cap write (columnTiles (Cap.rowt cap) t0.rows idx)).bind fun os =>
          if t0.fmtCode ≠ single.fmtCode ∨ t0.cols ≠ single.cols ∨ columnFits s w cap t0 = false then .error (.post 4)
          else .ok (t0, idx, os, s)

/-- TGATH (R222). -/
def runGather (c : Cmd) (s : State) : Res State :=
  let w := s.whoOf .ce c
  (openDst s w c.capB (0, 0)).bind fun d =>
    (openIndexed w c c.capA false d.t s).bind fun (t0, idx, os, s) =>
      (readColumn (w.reaching s (os.flatMap (fun o => s.tileHomes o.2.k))) os s).bind fun (os, s) =>
        (writeTile w d.k s).bind fun s =>
          (columnVals s w.ctx os).bind fun vs =>
            let ms := idx.zipIdx.filterMap (fun (x, r) =>
              (vs.find? (·.1 == x / t0.rows)).map (fun (_, o, v) => takeRow o v (x % t0.rows) r))
            writeTileRows w d ms s

/-- Promote tiles first, so that every block is taken before any tile is written (R220, R222). -/
def promoteAll (w : Who) : List (Nat × Opened) → State → Res State
  | [], s => .ok s
  | (_, o) :: os, s => (promote w.ctx o.idx o.k s).bind (promoteAll w os)

/-- Check and record the writes of tiles. -/
def writeColumn (w : Who) : List (Nat × Opened) → State → Res State
  | [], s => .ok s
  | (_, o) :: os, s => (writeTile w o.k s).bind (writeColumn w os)

/-- Scatter rows into the tiles of a column, tile by tile. -/
def scatterInto (w : Who) (ms : List (Nat × RowMove)) : List (Nat × Opened) → State → Res State
  | [], s => .ok s
  | (g, o) :: os, s =>
    (writeTileRows w o ((ms.filter (·.1 == g)).map (·.2)) s).bind (scatterInto w ms os)

/-- TSCAT (R222). -/
def runScatter (c : Cmd) (s : State) : Res State :=
  let w := s.whoOf .ce c
  (openSrc s w c.capA (0, 0)).bind fun a =>
    (openIndexed w c c.capB true a.t s).bind fun (t0, idx, os, s) =>
      (readOpened w a s).bind fun (a, s) =>
        (writeColumn w os s).bind fun s =>
          (valuesOf s w.ctx a.idx a.t).bind fun v =>
            (promoteAll w os s).bind fun s =>
              let ms := idx.zipIdx.map (fun (x, r) => (x / t0.rows, takeRow a v r (x % t0.rows)))
              scatterInto w ms os s

/-! ## Fills, promotion, prefetch (R224, R225) -/

/-- The KIND of a fill. -/
def FillKind.code : FillKind → Nat
  | .zero => 1 | .const => 2 | .ramp => 3 | .had => 4

/-- The symbol of a TFILL (R224); a ZERO has no operands (R55; log 57). -/
def fillSymbol (k : FillKind) (f : Fmt) (x y : Word) : Symbol :=
  match k with
  | .ramp => ⟨3, bits x 0 32, bits y 32 32, bits y 0 32⟩
  | .zero => ⟨1, 0, 0, 0⟩
  | .const => ⟨2, bits x 0 32 % 2 ^ fmtWidth f, 0, 0⟩
  | .had => ⟨4, bits x 0 32, 0, 0⟩

/-- TFILL (R224). -/
def runFill (c : Cmd) (kind : FillKind) (s : State) : Res State :=
  let w := s.whoOf .ce c
  (openDst s w c.capA (coordA c.x)).bind fun d =>
    if d.t.fmt = .e2m1 ∧ kind ≠ .zero then .error (.post 4)
    else
      (writeTile w d.k s).bind fun s =>
        makeSymbol w.ctx d.idx d.k (fillSymbol kind d.t.fmt c.x c.y) s

/-- TPROMO (R225): on a STORED tile it is no write and passes check 8. For a failure at checks 5 to 7, which come before it is known
whether it writes, ACCESS is 0, DEDUCED (log 77). -/
def runPromo (c : Cmd) (s : State) : Res State :=
  let w := s.whoOf .ce c
  (openSrc s w c.capA (coordA c.x)).bind fun d =>
    if d.t.kind = 0 then .ok s
    else if mayWrite d.t = false then .error (capPermAt 1)
    else (writeTile w d.k s).bind (promote w.ctx d.idx d.k)

/-! ## Deduplication and aliasing (R227 to R229) -/

/-- The padded image of a tile in its own layout, with everything its layout pads and the scale granule of an E2M1 tile
(R45, R47, R227; log 58). -/
def decodedImage (s : State) (c : TCtx) (idx : Nat) (t : Tte) : Res (List Byte) :=
  (valuesOf s c idx t).map fun v => t.backing ⟨v.vals, t.cleanScales v.scales⟩

/-- Fingerprint of R227. -/
def fingerprint (image : List Byte) : Nat :=
  ((numsOf 8 (image.length / 8) image).zipIdx.foldl (fun a (x, i) => a + x * (2 * i + 1)) 0) % 2 ^ 64

/-- The STORED tile that a reference stands for: itself, or its target (R228). -/
def storedRef (s : State) (c : TCtx) (o : Opened) : Res (Option Opened) :=
  if o.t.kind = 0 then .ok (some o)
  else if o.t.kind = 5 then
    (repeatTarget s c o.idx o.t).map fun (x, k, t) => some ⟨x, k, t⟩
  else .ok none

/-- What TDEDUP does (R228): the status that it posts, with both accesses recorded; on one tile it makes one write access. -/
def dedup (c : Cmd) (s : State) : Res (Nat × State) :=
  let w := s.whoOf .ce c
  (openDst s w c.capA (coordA c.x)).bind fun a =>
    (openSrc s w c.capB (coordB c.x)).bind fun b =>
      (if b.k = a.k then .ok (b, s) else readOpened w b s).bind fun (b, s) => (writeTile w a.k s).bind fun s =>
        (storedRef s w.ctx b).bind fun
          | none => .ok (1, s)
          | some t =>
            if t.k = a.k ∨ a.t.kind ≠ 0 ∨ isLtt a.idx ≠ isLtt t.idx ∨ sameShape a.t t.t = false ∨
                a.t.layout ≠ t.t.layout then .ok (1, s)
            else
              (decodedImage s w.ctx a.idx a.t).bind fun x => (decodedImage s w.ctx t.idx t.t).bind fun y =>
                if fingerprint x ≠ fingerprint y ∨ x ≠ y then .ok (1, s)
                else if t.t.refcnt = maxRef then .ok (2, s)
                else (makeRepeat w.ctx a.idx a.k (t.idx % 2 ^ 32) t.k s).map fun s => (0, s)

/-- The checks of a TDEDUP, which it makes whatever it posts (R334): those of R70 and R310 of its candidate and reference. -/
def dedupChecks (c : Cmd) (s : State) : Res Unit :=
  let w := s.whoOf .ce c
  (openDst s w c.capA (coordA c.x)).bind fun a =>
    (openSrc s w c.capB (coordB c.x)).bind fun b =>
      (if b.k = a.k then .ok s else checkAccess b.k b.t w.party false none s).bind fun s =>
        (checkAccess a.k a.t w.party true none s).map fun _ => ()

/-- How a command ends whose transfer is lost: with a status, but a TDEDUP whose checks fail traps (R334). -/
def lostEnd (c : Cmd) (st : Nat) (s : State) : Res (Nat × State) :=
  match c.instr with
  | .tdedup .. =>
    match dedupChecks c s with
    | .error (.trap t) => .error (.trap t)
    | _ => .error (.post st)
  | _ => .error (.post st)

/-- TDEDUP (R228, R334): one that ends with an error status has made all its checks, also where the error was met before the
last of them, in finding the version of its reference, say. -/
def runDedup (c : Cmd) (s : State) : Res (Nat × State) :=
  match dedup c s with
  | .error (.post st) => lostEnd c st s
  | r => r

/-- TALIAS (R229): the status that it posts. -/
def runAlias (c : Cmd) (s : State) : Res (Nat × State) :=
  let w := s.whoOf .ce c
  (openDst s w c.capA (coordA c.x)).bind fun a =>
    (openSrc s w c.capB (coordB c.x)).bind fun b =>
      if isLtt a.idx ≠ isLtt b.idx ∨ sameShape a.t b.t = false ∨ a.t.layout ≠ b.t.layout then .error (.post 4)
      else
        (readOpened w b s).bind fun (b, s) => (writeTile w a.k s).bind fun s =>
          if b.k = a.k ∧ a.t.kind = 0 then .ok (1, s)
          else if isSymbol b.t.kind then
            (makeSymbol w.ctx a.idx a.k ⟨b.t.kind, b.t.syma, b.t.symb, b.t.symc⟩ s).map fun s => (0, s)
          else
            (storedRef s w.ctx b).bind fun
              | none => .ok (1, s)
              | some t =>
                let same := a.t.kind == 5 && a.t.syma == t.idx % 2 ^ 32
                if t.t.refcnt = maxRef ∧ same = false then .ok (2, s)
                else (makeRepeat w.ctx a.idx a.k (t.idx % 2 ^ 32) t.k s).map fun s => (0, s)

end Sys2Proof.Machine
end

