-- ==== Sys2Proof/Machine/Culture.lean ====
section
/-!
DEFINITION. Machine/Culture.lean: the Culture unit (spec/13_culture.md R286 to R296) and QSEL (spec/12_vector.md R284).
-/
namespace Sys2Proof.Machine

/-- A dimension record from its 264 bytes (R286). -/
def dimOfBytes (bs : List Byte) : DimRec := BitVec.ofNat 2112 (leNat bs)

/-- Word i of a dimension record (R286). -/
def dimWord (d : DimRec) (i : Nat) : Nat := d.toNat / 2 ^ (32 * i) % 2 ^ 32

/-- Row k of the scrambling matrix as the device takes it: a unit diagonal and nothing above it (R286). -/
def dimRow (d : DimRec) (k : Nat) : Nat :=
  let p := 2 ^ (31 - k)
  dimWord d (32 + k) / (2 * p) * (2 * p) + p

/-- The parity of the 1 bits of a 32-bit number. -/
def parity32 (x : Nat) : Bool := countParity x 32
where
  /-- The parity of the low n bits. -/
  countParity (x : Nat) : Nat → Bool
    | 0 => false
    | n + 1 => countParity x n != x.testBit n

/-- CulturePoint of R289. -/
def culturePoint (d : DimRec) (i : Nat) : Nat :=
  let y := (List.range 32).foldl (fun y b => if i.testBit b then y ^^^ dimWord d b else y) 0
  let x := (List.range 32).foldl (fun x k => if parity32 (dimRow d k &&& y) then x + 2 ^ (31 - k) else x) 0
  x ^^^ dimWord d 64

/-- The bits of FP32 (x >> 8) × 2^−24 (R289): always exact. -/
def pointFp32 (x : Nat) : Nat := (roundTo .fp32 rneCtx (.rat false (x / 2 ^ 8) 1 (-24))).1

/-- Whether the lane width is 32 (R291, R356). -/
def wide (et : Fmt) : Bool := fmtWidth et == 32

/-- QRN (R291). -/
def execQrn (w : Wheel) (d a : VReg) (r : SReg) (k : KReg) (s : State) : Out :=
  issue w 1 onlyV (regBit r) (fun s =>
    if !wide s.job.et then .error illegalEncoding
    else
      let c := s.reg r
      let dim := s.job.culture[bits c 0 6 % 64]'(Nat.mod_lt _ (by decide))
      let va := s.vreg a
      let f := fun m =>
        let x := culturePoint dim ((bits c 32 32 + lane 32 va m) % 2 ^ 32)
        if c.getLsbD 8 then pointFp32 x else x
      let out := mergeLanes 32 (s.pred k) (s.vreg d) f
      .ok ((s.countReads [a]).setVreg d out)) s

/-- Split bytes into n dimension records. -/
def dimsOf : Nat → List Byte → List DimRec
  | 0, _ => []
  | n + 1, bs => dimOfBytes (bs.take 264) :: dimsOf n (bs.drop 264)

/-- Replace the held copy. -/
def Job.setCulture (j : Job) (ds : List DimRec) : Job :=
  { j with culture := Vector.ofFn (fun i : Fin 64 => ds.getD i 0) }

/-- The file offset of the first dimension record of a set (R287): the headers of n sets are read in order from `off` on,
through the page tables. -/
def seekSet (read : Nat → State → Res (List Byte × State)) (set : BitVec 8) : Nat → Nat → State → Res (Option Nat × State)
  | 0, _, s => .ok (none, s)
  | n + 1, off, s =>
    (read off s).bind fun (h, s) =>
      if h.head? = some set then .ok (some (off + 8), s) else seekSet read set n (off + 16904) s

/-- Bytes of the image of the job in focus. -/
def jobImage (len off : Nat) (s : State) : Res (List Byte × State) :=
  s.readSpan ((s.job.codeva.toNat + off) % 2 ^ 57) len

/-- Choose a table set (R292, R293): its 64 records are read through the page tables; 0xFF, or a set that the image does not
hold, gives zeros. A read that meets an uncorrectable error is counted and made again (R393; log 42). -/
def chooseSet (set : BitVec 8) (s : State) : Res State :=
  (if set = 0xFF then .ok (none, s) else seekSet (jobImage 8) set s.job.dirtab.2 s.job.dirtab.1 s).bind fun
    | (none, s) => .ok (s.onJob (fun j => { j.setCulture [] with qset := 0xFF }))
    | (some off, s) =>
      (jobImage (64 * 264) off s).bind fun (bs, s) =>
        .ok (s.onJob (fun j => { j.setCulture (dimsOf 64 bs) with qset := set }))

/-- QCFG (R292). -/
def execQcfg (w : Wheel) (set : BitVec 8) (s : State) : Out := issue w 1 onlyV 0 (chooseSet set) s

/-! ## Errors (R82, R234, R294) -/

/-- A vector access or QLDT that meets an error: ERRCNT and the owner's counter rise, and the error event is raised (R82,
R234, R294, R371, R393). -/
def State.vectorError (s : State) (st : Nat) : State :=
  let s := s.onJob Job.countError
  let s := if st = 6 then s.countRevoked s.job.owner else s.countCorrupt s.job.owner
  s.errorEvent 1 ⟨3, 2, 0⟩

/-- Go on with a result, or with what an error leaves. -/
def orError {α : Type} (r : Res α) (ok : α → Res State) (err : Nat → Res State) : Res State :=
  match r with
  | .ok x => ok x
  | .error (.post st) => err st
  | .error e => .error e

/-- QLDT (R294). -/
def execQldt (w : Wheel) (a : SReg) (dim : BitVec 6) (s : State) : Out :=
  issue w 1 onlyV (regBit a) (fun s =>
    let va := vaOf (s.reg a)
    if va % 8 ≠ 0 then .error (misalign 0 (word va))
    else
      orError (s.readSpan va 264)
        (fun (bs, s) => .ok (s.onJob (fun j =>
          { j with culture := j.culture.set dim.toNat (dimOfBytes bs) dim.isLt, qdirty := true })))
        (fun _ => .ok (s.vectorError 3))) s

/-- The Wheel bits of a step that has none. -/
def noWheel : Wheel := ⟨false, false, false, false⟩

/-- QSEL_WRITE: the write of QSEL by the V stream of the job in focus (R293). -/
def execQselWrite (v : Word) (s : State) : Out :=
  let s := { s with cur := .V }
  settle noWheel s (chooseSet (v.extractLsb' 0 8) s)

end Sys2Proof.Machine
end

