-- ==== Sys2Proof/Machine/Csr.lean ====
section
/-!
DEFINITION. Machine/Csr.lean: the CSRs and their field maps (spec/08_scalar_and_control.md R193 to R196 and the rules that
R195 names).
-/
namespace Sys2Proof.Machine

/-- Whether the job in focus is a supervisor job (R362). -/
def Job.supervisor (j : Job) : Bool := j.owner == 0

/-- The bits of RRB.BASE that are held for a rotating size (R135). While SIZE is 0, for which R135 defines neither S nor
its logarithm, no bit is held: a write is ignored and BASE reads 0 (DESIGN CHOICE, log 61). -/
def baseMask (size : BitVec 2) : BitVec 4 :=
  match size with
  | 1 => 7
  | 2 => 15
  | _ => 0

/-- A write of RCFG (R134): a refused value changes nothing. -/
def Job.writeRcfg (j : Job) (v : Word) : Job :=
  let size := v.extractLsb' 6 2
  let live := v.extractLsb' 0 5
  if size = 3 ∨ (size ≠ 0 ∧ (live = 0 ∨ rotSize size < live.toNat)) then j
  else { j with rsize := size, rlive := live, rbase := 0, slotLive := 0 }

/-- The entries of a fault ring (R364). -/
def ringSize (sz : BitVec 4) : Nat := 2 ^ (sz.toNat + 6)

/-- A write of FQHEAD (R364): HEAD first, then SZ and LOC where the ring is then empty. -/
def Die.writeFqHead (d : Die) (v : Word) : Die :=
  let head := v.extractLsb' 0 16
  let d := if (d.fqTail - head).toNat ≤ ringSize d.fqSz then { d with fqHead := head } else d
  let sz := v.extractLsb' 60 4
  if sz.toNat ≤ 10 ∧ d.fqHead = d.fqTail then { d with fqSz := sz, fqLoc := v.extractLsb' 16 40 } else d

/-- A VTYPE code (R264). -/
def etOfCode (v : Word) : Option Fmt := (fmtOfCode (bits v 0 4)).filter etOk

/-- The value of a CSR (R195). -/
def csrRead (n : BitVec 10) (s : State) : Word :=
  let j := s.job
  let t := s.st
  let d := s.dies[s.myDie]
  match n.toNat with
  | 0x000 => j.lid
  | 0x001 => j.owner.setWidth 64
  | 0x002 => j.sliceLo.setWidth 64
  | 0x003 => j.sliceHi.setWidth 64
  | 0x008 => t.fpctl
  | 0x009 => j.seed
  | 0x00A => word j.et.code
  | 0x00B => word (j.rsize.toNat * 2 ^ 6 + j.rlive.toNat)
  | 0x00C => (j.rbase &&& baseMask j.rsize).setWidth 64
  | 0x00D => word ((if j.qdirty then 2 ^ 8 else 0) + j.qset.toNat)
  | 0x010 => t.kern.setWidth 64
  | 0x011 => t.epi.setWidth 64
  | 0x018 => word ((if j.pvrPend then 2 ^ 32 else 0) + j.pvrNext.toNat * 2 ^ 16 + j.pvrCur.toNat)
  | 0x020 => t.uvec
  | 0x021 => word ((if t.inHandler then 2 ^ 63 else 0) + t.upend.toNat)
  | 0x022 => j.trapinfo
  | 0x023 => j.errcnt.setWidth 64
  | 0x024 => j.errtrap.setWidth 64
  | 0x028 => j.deadrd
  | 0x029 => j.pressstall
  | 0x200 => j.ttbase
  | 0x201 => s.epsmax.setWidth 64
  | 0x202 => s.vwater
  | 0x203 => s.safemax.setWidth 64
  | 0x204 => word (d.fqSz.toNat * 2 ^ 60 + d.fqLoc.toNat * 2 ^ 16 + d.fqHead.toNat)
  | 0x205 => word ((if d.fqOvf then 2 ^ 63 else 0) + d.fqTail.toNat)
  | n => (s.age[(n - 0x210) % 7]'(Nat.mod_lt _ (by decide))).setWidth 64

/-- Whether an access to the CSR is checked against the job's owner (R195). -/
def csrSupervisor (n : BitVec 10) : Bool := n.getLsbD 9
/-- Whether only V writes the CSR (R195). -/
def csrOnlyV (n : BitVec 10) : Bool := (0x00A ≤ n.toNat && n.toNat ≤ 0x00D) || n.toNat == 0x028

/-- The effect of a write on the fields of a CSR (R5, R195). A later read by another stream that nothing orders after the write
sees the new value, of the two that R32 allows (log 66). -/
def csrWrite (n : BitVec 10) (v : Word) (s : State) : Res State :=
  match n.toNat with
  | 0x008 => .ok (s.onSt (fun t => { t with fpctl := fpctlWrite t.fpctl v }))
  | 0x009 => .ok (s.onJob (fun j => { j with seed := v }))
  | 0x00A => .ok (s.onJob (fun j => { j with et := (etOfCode v).getD j.et }))
  | 0x00B => .ok (s.onJob (·.writeRcfg v))
  | 0x00C => .ok (s.onJob (fun j => { j with rbase := v.extractLsb' 0 4 &&& baseMask j.rsize }))
  | 0x00D => chooseSet (v.extractLsb' 0 8) s
  | 0x010 => .ok (s.onSt (fun t => { t with kern := v.extractLsb' 0 32 }))
  | 0x011 => .ok (s.onSt (fun t => { t with epi := v.extractLsb' 0 6 }))
  | 0x020 => .ok (s.onSt (fun t => { t with uvec := v &&& 0x81FF_FFFF_FFFF_FFFC }))
  | 0x021 => .ok (s.onSt (fun t => { t with upend := t.upend &&& ~~~(v.extractLsb' 0 16) }))
  | 0x023 => .ok (s.onJob (fun j => { j with errcnt := v.extractLsb' 0 32 }))
  | 0x024 => .ok (s.onJob (fun j => { j with errtrap := if v.extractLsb' 0 2 = 3#2 then j.errtrap else v.extractLsb' 0 2 }))
  | 0x028 => .ok (s.onJob (fun j => { j with deadrd := v }))
  | 0x029 => .ok (s.onJob (fun j => { j with pressstall := v }))
  | 0x200 => .ok (s.onJob (fun j => { j with ttbase := v &&& 0xE000_00FF_FFFF_FFE0 }))
  | 0x201 => .ok { s with epsmax := v.extractLsb' 0 32 }
  | 0x202 => .ok { s with vwater := if v.ult s.vwater then s.vwater else v }
  | 0x203 => .ok { s with safemax := if v.extractLsb' 0 16 = 0#16 then s.safemax else v.extractLsb' 0 16 }
  | 0x204 => .ok (s.onDie s.myDie (·.writeFqHead v))
  | 0x205 => .ok (s.onDie s.myDie (fun d => { d with fqOvf := d.fqOvf && !v.getLsbD 63 }))
  | n => .ok { s with age := s.age.set ((n - 0x210) % 7) (v.extractLsb' 0 16) (Nat.mod_lt _ (by decide)) }

/-- CSRR (R194). -/
def execCsrr (w : Wheel) (d : SReg) (n : BitVec 10) (s : State) : Out :=
  issue w 1 anyStream (regBit d) (fun s =>
    if csrSupervisor n && !s.job.supervisor then .error illegalStream else .ok (s.setReg d (csrRead n s))) s

/-- CSRW (R194). -/
def execCsrw (w : Wheel) (a : SReg) (n : BitVec 10) (s : State) : Out :=
  issue w 1 anyStream (regBit a) (fun s =>
    if (csrSupervisor n && !s.job.supervisor) || (csrOnlyV n && s.cur != .V) then .error illegalStream
    else csrWrite n (s.reg a) s) s

/-- RCFG_WRITE: a write of RCFG (R134). -/
def execRcfgWrite (v : Word) (s : State) : Out := .next (s.onJob (·.writeRcfg v))

/-- FQHEAD_WRITE: a write of the FQHEAD of the die of the job in focus (R364). -/
def execFqheadWrite (v : Word) (s : State) : Out := .next (s.onDie s.myDie (·.writeFqHead v))

end Sys2Proof.Machine
end

