-- ==== Sys2Proof/Machine/Sync.lean ====
section
/-!
DEFINITION. Machine/Sync.lean: NOP, SAFE, RDV, MARK, JOIN, BAR, WAITC and DISC, and the events that complete a barrier and
bring a marker to its head (spec/14_ordering_and_sync.md R308, R314 to R321; spec/19_traps_faults_preemption.md R376).
HALT and LAUNCH stand in Launch.lean.
-/
namespace Sys2Proof.Machine

/-! ## NOP, SAFE, RDV -/

/-- NOP (R315). -/
def execNop (w : Wheel) (s : State) : Out := issue w 1 anyStream 0 (fun s => .ok s) s

/-- A stream that passes the SAFE at which it was held runs on (R376). -/
def Stream.passSafe (t : Stream) : Stream := { t with phase := .running }

/-- SAFE (R315, R376): while pre-emption is requested, the stream holds before it issues. -/
def execSafe (w : Wheel) (id : BitVec 10) (s : State) : Out :=
  if s.st.phase = .running ∧ s.job.preempt = true then .next (s.onSt (fun t => { t with phase := .held id, blocked := none }))
  else issue w 1 anyStream 0 (fun s => .ok (s.onSt Stream.passSafe)) s

/-- A stream has reached its n-th RDV: it has passed it or stands at it (R316). -/
def Stream.reachedRdv (t : Stream) (n : Nat) : Bool := decide (n ≤ t.rdvs) || (t.atRdv && t.rdvs + 1 == n)

/-- RDV (R316): the stream stands at it from the moment it is its next instruction. What each stream knew of commits when the
first one passes it, all know after it (R347). -/
def execRdv (w : Wheel) (s : State) : Out :=
  issue w 1 anyStream 0 (fun s =>
    let n := s.st.rdvs + 1
    if allStreams.all (fun x => (s.job.stream x).reachedRdv n) then
      .ok ((s.onSt (fun t => { t with rdvs := n, atRdv := false })).onJob (fun j =>
        { j with flow := j.flow.meets s.cur (allStreams.all (fun x => decide ((s.job.stream x).rdvs < n))) }))
    else .error (.stall .rdv)) (s.onSt (fun t => { t with atRdv := true }))

/-! ## MARK and JOIN (R318, R319) -/

/-- Whether a command is still in a queue: it has not posted. -/
def Job.outstanding (j : Job) (id : Nat) : Bool := j.allCmds.any (·.id == id)

/-- The parties of an engine that have had a command accepted: those with a posting, and those with a command in the queue. -/
def Job.engineParties (j : Job) (e : Engine) : List (Nat × BitVec 4) :=
  ((List.range 16).filter (fun c => decide (0 < j.posts (1 + 16 * engineNo e + c)) || (j.cmds e).any (·.cc.toNat == c))).map
    (fun c => (engineNo e, BitVec.ofNat 4 c))

/-- A marker behind every command accepted so far into the queue of an engine (R318): `cs` have not posted. -/
def markerFor (q : MarkQueue) (parties : List (Nat × BitVec 4)) (scope : Scope) (cs : List Cmd) : Marker where
  queue := q
  ahead := cs.map (·.id)
  parties := parties
  scope := scope
  atHead := false

/-- The counters whose Copy Engine commands have handed transfers to the fabric queue. -/
def fabricParties (s : State) : List (Nat × BitVec 4) :=
  ((List.range 16).filter (fun c => s.job.fabricCcs.getLsbD c || s.job.ceQ.any (fun d => d.cc.toNat == c && peerCmd s d))).map
    (fun c => (engineNo .ce, BitVec.ofNat 4 c))

/-- The markers that a MARK places (R318). -/
def newMarkers (s : State) (eng : BitVec 4) (scope : Scope) : List Marker :=
  (if eng.getLsbD 0 then [markerFor .ce (s.job.engineParties .ce) scope s.job.ceQ] else []) ++
  (if eng.getLsbD 1 then [markerFor .mx (s.job.engineParties .mx) scope s.job.mxQ] else []) ++
  (if eng.getLsbD 2 then [markerFor .vq (s.job.engineParties .vq) scope s.job.vqQ] else []) ++
  (if eng.getLsbD 3 then [markerFor .fq (fabricParties s) scope (s.job.ceQ.filter (peerCmd s))] else [])

/-- MARK. -/
def execMark (w : Wheel) (eng : BitVec 4) (scope : Scope) (s : State) : Out :=
  issue w 1 anyStream 0 (fun s => .ok (s.onSt (fun t => { t with markers := t.markers ++ newMarkers s eng scope }))) s

/-- The engine of a number. -/
def engineOf (n : Nat) : Engine :=
  match n with
  | 0 => .ce | 1 => .mx | _ => .vq

/-- A marker at its head acts as a WAITC for the parties ahead of it, except at CORE (R319). -/
def Job.passMarker (j : Job) (m : Marker) : Job :=
  if m.scope = .core then j
  else m.parties.foldl (fun j p => j.acquireThread (threadSub (engineOf p.1) p.2)) j

/-- JOIN. -/
def execJoin (w : Wheel) (s : State) : Out :=
  issue w 1 anyStream 0 (fun s =>
    if s.st.markers.all (·.atHead) then
      .ok ((s.onJob (fun j => s.st.markers.foldl Job.passMarker j)).onSt (fun t => { t with markers := [] }))
    else .error (.stall .join)) s

/-- Whether a command names no source tile and no accumulator to read: all that it reads are the registers and CSRs that it
captured at acceptance (R31, R216, R219). -/
def Instr.capturedOnly : Instr → Bool
  | .tfill .. | .publ .. | .obopen .. | .obclose .. | .mzero .. => true
  | i => (amoOf i).isSome

/-- Whether a command that has not posted has read all that it reads (R318): one that reads what it captured, or a TCOMMIT that
waits at its home with the version that it has prepared (R345). -/
def Job.hasRead (j : Job) (id : Nat) : Bool :=
  j.allCmds.any (fun c => c.id == id && (Instr.capturedOnly c.instr || c.ver.isSome))

/-- A marker is at its head when every command ahead of it has posted, or at CORE has read its source (R318). -/
def Marker.settle (j : Job) (m : Marker) : Marker :=
  if m.ahead.any (fun c => j.outstanding c && !(m.scope == .core && j.hasRead c)) then m else { m with atHead := true }

/-- A stream that waits at a JOIN for markers that have all reached their heads is blocked no more (R318, R376). -/
def Stream.joinReady (t : Stream) : Stream :=
  if t.blocked = some .join ∧ t.markers.all (·.atHead) = true then { t with blocked := none } else t

/-- Change the n-th marker of the job's streams, counted A, M, V, E. -/
def Job.settleMarker (j : Job) (n : Nat) : Job :=
  let go := fun (acc : Job × Nat) (x : StreamId) =>
    let t := acc.1.stream x
    let ms := t.markers
    let i := acc.2
    let ms' := ms.zipIdx.map (fun (m, k) => if i + k = n then m.settle j else m)
    (acc.1.setStream x { t with markers := ms' }.joinReady, i + ms.length)
  (allStreams.foldl go (j, 0)).1

/-- MARKER_HEAD: the n-th marker of the job in focus reaches its head if the commands ahead of it have posted (R318). -/
def execMarkerHead (n : Nat) (s : State) : Out := .next (s.onJob (·.settleMarker n))

/-! ## BAR (R317) -/

/-- The place of a scope among the counts of BARs. -/
def barIndex : Scope → Fin 4
  | .cluster => 0
  | .die => 1
  | .pkg => 2
  | .grant | .core | .sys => 3

/-- The order of the scopes with an instance (R93). -/
def scopeRank : Scope → Nat
  | .core => 0 | .cluster => 1 | .die => 2 | .pkg => 3 | .grant => 4 | .sys => 5

/-- The number of the instance that a BAR of a job synchronises (R93). -/
def Job.barInst (j : Job) : Scope → Option Nat
  | .cluster => j.clusterNo
  | .die => j.dieNo
  | .pkg => j.pkgNo
  | .grant => j.grantNo
  | .core | .sys => none

/-- Whether a BAR at a scope raises BARRIER_SCOPE (R93, R114). -/
def Job.barForbidden (j : Job) (sc : Scope) : Bool :=
  j.pipeline || (j.barInst sc).isNone || (sc != .cluster && decide (j.coscope < scopeRank sc))

/-- Issue the job's next BAR at a scope. -/
def State.startBar (s : State) (sc : Scope) : State :=
  let i := barIndex sc
  let n := s.job.bars[i] + 1
  let ahead := s.job.allCmds.map (·.id)
  (s.onJob (fun j => { j with bars := j.bars.set i n })).onSt (fun t =>
    { t with barAt := some ⟨sc, n, ahead, false⟩, blocked := some .bar })

/-- BAR: it issues and waits; once the barrier is complete, its stream goes on. -/
def execBar (w : Wheel) (sc : Scope) (s : State) : Out :=
  match s.st.barAt with
  | some b =>
    if b.done then settle w s (.ok ((s.onSt (fun t => { t with barAt := none })).advance 1)) else .next (s.block .bar)
  | none =>
    match s.job.takeTokens s.cur w with
    | none => .next (s.block .token)
    | some j =>
      if s.job.barForbidden sc then .next (takeTrap ⟨0x0C, 3, 0, none⟩ s) else .next ((s.setJob j).startBar sc)

/-- Whether a job has arrived with its n-th BAR at a scope (R317). -/
def Job.arrived (j : Job) (sc : Scope) (n : Nat) : Bool :=
  decide (n ≤ j.bars[barIndex sc]) &&
    allStreams.all (fun x =>
      match (j.stream x).barAt with
      | some b => !(b.scope == sc && b.no == n) || !b.ahead.any j.outstanding
      | none => true)

/-- The lowest BAR at a scope that a stream of the job waits at. -/
def Job.waitsAt (j : Job) (sc : Scope) : Option Nat :=
  (allStreams.filterMap (fun x => ((j.stream x).barAt.filter (fun b => b.scope == sc && !b.done)).map (·.no))).min?

/-- The COUNTs of the levels of a record, top down (R89). -/
def levelCounts (ws : List Word) : List Nat :=
  (List.range (bits (ws.getD 0 0) 26 4)).map (fun k => bits (ws.getD (4 + k / 2) 0) (32 * (k % 2)) 16)
/-- The KINDs of the levels of a record, top down. -/
def levelKinds (ws : List Word) : List Nat :=
  (List.range (bits (ws.getD 0 0) 26 4)).map (fun k => bits (ws.getD (4 + k / 2) 0) (32 * (k % 2) + 29) 3)

/-- The scope that a level binds, given the scope bound above it (R91): the codes of R300, CORE 0. -/
def boundScope (above : Nat) (kind : Nat) : Nat :=
  match kind with
  | 1 => 4 | 2 => 3 | 3 => 2 | 4 => 1 | 6 => above | _ => 0

/-- The scopes that the levels bind, top down. -/
def boundScopes (multi : Bool) (kinds : List Nat) : List Nat :=
  (kinds.foldl (fun (acc : List Nat × Nat) k =>
    let b := boundScope acc.2 k
    (acc.1 ++ [b], if k = 6 then acc.2 else b)) ([], if multi then 4 else 3)).1

/-- The innermost level that binds a scope code above CORE. -/
def innermostLevel (multi : Bool) (kinds : List Nat) (code : Nat) : Option Nat :=
  ((boundScopes multi kinds).zipIdx.filter (·.1 == code)).getLast?.map (·.2)

/-- The product of a list. -/
def product (xs : List Nat) : Nat := xs.foldl (· * ·) 1

/-- The jobs that the instance at a scope holds (R92, R93). -/
def instanceJobs (ws : List Word) (sc : Scope) : Nat :=
  match innermostLevel ((ws.getD 0 0).getLsbD 33) (levelKinds ws) (scopeRank sc) with
  | some k => product ((levelCounts ws).drop (k + 1))
  | none => 0

/-- The packages of a grant: those of the box (R89). -/
def packagesOf (ws : List Word) : Nat :=
  let w := ws.getD 2 0
  if (ws.getD 0 0).getLsbD 33 then (bits w 48 4 + 1) * (bits w 44 4 + 1) * (bits w 40 4 + 1) else 1

/-- The jobs of a launch that this package runs, from job 0 (R92; log 27): with a PKG level PKG instance 0; without one the
first of the equal parts into which the instances of the largest other hardware level, or the jobs, are divided. -/
def shareOf (ws : List Word) : Nat :=
  let total := product (levelCounts ws)
  let size := fun (k : Nat) => product ((levelCounts ws).drop (k + 1))
  let levels := (levelKinds ws).zipIdx
  if (ws.getD 0 0).getLsbD 33 then
    match levels.find? (·.1 == 2) with
    | some k => size k.2
    | none =>
      let z := ((levels.find? (fun k => decide (3 ≤ k.1 ∧ k.1 ≤ 5))).map (fun k => size k.2)).getD 1
      min total ((total / z + packagesOf ws - 1) / packagesOf ws * z)
  else total

/-- Raise the generation of an instance (R308). -/
def raiseGen (launch : Nat) (sc : Scope) (no : Nat) (bs : List BarInst) : List BarInst :=
  let old := ((bs.find? (fun b => b.launch == launch && b.scope == sc && b.no == no)).map (·.gen)).getD 0
  ⟨launch, sc, no, old + 1⟩ :: bs.filter (fun b => !(b.launch == launch && b.scope == sc && b.no == no))

/-- A stream's BAR is complete. -/
def Stream.endBar (t : Stream) (sc : Scope) (n : Nat) : Stream :=
  match t.barAt with
  | some b => if b.scope = sc ∧ b.no = n then { t with barAt := some { b with done := true } } else t
  | none => t

/-- Complete the n-th BAR at a scope in every stream of a job. -/
def Job.endBar (j : Job) (sc : Scope) (n : Nat) : Job :=
  { j with a := j.a.endBar sc n, m := j.m.endBar sc n, v := j.v.endBar sc n, e := j.e.endBar sc n }

/-- The live jobs of the instance at a scope around the job in focus. -/
def State.instanceOf (s : State) (sc : Scope) : List Job :=
  s.liveJobs.filter (fun i => i.launch == s.job.launch && (i.barInst sc).isSome && i.barInst sc == s.job.barInst sc)

/-- The PKG instances that hold the jobs of an instance: a GRANT barrier raises their generation too (R308). -/
def pkgNumbers (js : List Job) : List Nat := (js.filterMap (·.pkgNo)).eraseDups

/-- A peer package's party advances at a GRANT barrier of the receiving package's launches (R309). -/
def State.advancePeer (s : State) (sc : Scope) : State :=
  if sc = .grant then { s with host := { s.host with peerEpoch := s.host.peerEpoch + 1 } } else s

/-- The n-th BAR at a scope completes for the instance around the job in focus (R308, R317). -/
def State.completeBar (s : State) (sc : Scope) (n no : Nat) : State :=
  let js := s.instanceOf sc
  let uids := js.map (·.uid)
  let g := fun (j : Job) => if uids.contains j.uid then (j.endBar sc n).wake else j
  let dies := (js.map (fun j => s.dieOf j.core)).eraseDups
  let s := dies.foldl (fun s a => dies.foldl (fun s b => s.gossip a b) s) s
  let bars := raiseGen s.job.launch sc no s.bars
  let bars := if sc = .grant then (pkgNumbers js).foldl (fun b p => raiseGen s.job.launch .pkg p b) bars else bars
  (({ s with bars := bars }).mapJobs g).advancePeer sc

/-- BARRIER_COMPLETE: the barrier at which a stream of the job in focus waits completes once every job of the instance has
arrived (R317): those on this package, and where the instance has jobs on other packages of the grant, those too, as the
event says (log 27). -/
def execBarrierComplete (arrivals : Arrivals) (s : State) : Out :=
  let sc := arrivals.scope
  match s.job.waitsAt sc, s.job.barInst sc, s.launch? s.job.launch with
  | some n, some no, some l =>
    let js := s.instanceOf sc
    let z := instanceJobs l.words sc
    let here := min ((no + 1) * z) (shareOf l.words) - no * z
    if here ≤ js.length ∧ js.all (·.arrived sc n) = true ∧ (here = z ∨ arrivals.others = true) then .next (s.completeBar sc n no)
    else .next s
  | _, _, _ => .next s

/-! ## WAITC and DISC (R320, R321) -/

/-- The number of the posting that is consumed next. -/
def Job.nextPost (j : Job) (c : Cc) : BitVec 32 := (j.consumed[c.toNat]'c.isLt) + 1

/-- One more posting of a counter consumed. -/
def Job.consume (j : Job) (c : Cc) : Job :=
  { j with
    consumed := j.consumed.set c.toNat (j.nextPost c) c.isLt
    launchPosts := j.launchPosts.filter (· != (c, j.nextPost c)) }

/-- The posting that is consumed next is the launch controller's: it acquires nothing (R320). -/
def Job.fromLaunch (j : Job) (c : Cc) : Bool := j.launchPosts.contains (c, j.nextPost c)

/-- Whether a posting of a counter is not yet consumed: COUNT − W, read as an I32, is at least 1 (R320). -/
def Job.hasPosting (j : Job) (c : Cc) : Bool :=
  decide (0 < ((j.cc[c.toNat]'c.isLt).extractLsb' 0 32 - j.consumed[c.toNat]'c.isLt).toInt)

/-- The job acquires the three thread parties of a counter (R320). -/
def Job.acquireCounter (j : Job) (c : Cc) : Job :=
  ((j.acquireThread (threadSub .ce c)).acquireThread (threadSub .mx c)).acquireThread (threadSub .vq c)

/-- The error event of a WAITC whose counter's LAST is an error status (R371). It goes by LAST also where the posting that it consumes
is a LAUNCH's, which by R327 alone would be no event: DEDUCED (log 79). -/
def State.waitError (s : State) (c : Cc) (x : Word) : State :=
  if isErrorStatus (bits x 48 16) then s.errorEvent 1 ⟨BitVec.ofNat 16 (bits x 48 16), 1, c⟩ else s

/-- WAITC. -/
def execWaitc (w : Wheel) (d : SReg) (c : Cc) (s : State) : Out :=
  issue w 1 anyStream (regBit d) (fun s =>
    if s.job.hasPosting c then
      let x := s.job.cc[c.toNat]'c.isLt
      .ok (((s.onJob (fun j => if j.fromLaunch c then j.consume c else (j.consume c).acquireCounter c)).setReg d x).waitError c x)
    else .error (.stall .waitc)) s

/-- DISC. -/
def execDisc (w : Wheel) (c : Cc) (s : State) : Out := issue w 1 anyStream 0 (fun s => .ok (s.onJob (·.consume c))) s

end Sys2Proof.Machine
end

