-- ==== Sys2Proof/Machine/Context.lean ====
section
/-!
DEFINITION. Machine/Context.lean: the image of a saved context: its header and its sections in their order
(spec/19_traps_faults_preemption.md R377; notes/assumptions 29).
-/
namespace Sys2Proof.Machine

/-- Whether a slot of the vector file is in a context: a static register, or a live rotating slot (R136, R377). -/
def Job.slotSaved (j : Job) (i : Nat) : Bool := i < 16 || decide (j.rot ≤ i - 16) || j.slotLive.getLsbD (i - 16)

/-- The slots of the vector file that a context holds. -/
def Job.savedSlots (j : Job) : List (Fin 32) := (List.finRange 32).filter (fun i => j.slotSaved i.val)

/-- The thread tables that a context holds: those of parties whose counter has postings that are not consumed (R377). -/
def Job.savedTables (j : Job) : List (Nat × AcqTable) :=
  j.threadAcq.filter (fun t => j.hasPosting (BitVec.ofNat 4 ((t.1 - 1) % 16)))

/-- A job as its context holds it: dead rotating slots and thread tables without postings are left out (R136, R377). -/
def Job.context (j : Job) : Job :=
  { j with
    vregs := Vector.ofFn (fun i : Fin 32 => if j.slotSaved i.val then j.vregs[i] else 0)
    threadAcq := j.savedTables }

/-- The content of a section: words; bytes; the bytes of a range of which some are listed; or what has a size and no layout in
the manual: acquire tables, the ordering state, and dimension records of 65 words. -/
inductive CtxData where
  | words (ws : List Word)
  | bytes (bs : List Byte)
  | cells (len : Nat) (cs : List Host.Cell)
  | ordering (epoch : Nat) (acq : AcqTable) (calls : List Nat) (bars : List Nat)
  | tables (ts : List (Nat × AcqTable))
  | culture (ds : List DimRec)
  deriving DecidableEq, Repr

/-- The size of a section in bytes (R377). -/
def CtxData.size : CtxData → Nat
  | .words ws => 8 * ws.length
  | .bytes bs => bs.length
  | .cells len _ => len
  | .ordering .. => 320
  | .tables ts => 256 * ts.length
  | .culture ds => 260 * ds.length

/-- Words up to a number of them, the rest zero. -/
def padWords (n : Nat) (ws : List Word) : List Word := ws ++ List.replicate (n - ws.length) 0

/-- The words of some bits, lowest first. -/
def bitWords {n : Nat} (x : BitVec n) : List Word := (List.range (n / 64)).map (fun i => x.extractLsb' (64 * i) 64)

/-- The 32 words of a stream, in the order of its section: PC; s1 to s15 and the pair tags; the shadow bank and its tags; FPCTL,
LOOPC, LOOPE, UVEC, USTAT; the RDV count. -/
def Stream.words (t : Stream) : List Word :=
  [t.pc.setWidth 64] ++ t.regs.toList.drop 1 ++ [t.tags.setWidth 64] ++ t.shadow.toList ++
    [t.shadowTags.setWidth 64, t.fpctl, t.kern.setWidth 64, t.epi.setWidth 64, t.uvec,
      word ((if t.inHandler then 2 ^ 63 else 0) + t.upend.toNat), word t.rdvs]

/-- The words of the V job CSRs: VTYPE, RCFG, RRB and the live bits, DEADRD, QSEL. -/
def Job.vCsrWords (j : Job) : List Word :=
  [word j.et.code, word (j.rsize.toNat * 2 ^ 6 + j.rlive.toNat), word (j.slotLive.toNat * 2 ^ 16 + j.rbase.toNat), j.deadrd,
    word ((if j.qdirty then 2 ^ 8 else 0) + j.qset.toNat)]

/-- The words of the job CSRs: SEED, PVR, TRAPINFO, ERRCNT, ERRTRAP, PRESSSTALL, TTBASE, OWNER, LID, SLICELO, SLICEHI. -/
def Job.csrWords (j : Job) : List Word :=
  [j.seed, word ((if j.pvrPend then 2 ^ 32 else 0) + j.pvrNext.toNat * 2 ^ 16 + j.pvrCur.toNat), j.trapinfo,
    j.errcnt.setWidth 64, j.errtrap.setWidth 64, j.pressstall, j.ttbase, j.owner.setWidth 64, j.lid, j.sliceLo.setWidth 64,
    j.sliceHi.setWidth 64]

/-- The bytes of a held A: its descriptor and its values (R244). -/
def HeldA.bytes (h : HeldA) : List Byte := leBytes 64 h.entry.toNat ++ (h.entry.put 0 55 2 0).backing ⟨h.vals, h.mx⟩

/-- The cells of a saved job that lie below 2^16, its LTT's, and the others, its scratch's, by their offsets. -/
def partCells (ltt : Bool) (cells : List Host.Cell) : List Host.Cell :=
  cells.filterMap (fun x => if ltt then (if x.1 < 2 ^ 16 then some x else none) else if x.1 < 2 ^ 16 then none else some (x.1 - 2 ^ 16, x.2))

/-- The sections of a context after its header, in the order of R377: whether each is present, and its content. -/
def Job.sections (j : Job) (cells : List Host.Cell) : List (Bool × CtxData) :=
  let streams := allStreams.map j.stream
  let dense := j.acc.toList.filter (fun a => !a.status.getLsbD 37)
  [(true, .words (streams.flatMap Stream.words)),
   (true, .words (streams.flatMap (·.spill.toList))),
   (true, .words (j.savedSlots.flatMap (fun i => bitWords j.vregs[i]))),
   (true, .words ((j.pregs.toList.drop 1).flatMap bitWords)),
   (true, .words (padWords 8 j.vCsrWords)),
   (true, .words (j.vspill.toList.flatMap bitWords)),
   (true, .words (j.acc.toList.map (·.status) ++ [j.accv])),
   (!dense.isEmpty, .words (dense.flatMap (fun a => a.rows.toList.flatMap bitWords))),
   (j.heldA.isSome, .bytes (j.heldA.elim [] HeldA.bytes)),
   (true, .words (j.cc.toList ++ (List.range 8).map (fun i =>
      word ((j.consumed.toList.getD (2 * i + 1) 0).toNat * 2 ^ 32 + (j.consumed.toList.getD (2 * i) 0).toNat)))),
   (true, .ordering j.epoch j.acq [j.a.calls, j.e.calls] j.bars.toList),
   (!j.savedTables.isEmpty, .tables j.savedTables),
   (true, .words (padWords 12 j.csrWords)),
   (true, .cells 65536 (partCells true cells)),
   (true, .cells (512 * 2 ^ j.scrlog) (partCells false cells)),
   (j.qdirty, .culture j.culture.toList)]

/-- A context (R377): the header's job identity, held SAFE id, presence mask (bit i for section i) and section lengths, and the
sections that are present. The header's own layout is the firmware's (log 29). -/
structure CtxImage where
  uid : Nat
  lid : Word
  held : Option (BitVec 10)
  present : List Bool
  lengths : List Nat
  sections : List CtxData
  deriving DecidableEq, Repr

/-- The id of the SAFE at which the streams of a job are held. -/
def Job.heldId (j : Job) : Option (BitVec 10) :=
  (allStreams.filterMap (fun x => match (j.stream x).phase with | .held i => some i | _ => none)).head?

/-- The image in the save area of a saved job with the bytes of its LTT and scratch (R377). -/
def Job.image (j : Job) (cells : List Host.Cell) : CtxImage :=
  let ps := j.sections cells
  ⟨j.uid, j.lid, j.heldId, ps.map (·.1), (ps.filter (·.1)).map (·.2.size), (ps.filter (·.1)).map (·.2)⟩

/-- The image of a pre-empted job. -/
def State.contextOf (s : State) (uid : Nat) : Option CtxImage := (s.saved.find? (·.1.uid == uid)).map (fun q => q.1.image q.2)

/-- The bytes of a context: its header and its sections (R377). -/
def CtxImage.bytes (c : CtxImage) : Nat := 64 + c.lengths.foldl (· + ·) 0

end Sys2Proof.Machine
end

