-- ==== Sys2Proof/Machine/Fetch.lean ====
section
/-!
DEFINITION. Machine/Fetch.lean: what comes before an instruction: whether its stream may issue, the delivery of user-level
interrupts, and fetching and decoding (spec/06_streams_and_words.md R119, R120, R124, R143;
spec/19_traps_faults_preemption.md R373); and placing an instruction where it is fetched next.
-/
namespace Sys2Proof.Machine

/-- Whether the stream in focus may issue: its job runs, and it has not halted and is not held (R117, R119, R376). -/
def State.canIssue (s : State) : Bool :=
  s.job.phase == .running && (match s.st.phase with | .running | .released => true | .held _ | .halted => false)

/-- The signals that a stream still owes are added where there is room (R124); a stream that waits for a token looks again. -/
def Job.payOwed (j : Job) (x : StreamId) : Job := if (j.flush x).tokens = j.tokens then j else (j.flush x).wake

/-- The same for the stream in focus. -/
def State.flush (s : State) : State := s.onJob (·.payOwed s.cur)

/-- Whether the stream in focus owes a signal: it issues nothing further (R124). -/
def State.owes (s : State) : Bool := s.st.oweP || s.st.oweS

/-- Whether stream x of the job takes an interrupt at this boundary (R373): a BAR that has arrived is no boundary, nor a TREDST
that waits for its record. -/
def Job.wantsInterrupt (j : Job) (x : StreamId) : Bool :=
  let t := j.stream x
  j.phase == .running && t.uvec.getLsbD 63 && !t.inHandler && t.barAt.isNone && t.redAt.isNone && (t.upend != 0 || t.errEvent.isSome) &&
    (match t.phase with | .running | .released => true | .held _ => !j.preempt | .halted => false)

/-- The lowest set bit of PEND (R373). -/
def lowestBit (x : BitVec 16) : Cc := BitVec.ofNat 4 (((List.range 16).find? (x.getLsbD ·)).getD 0)

/-- Deliver an interrupt to stream x (R373). One that was released at a SAFE holds again at its next SAFE, in the handler or
after it (R376). -/
def Job.deliver (j : Job) (x : StreamId) : Job :=
  let t := j.stream x
  let ret := t.pc.setWidth 64
  let c := lowestBit t.upend
  let (info, t) := match t.errEvent with
    | some e => (e.status.toNat * 2 ^ 16 + e.src.toNat * 2 ^ 8 + e.cc.toNat, { t with errEvent := none })
    | none => (bits (j.cc[c.toNat]'c.isLt) 48 16 * 2 ^ 16 + c.toNat, { t with upend := putBit t.upend c.toNat false })
  let t := { t with inHandler := true, atRdv := false, blocked := none, attempt := 0, laterAttempt := t.attempt }
  let t := { (t.setReg 15 ret).setReg 14 (word info) with phase := .running }
  j.setStream x { t with pc := BitVec.ofNat 57 (bits t.uvec 2 55 * 4) }

/-- An interrupt is delivered to stream x of the job in focus; a load that stood next in V holds no writes then (R329). -/
def State.interrupt (s : State) (x : StreamId) : State :=
  let s := s.onJob (·.deliver x)
  if x = .V then s.endHolds (streamHold s.job.uid) else s

/-- One instruction word at a program counter: FETCH_BOUND outside the stream's segment (R120). The fetch reaches the home of the
code, and floors go both ways (R338); one that meets an uncorrectable error is dropped (R394; log 42). -/
def fetchWord (s : State) (pc : VA) : Res (IWord × State) :=
  let (base, len) := s.job.segs[streamNo s.cur]'(by cases s.cur <;> decide)
  if pc.toNat < base.toNat ∨ base.toNat + len < pc.toNat + 4 then .error (trapAt 0x03 2 0)
  else
    (s.translate pc.toNat 2).bind fun (p, s) =>
      (p.cell 4).bind fun k => (needGood s k 4).map fun _ => (BitVec.ofNat 32 (s.load k 4), s.exchangeWith k)

/-- Fetch and decode the instruction at the pc of the stream in focus; a word that R143 rejects is ILLEGAL_ENCODING. The
trap comes at the fetch: the word waits for no token that its WP and WS bits might name, for which R143 gives no moment
(DEDUCED, log 1). -/
def fetch (s : State) : Res (Instr × State) :=
  (fetchWord s s.st.pc).bind fun (w, s) =>
    if isLong w then
      (fetchWord s (s.st.pc + 4)).bind fun (w2, s) =>
        match decodeLong w w2 with
        | .ok i => .ok (i, s)
        | .error _ => .error illegalEncoding
    else
      match decodeShort w with
      | .ok i => .ok (i, s)
      | .error _ => .error illegalEncoding

/-- A stream that may issue an encoded instruction (R144, R145). -/
def Instr.home : Instr → StreamId
  | .mma .. | .macc .. | .mzero .. | .mdrain .. | .mstat .. | .mmov .. | .mmat .. => .M
  | .publ .. => .E
  | .vpush .. | .vpop .. | .vspill .. | .vfill .. | .vadd .. | .vsub .. | .vmul .. | .vfma .. | .vfms .. | .vfnma ..
  | .vmin .. | .vmax .. | .vabs .. | .vneg .. | .vdiv .. | .vsqrt .. | .vrsq .. | .vrcp .. | .vexp2 .. | .vlog2 ..
  | .vtanh .. | .vsigm .. | .vceq .. | .vcne .. | .vclt .. | .vcle .. | .vcun .. | .viadd .. | .visub .. | .vimul ..
  | .vand .. | .vor .. | .vxor .. | .vshl .. | .vshr .. | .vsra .. | .vimin .. | .vimax .. | .vrsum .. | .vrmax ..
  | .vrmin .. | .vrargmx .. | .kand .. | .kor .. | .kxor .. | .knot .. | .kpop .. | .kfirst .. | .kset .. | .vcvt ..
  | .vquant .. | .vdeq .. | .vcfg .. | .vcomp .. | .vexpd .. | .vperm .. | .vslide .. | .vbcast .. | .viota ..
  | .vsel .. | .vmov .. | .vext .. | .vins .. | .vld .. | .vldg .. | .vst .. | .vsts .. | .qrn .. | .qcfg ..
  | .qldt .. | .vtok .. | .pvset .. | .tokbnd .. => .V
  | _ => .A

/-- The translations under which `placeCode` puts code: the page of the pc and the next one, in pages 0 and 1 of package
memory. -/
def codeTlb (o : BitVec 16) (pc : Nat) : List TlbEntry :=
  let leaf := fun n => word (2 ^ 63 + 3 * 2 ^ 60 + 2 ^ 59 + 2 ^ 57 + n * 2 ^ 12)
  [⟨o, pc / 2 ^ 12 * 2 ^ 12, 12, leaf 0⟩, ⟨o, (pc / 2 ^ 12 + 1) * 2 ^ 12, 12, leaf 1⟩]

/-- Place the eight code bytes `bs` where stream x of core 0 fetches next, and let it be the next to issue (log 14): the
job runs, the stream's segment covers the bytes, its code page is mapped, and the bytes stand in package memory. -/
def placeCode (s : State) (x : StreamId) (bs : List Byte) : State :=
  let s := s.focus 0
  let j := s.job
  let t := j.stream x
  let pc := t.pc.toNat
  let j := { j with
    uid := if j.uid = 0 then s.nextUid else j.uid
    phase := .running
    segs := j.segs.set (streamNo x) (t.pc, 8) (by cases x <;> decide) }
  let j := j.setStream x { t with phase := .running, oweP := false, oweS := false, barAt := none, redAt := none }
  { s with
    job := j
    cur := x
    nextUid := s.nextUid + 1
    tlb := codeTlb j.owner pc ++ s.tlb
    mem := memWrite s.mem (cellKey .pkg (pc % 2 ^ 12)) bs
    agenda := [⟨0, .issue x, []⟩] }

end Sys2Proof.Machine
end

