-- ==== Sys2Proof/Machine/Faults.lean ====
section
/-!
DEFINITION. Machine/Faults.lean: TRAP, FQACK, SRET and URET, and the events of faults: an entry is written into its ring,
an acknowledged fault resumes, a job stalls on the Wheel, an interrupt is delivered, and an error in architectural state
(spec/19_traps_faults_preemption.md R360 to R374; spec/05_launch.md R117).
-/
namespace Sys2Proof.Machine

/-! ## TRAP (R367) -/

/-- TRAP parks the job with the tokens of its waits taken and the pc at the next word. -/
def callSupervisor (w : Wheel) (d a : SReg) (j : Job) (s : State) : State :=
  let t := (s.setJob j).advance 1
  takeTrapAt s.cur s.st.pc ⟨0x14, 3, s.reg a, none⟩ (some (d, w)) t

/-- TRAP: its signals act when the job resumes. -/
def execTrap (w : Wheel) (d a : SReg) (s : State) : Out :=
  if s.st.pendMask &&& (regBit d ||| regBit a) != 0 then .next (s.block .pending)
  else
    match s.job.takeTokens s.cur w with
    | none => .next (s.block .token)
    | some j => .next (callSupervisor w d a j s)

/-! ## FQACK and SRET (R366 to R368) -/

/-- The parked fault that an acknowledgement names and that has not been acknowledged (R368). -/
def State.awaiting (s : State) (seq : BitVec 32) : Option Parked :=
  s.parked.find? (fun f => f.seq == seq && f.ack.isNone)

/-- Record an acknowledgement: what the acknowledging job passes on goes to the resumed party (R368, R370), and its floors travel
with it (R338). R305 does not list it among the releases, whose epoch R370 needs: that it is one is DEDUCED (log 81). -/
def State.acknowledge (s : State) (seq : BitVec 32) (a : Ack) : State :=
  let t : State := { s with parked := s.parked.map (fun (f : Parked) =>
    if f.seq = seq then { f with ack := some a, carried := s.job.passes } else f) }
  (t.onJob (fun j => j.release.2)).spread s.myDie

/-- FQACK with act = end: the job of a parked fault ends with the fault's code, and no second entry is written. -/
def State.endParked (s : State) (f : Parked) : State :=
  { s with parked := s.parked.filter (·.seq != f.seq) }.endByTrap f.uid f.code

/-- The SEQ that a register names. -/
def seqOf (w : Word) : BitVec 32 := w.extractLsb' 0 32

/-- FQACK. -/
def execFqack (w : Wheel) (d a : SReg) (endJob : Bool) (s : State) : Out :=
  issue w 1 anyStream (regBit d ||| regBit a) (fun s =>
    if !s.job.supervisor then .error illegalStream
    else
      match s.awaiting (seqOf (s.reg a)) with
      | none => .ok (s.setReg d 1)
      | some f => .ok (if endJob then (s.setReg d 0).endParked f else (s.setReg d 0).acknowledge f.seq .retry)) s

/-- SRET: status 2 for an entry whose code is not SVC. -/
def execSret (w : Wheel) (d a r : SReg) (s : State) : Out :=
  issue w 1 anyStream (regBit d ||| regBit a ||| regBit r) (fun s =>
    if !s.job.supervisor then .error illegalStream
    else
      match s.awaiting (seqOf (s.reg a)) with
      | none => .ok (s.setReg d 1)
      | some f =>
        if f.code = 0x14 then .ok ((s.setReg d 0).acknowledge f.seq (.reply (s.reg r))) else .ok (s.setReg d 2)) s

/-! ## URET (R374) -/

/-- The return address of a handler: shadow s15. -/
def Stream.returnTo (t : Stream) : Word := t.shadow[7]

/-- A stream that leaves its handler. -/
def Stream.leave (t : Stream) : Stream := { t with pc := t.returnTo.extractLsb' 0 57, inHandler := false }

/-- URET. -/
def execUret (w : Wheel) (s : State) : Out :=
  issue w 1 anyStream (regBit 15) (fun s =>
    if !s.st.inHandler then .error illegalStream
    else if s.st.returnTo.extractLsb' 0 2 ≠ 0#2 then .error (misalign 2 (word (vaOf s.st.returnTo)))
    else .ok (s.onSt Stream.leave)) s

/-! ## The fault ring (R364, R365) -/

/-- The Vat address of the ring entry of an index. -/
def Die.ringAddr (d : Die) (i : BitVec 16) : Nat := 512 * d.fqLoc.toNat + 32 * (i.toNat % ringSize d.fqSz)

/-- Whether the ring is full. -/
def Die.ringFull (d : Die) : Bool := (d.fqTail - d.fqHead).toNat == ringSize d.fqSz

/-- Store the four words of an entry. -/
def State.storeEntry (s : State) (k : Nat) (e : Word × Word × Word × Word) : State :=
  (((s.store64 k e.1).store64 (k + 8) e.2.1).store64 (k + 16) e.2.2.1).store64 (k + 24) e.2.2.2

/-- The owner that a fault entry names (R365). -/
def entryOwner (e : Word × Word × Word × Word) : BitVec 16 := e.2.1.extractLsb' 16 16

/-- FAULT_ENTRY_WRITE: the die writes its oldest waiting entry, and then TAIL counts it; into a full ring it waits, and OVF
is set. A store that meets an uncorrectable error in the Vat is dropped and counted for the entry's owner, and the die makes it
again (R393, R394; log 42). -/
def execFaultEntryWrite (die : BitVec 2) (s : State) : Out :=
  let i := die.toFin
  let d := s.dies[i]
  match d.waiting with
  | [] => .next s
  | e :: rest =>
    if d.ringFull then .next (s.onDie i (fun d => { d with fqOvf := true }))
    else
      let pa := d.ringAddr d.fqTail
      if pa + 32 ≤ tierSize .vat then
        if !s.good (cellKey .vat pa) 32 then .next (s.countCorrupt (entryOwner e))
        else .next ((s.storeEntry (cellKey .vat pa) e).onDie i (fun d => { d with fqTail := d.fqTail + 1, waiting := rest }))
      else .fault (.noSuchAddress .vat pa)

/-- FAULT_RESUME: the fault that stands first among those that may resume on its die resumes (R369). -/
def execFaultResume (seq : BitVec 32) (s : State) : Out :=
  match nextResumable s.parked (seq.extractLsb' 30 2) with
  | some f => if f.seq = seq then .next (resumeFault f s) else .next s
  | none => .next s

/-! ## Traps of the job (R117, R360) -/

/-- Whether a stream counts as blocked for WHEEL_STALL (R117): on a queue, a token or RDV, or halted (log 22). -/
def Stream.wheelBlocked (t : Stream) : Bool :=
  t.phase == .halted || (match t.blocked with | some .token | some .queue | some .rdv => true | _ => false)

/-- Whether all four streams of the running job are blocked, one of them not by having halted. -/
def Job.wheelStalled (j : Job) : Bool :=
  j.phase == .running && allStreams.all (fun x => (j.stream x).wheelBlocked) &&
    allStreams.any (fun x => (j.stream x).phase != .halted)

/-- WHEEL_STALL. -/
def execWheelStall (s : State) : Out :=
  if s.job.wheelStalled then .next (takeJobTrap s.job.uid 0x11 s) else .next s

/-- UINT_DELIVERY: an interrupt is delivered to the first stream that takes one (R373). -/
def execUintDelivery (s : State) : Out :=
  match allStreams.find? s.job.wantsInterrupt with
  | some x => .next (s.interrupt x)
  | none => .next s

/-- What the tile entry cache of the core in focus does (R50). A parity error on a copy that the table does not make up for
ends the core's job with MACHINE_ERROR; any other copy is read from the table again. -/
def State.moveEntry (s : State) (m : CacheMove) : State :=
  let mine := fun (k : Nat) (c : TteCopy) => c.key == k && c.core == s.job.core
  match m with
  | .take idx late =>
    match entryKey s.job.tctx 0 idx.toNat with
    | .error _ => s
    | .ok k =>
      if s.job.uid = 0 ∨ s.job.phase = .halted ∨ s.entries.any (mine k) = true ∨ 256 ≤ (s.entries.filter (·.core == s.job.core)).length ∨
          ((s.entryCopy k).isNone && !s.good k 64) = true then s
      else { s with entries := s.entries ++ [⟨s.job.core, k, s.tte k, late⟩] }
  | .drop k => s.dropCopies (mine k)
  | .parity k =>
    match s.entries.find? (mine k) with
    | none => s
    | some c =>
      let t := { s with entries := s.entries.filter (fun c => !mine k c) }
      if c.late && c.tte != s.tableTte k then takeJobTrap s.job.uid 0x12 t else t

/-- MACHINE_ERROR: an uncorrectable error in the architectural state of the job in focus (R360). -/
def execMachineError (s : State) : Out := .next (takeJobTrap s.job.uid 0x12 s)

end Sys2Proof.Machine
end

