-- ==== Sys2Proof/Machine/Loader.lean ====
section
/-!
DEFINITION. Machine/Loader.lean: what the loader reads of a VXO image and what it checks (spec/07_objects_and_directives.md
R152 to R163, spec/05_launch.md R118, spec/13_culture.md R287 and R288; notes/assumptions 23, 24).
-/
namespace Sys2Proof.Machine

/-- The loader rejects the image: ABORT_LOAD. -/
def rejected : Stop := .post 3

/-- Go on if a check holds. -/
def check (ok : Bool) : Res Unit := ensure ok rejected

/-! ## Reading an image (R152, R153) -/

/-- Where an image stands: its owner and its address. -/
structure Placed where
  owner : BitVec 16
  va : Nat
  deriving DecidableEq, Repr

/-- n bytes of an image at a file offset, through the owner's page tables. -/
def Placed.read (p : Placed) (off n : Nat) (s : State) : Res (List Byte × State) :=
  readVa p.owner false (n / 4096 + 2) ((p.va + off) % 2 ^ 57) n s

/-- Word i of some bytes. -/
def wordAt (bs : List Byte) (i : Nat) : Nat := leNat ((bs.drop (8 * i)).take 8)

/-- A section table entry (R153). -/
structure Sect where
  kind : Nat
  off : Nat
  size : Nat
  align : Nat
  deriving DecidableEq, Repr

/-- The entries of a section table. -/
def sectsOf (n : Nat) (bs : List Byte) : List Sect :=
  (List.range n).map (fun i =>
    ⟨wordAt bs (4 * i) / 2 ^ 56, wordAt bs (4 * i + 1), wordAt bs (4 * i + 2), wordAt bs (4 * i + 3) % 256⟩)

/-- The header checks (R163). -/
def headerOk (owner : BitVec 16) (h : List Byte) : Bool :=
  let o := wordAt h 3 / 2 ^ 48
  wordAt h 0 / 2 ^ 32 == 0x004F5856 && wordAt h 0 / 2 ^ 16 % 2 ^ 16 == 1 && wordAt h 2 == 64 &&
    (BitVec.ofNat 64 (wordAt h 3)).getLsbD 47 && (o == 0 || o == owner.toNat)

/-- The section checks (R163): known kinds, each once, inside LENGTH, aligned. An ALIGNLOG outside 3 to 12 (R153), which no check
names, is taken as it stands, DESIGN CHOICE (log 75). -/
def sectsOk (length : Nat) (ss : List Sect) : Bool :=
  ss.all (fun x => decide (1 ≤ x.kind ∧ x.kind ≤ 0x0D) && decide (x.off + x.size ≤ length) && x.off % 8 == 0 &&
    x.off % 2 ^ x.align == 0) && decide ((ss.map (·.kind)).Nodup)

/-- A section by its kind. -/
def sectOf (ss : List Sect) (kind : Nat) : Option Sect := ss.find? (·.kind == kind)

/-- The bytes of a section; none where the image has no such section. -/
def Placed.section_ (p : Placed) (ss : List Sect) (kind : Nat) (s : State) : Res (List Byte × State) :=
  match sectOf ss kind with
  | some x => p.read x.off x.size s
  | none => .ok ([], s)

/-- The header of an image and its section table, checked: LENGTH and the sections. -/
def Placed.sections (p : Placed) (s : State) : Res ((Nat × List Sect) × State) :=
  (p.read 0 64 s).bind fun (h, s) =>
    (check (headerOk p.owner h)).bind fun _ =>
      let n := wordAt h 0 % 2 ^ 16
      (p.read 64 (32 * n) s).bind fun (t, s) =>
        let ss := sectsOf n t
        (check (sectsOk (wordAt h 1) ss)).map fun _ => ((wordAt h 1, ss), s)

/-! ## Relocation (R155) -/

/-- The file offset of the place that word 0 of a relocation record names (R155). -/
def relocPlace (ss : List Sect) (w : Nat) : Nat := ((ss[w / 2 ^ 48 % 256]?).map (·.off)).getD 0 + w % 2 ^ 48

/-- Whether a relocation record is an ABS64 of a section to which relocations apply: .data, .tiles or .launch (R155). -/
def relocApplies (ss : List Sect) (w : Nat) : Bool :=
  w / 2 ^ 56 == 1 && (ss[w / 2 ^ 48 % 256]?).any (fun x => x.kind == 5 || x.kind == 6 || x.kind == 9)

/-- The device virtual address of symbol i of an image at `va`: a place in its section for code and data; a constant stands for
its value (R156; log 59). -/
def symbolVa (va : Nat) (ss : List Sect) (syms : List Byte) (i : Nat) : Option Nat :=
  let r := syms.drop (32 * i)
  match wordAt r 0 / 2 ^ 56 with
  | 1 | 2 => (ss[wordAt r 0 / 2 ^ 48 % 256]?).map (fun x => va + x.off + wordAt r 1)
  | 4 => some (wordAt r 1)
  | _ => none

/-- Write bytes to places, each a key and a length. -/
def writePlaces : List (Nat × Nat) → List Byte → State → State
  | [], _, s => s
  | (k, m) :: ps, bs, s => writePlaces ps (bs.drop m) (s.storeBytes k (bs.take m))

/-- Apply one relocation record: the symbol's address plus ADDEND, as 64 bits (R155). A PLACE beyond its section, which no check
names, is written all the same, DESIGN CHOICE (log 75). -/
def Placed.relocate (p : Placed) (ss : List Sect) (syms : List Byte) (w0 w1 : Nat) (s : State) : Res State :=
  match if relocApplies ss w0 then symbolVa p.va ss syms (w1 / 2 ^ 32) else none with
  | none => .ok s
  | some a =>
    let v := BitVec.ofNat 64 a + (BitVec.ofNat 32 w1).signExtend 64
    (pagesOf p.owner false 3 ((p.va + relocPlace ss w0) % 2 ^ 57) 8 s).map fun (ps, s) => writePlaces ps (leBytes 8 v.toNat) s

/-- Apply the ABS64 records of a placed image (R155; log 59): those that lie whole in the section, DESIGN CHOICE where its SIZE is no
multiple of 16 (log 75). -/
def Placed.relocateAll (p : Placed) (ss : List Sect) (s : State) : Res State :=
  (p.section_ ss 0x0B s).bind fun (relocs, s) => (p.section_ ss 0x0C s).bind fun (syms, s) =>
    (List.range (relocs.length / 16)).foldlM (fun s i =>
      p.relocate ss syms (wordAt relocs (2 * i)) (wordAt relocs (2 * i + 1)) s) s

/-! ## Code (R161, R163) -/

/-- The words of a code section. -/
abbrev Code := Array IWord

/-- The words of some bytes. -/
def codeWords (bs : List Byte) : Code := ((numsOf 4 (bs.length / 4) bs).map (BitVec.ofNat 32)).toArray

/-- The instruction whose first word is word i, with its length; none where R143 rejects it. -/
def instrAt (c : Code) (i : Nat) : Option (Instr × Nat) :=
  match getElem? c i with
  | none => none
  | some w =>
    if isLong w then
      match getElem? c (i + 1) with
      | some w2 => (decodeLong w w2).toOption.map (·, 2)
      | none => none
    else (decodeShort w).toOption.map (·, 1)

/-- The word offset of the edge that a control transfer adds (R161). -/
def jumpOffset : Instr → Option Int
  | .beq _ _ _ o | .bne _ _ _ o | .blt _ _ _ o | .bge _ _ _ o | .bltn _ _ _ o | .bgen _ _ _ o => some o.toInt
  | .bqz _ _ o | .bqnz _ _ o => some o.toInt
  | .loop _ _ o => some o.toInt
  | .endl _ o => some o.toInt
  | .jmp _ o | .jal _ o => some o.toInt
  | _ => none

/-- Whether control falls through to the next word (R161). -/
def fallsThrough : Instr → Bool
  | .jmp .. | .jr .. | .uret .. | .halt .. => false
  | _ => true

/-- The words that follow word i on the graph of R161. -/
def successors (c : Code) (i : Nat) : List Nat :=
  match instrAt c i with
  | none => []
  | some (x, n) =>
    let next := if fallsThrough x then [i + n] else []
    let jump := match jumpOffset x with
      | some o => if 0 ≤ (i : Int) + o then [((i : Int) + o).toNat] else []
      | none => []
    (next ++ jump).filter (· < c.size)

/-- A SAFE at word i: its id. -/
def safeAt (c : Code) (i : Nat) : Option (BitVec 10) :=
  match instrAt c i with
  | some (.safe _ id, _) => some id
  | _ => none

/-- Extend a list of reached words n times. -/
def reach (c : Code) : Nat → List Nat → List Nat
  | 0, seen => seen
  | n + 1, seen => reach c n ((seen ++ seen.flatMap (successors c)).eraseDups)

/-- The words that the graph reaches from word i. -/
def reachable (c : Code) (i : Nat) : List Nat := reach c c.size [i]

/-- The first words of the instructions of a section read one after another from word i on, n of them. -/
def firstWords (c : Code) : Nat → Nat → List Nat
  | 0, _ => []
  | n + 1, i => if i < c.size then i :: firstWords c n (i + ((instrAt c i).map (·.2)).getD 1) else []

/-- The nodes of the graph of a section (R161): the instructions of the section as it is laid out, and those that control
transfers and the entry reach besides (log 53). -/
def graphNodes (c : Code) (start : Nat) : List Nat := reach c c.size ((start :: firstWords c c.size 0).eraseDups)

/-- The most words of a path of at most n instructions from word i to a SAFE, by a table over the words; none where there
is no such path. -/
def farTable (c : Code) : Nat → Array (Option Nat)
  | 0 => (Array.range c.size).map (fun i => (safeAt c i).map (fun _ => 1))
  | n + 1 =>
    let t := farTable c n
    (Array.range c.size).map (fun i =>
      if (safeAt c i).isSome then some 1
      else (((successors c i).filterMap (fun j => t[j]?.join)).max?).map
        (· + ((instrAt c i).map (·.2)).getD 1))

/-- Whether a walk of n steps that meets no SAFE starts at each word. -/
def walkTable (c : Code) : Nat → Array Bool
  | 0 => (Array.range c.size).map (fun i => (safeAt c i).isNone)
  | n + 1 =>
    let t := walkTable c n
    (Array.range c.size).map (fun i => (safeAt c i).isNone && (successors c i).any (fun j => t[j]?.getD false))

/-- R161 for one stream from one entry word: every cycle holds a SAFE, and no path from the entry or from a SAFE to a SAFE
is longer than the bound. -/
def pathsOk (c : Code) (start bound : Nat) : Bool :=
  let nodes := graphNodes c start
  let far := farTable c c.size
  let walk := walkTable c c.size
  let short := fun (n : Option Nat) => decide (n.getD 0 ≤ bound)
  nodes.all (fun i => !(walk[i]?.getD false)) && short (far[start]?.join) &&
    nodes.all (fun i => (safeAt c i).isNone || (successors c i).all (fun j => short ((far[j]?.join).map (· + 1))))

/-- The safe-point ids that a stream uses from an entry. -/
def safeIds (c : Code) (start : Nat) : List (BitVec 10) := (reachable c start).filterMap (safeAt c)

/-- R161 for an entry: the streams' words, and the same ids in all four. -/
def safePointsOk (code : List (Code × Nat)) (bound : Nat) : Bool :=
  code.all (fun x => pathsOk x.1 x.2 bound) &&
    code.all (fun x => code.all (fun y => (safeIds x.1 x.2).all (fun i => (safeIds y.1 y.2).contains i)))

/-! ## Queues, determinism, table sets (R163, R118, R288) -/

/-- How an instruction uses a queue. -/
inductive QueueUse where
  | produce | consume | count
  deriving DecidableEq, Repr

/-- The queue that an instruction names (R180, R233). -/
def queueUse : Instr → Option (QueueUse × QNum)
  | .spush _ q _ => some (.produce, q)
  | .vpush _ _ q _ => some (.produce, q)
  | .spop _ _ q => some (.consume, q)
  | .vpop _ _ q _ => some (.consume, q)
  | .bqz _ q _ | .bqnz _ q _ => some (.consume, q)
  | .qcnt _ _ q => some (.count, q)
  | .vld _ v _ _ _ _ true | .vldg _ v _ _ _ true => some (.produce, v.extractLsb' 0 3)
  | .vst _ v _ _ _ _ true | .vsts _ v _ _ _ true => some (.consume, v.extractLsb' 0 3)
  | _ => none

/-- The binding of queue q in word 15 of a record (R89). -/
def binding (w15 : Word) (q : Nat) : Option (StreamId × StreamId) :=
  if w15.getLsbD (8 * q + 7) then some (streamOf (bits w15 (8 * q + 2) 2), streamOf (bits w15 (8 * q) 2)) else none

/-- Whether the record binds a queue as a stream's instruction uses it (R163). -/
def queueOk (w15 : Word) (x : StreamId) (i : Instr) : Bool :=
  match queueUse i with
  | none => true
  | some (u, q) =>
    match binding w15 q.toNat with
    | none => false
    | some (p, c) => match u with | .produce => x == p | .consume => x == c | .count => x == p || x == c

/-- The destination and ordering of an atomic. -/
def amoParts : Instr → Option (AmoOrd × SReg × Bool)
  | .amoadd _ o d _ _ | .amoand _ o d _ _ | .amoor _ o d _ _ | .amoxor _ o d _ _ | .amomin _ o d _ _
  | .amomax _ o d _ _ | .amominn _ o d _ _ | .amomaxn _ o d _ _ => some (o, d, false)
  | .amoxchg _ o d _ _ | .amocas _ o d _ _ | .amoincb _ o d _ _ | .amofadd _ o d _ _ => some (o, d, true)
  | _ => none

/-- Whether a launch with DET = 1 excludes an instruction (R118). -/
def nondeterministic (i : Instr) : Bool :=
  match i with
  | .clkr .. => true
  | .csrr _ _ n => n == 0x029
  | _ =>
    match amoParts i with
    | some (o, d, always) => o != .ord && (always || d != 0)
    | none => false

/-- Whether a QCFG names a set that the image holds (R288). -/
def qcfgOk (sets : List (BitVec 8)) (i : Instr) : Bool :=
  match i with
  | .qcfg _ n => n == 0xFF || sets.contains n
  | _ => true

/-- Every word of a section that decodes passes a check (R163). -/
def everyWord (c : Code) (p : Instr → Bool) : Bool :=
  (List.range c.size).all (fun i => match instrAt c i with | some (x, _) => p x | none => true)

/-- Every reached word passes the queue check of its stream. -/
def queuesOk (w15 : Word) (x : StreamId) (c : Code) (start : Nat) : Bool :=
  (reachable c start).all (fun i => match instrAt c i with | some (y, _) => queueOk w15 x y | none => true)

/-! ## Tiles, seeds, entries (R157, R158) -/

/-- A tensor record (R157). -/
structure Tensor where
  gtt : Bool
  seedPair : Nat
  seedStreams : BitVec 4
  first : Nat
  base : Nat
  count : Nat
  cap : BitVec 128
  deriving DecidableEq, Repr

/-- The tensor record in 32 bytes. -/
def tensorOf (bs : List Byte) : Tensor :=
  let w0 := wordAt bs 0
  let w1 := wordAt bs 1
  ⟨w0 / 2 ^ 63 == 1, w0 / 2 ^ 48 % 256, BitVec.ofNat 4 (w0 / 2 ^ 44), w0 % 2 ^ 32, w1 / 2 ^ 32, w1 % 2 ^ 32,
    BitVec.ofNat 128 (leNat (bs.drop 16))⟩

/-- The tensor records of a .tiles section (log 24): as many as make the records and their templates fill it. -/
def tensorsOf (bs : List Byte) : Nat → Nat → Option (List Tensor)
  | 0, used => if used = bs.length then some [] else none
  | n + 1, used =>
    if used = bs.length then some []
    else
      let i := bs.length / 32 - (n + 1)
      let t := tensorOf ((bs.drop (32 * i)).take 32)
      (tensorsOf bs n (used + 32 + 64 * t.count)).map (t :: ·)

/-- Template i of a .tiles section that holds n tensor records; none outside the section. -/
def templateAt (bs : List Byte) (n i : Nat) : Option Tte :=
  let o := 32 * n + 64 * i
  if o + 64 ≤ bs.length then some (BitVec.ofNat 512 (leNat ((bs.drop o).take 64))) else none

/-- A template as the loader writes it: OWNER is the launch's (R157). -/
def Tte.ownedBy (t : Tte) (o : BitVec 16) : Tte := t.put 1 0 16 o.toNat

/-- The LTT templates of a tensor. -/
def Tensor.templates (t : Tensor) (bs : List Byte) (n : Nat) (o : BitVec 16) : Res (List (Nat × Tte)) :=
  if t.gtt then .ok []
  else if 1024 < t.base + t.count then .error rejected
  else (List.range t.count).mapM (fun i =>
    match templateAt bs n (t.first + i) with
    | some e => .ok (t.base + i, e.ownedBy o)
    | none => .error rejected)

/-- The seed of a tensor: BASE and OWNER filled in (R157). -/
def Tensor.seed (t : Tensor) (o : BitVec 16) : BitVec 128 :=
  BitVec.ofNat 128 (t.base * 2 ^ 96 + t.cap.toNat % 2 ^ 96 / 2 ^ 40 * 2 ^ 40 + o.toNat * 2 ^ 24 + t.cap.toNat % 2 ^ 24)

/-- The seed checks of one tensor: every mask of SEEDSTR is in range, an empty one too (log 24); pairs are 1 to 7 (R163; R68, and R71 against the tensor's tiles, whose columns CAP.STRIDE gives). -/
def Tensor.seedOk (t : Tensor) : Bool :=
  t.seedPair == 0 ||
    (let c : Cap := t.seed 0
     decide (t.seedPair ≤ 7) && cbits c 0 17 == 0 && c.tclass != 3 && (c.tclass == 0) == !t.gtt &&
       capFits c.tclass c.base c.stride c.rowt c.colt && decide (c.colt ≤ c.stride) &&
       decide (c.rowt * c.stride ≤ t.count))

/-- The pair and stream of every seed: no two alike (R163). -/
def seedPlaces (ts : List Tensor) : List (Nat × Nat) :=
  (ts.filter (·.seedPair != 0)).flatMap (fun t =>
    ((List.range 4).filter (t.seedStreams.getLsbD ·)).map (fun x => (t.seedPair, x)))

/-- The entry table of a .launch section (R158): four offsets for each entry. No check of R163 names a count of 0, one above 256, or a
section that is too short for it: as many entries are read as the count says, at most SIZE ÷ 32, and what lies beyond the section
reads as 0, DESIGN CHOICE (log 74). -/
def entriesOf (bs : List Byte) : List (List Nat) :=
  (List.range (min (wordAt bs 0) (bs.length / 32))).map (fun i => (List.range 4).map (fun x => wordAt bs (1 + 4 * i + x)))

/-- The code extents of R163: every entry's offsets are aligned and inside their sections, which all exist. -/
def entryOffsetsOk (sizes : List (Option Nat)) (e : List Nat) : Bool :=
  (e.zip sizes).all (fun (o, n) => match n with | some n => o % 4 == 0 && decide (o < n) | none => false)

/-- The press tables of a .presstab section, 8 + 512 bytes each, with their directory slots (R154). Those that lie whole in the
section count, DESIGN CHOICE where its SIZE is no multiple of 520 (log 68). -/
def pressTablesOf (bs : List Byte) : List (Nat × PressTable) :=
  (List.range (bs.length / 520)).map (fun i =>
    (wordAt (bs.drop (520 * i)) 0 % 256, ((bs.drop (520 * i + 8)).take 256).map (·.toNat)))

/-- A press table of an image is valid, and its slot in the owner's directory is not empty (R76, R163). -/
def pressOk (s : State) (c : TCtx) (x : Nat × PressTable) : Bool := PressTable.valid x.2 && !emptySlot s c x.1

/-- The sets of a .dirtab section: number and file offset of the first dimension record (R287). -/
def Placed.sets (p : Placed) (x : Sect) : Nat → State → Res (List (BitVec 8 × Nat) × State)
  | 0, s => .ok ([], s)
  | n + 1, s =>
    let off := x.off + 16904 * (x.size / 16904 - (n + 1))
    (p.read off 8 s).bind fun (h, s) =>
      (p.sets x n s).map fun (rest, s) => ((BitVec.ofNat 8 (wordAt h 0), off + 8) :: rest, s)

/-- The set CTAB: zeros for 0xFF (R288). -/
def Placed.ctab (p : Placed) (sets : List (BitVec 8 × Nat)) (n : BitVec 8) (s : State) : Res (List DimRec × State) :=
  if n = 0xFF then .ok ([], s)
  else
    match sets.find? (·.1 == n) with
    | none => .error rejected
    | some (_, off) => (p.read off (64 * 264) s).map fun (bs, s) => (dimsOf 64 bs, s)

/-- Bytes with n of them from an offset taken as zero. -/
def zeroSpan (off n : Nat) (bs : List Byte) : List Byte := bs.take off ++ List.replicate n 0 ++ bs.drop (off + n)

/-- A file with the ABS64 relocations that the loader applied taken back (R155, R162): what a place holds before, the manual
does not say, and it stands as 0 here (log 9). -/
def unapplied (ss : List Sect) (relocs : List Byte) (bs : List Byte) : List Byte :=
  (List.range (relocs.length / 16)).foldl (fun bs i =>
    let w := wordAt relocs (2 * i)
    if relocApplies ss w then zeroSpan (relocPlace ss w) 8 bs else bs) bs

/-- The message that a signature of an image covers (R162): its hash, with relocations unapplied, and with the bytes of .sig
and the SIZE field of its section table entry taken as zero. -/
def signedMessage (ss : List Sect) (sig : Sect) (relocs bs : List Byte) : BitVec 256 :=
  let row := (ss.idxOf? sig).getD 0
  Config.shake256 (zeroSpan (64 + 32 * row + 16) 8 (zeroSpan sig.off sig.size (unapplied ss relocs bs)))

/-- The signature check (R162, R163; log 9): .sig holds 2,820 bytes. -/
def Placed.signatureOk (p : Placed) (length : Nat) (ss : List Sect) (s : State) : Res State :=
  match s.owners.find? (·.id == p.owner) with
  | none => .ok s
  | some o =>
    if !o.sigRequired then .ok s
    else
      match sectOf ss 0x0D with
      | none => .error rejected
      | some sig =>
        (p.read 0 length s).bind fun (bs, s) => (p.section_ ss 0x0B s).bind fun (relocs, s) =>
          let bytes := (bs.drop sig.off).take sig.size
          (check (sig.size == 2820 && Config.signatureVerifies o.sigKeys (signedMessage ss sig relocs bs) bytes)).map fun _ => s

/-! ## The checks together (R163) -/

/-- What the checks need of a launch: DET, the entries it uses, word 15, CTAB, and the context of its first job. -/
structure LoadReq where
  at_ : Placed
  det : Bool
  entries : List Nat
  w15 : Word
  ctab : BitVec 8
  ctx : TCtx
  deriving DecidableEq, Repr

/-- The keys of a core's LTT and of its scratchpad. -/
def lttRange (core : Nat) : Nat × Nat := (lttKey core 0, lttKey core 1024)
/-- The keys of a core's scratchpad. -/
def scratchRange (core : Nat) : Nat × Nat := (cellKey .scratch (core * 2 ^ 22), cellKey .scratch ((core + 1) * 2 ^ 22))

/-- Memory with a range of keys unlisted. -/
def clearRange (r : Nat × Nat) (m : List Host.Cell) : List Host.Cell := m.filter (fun c => c.1 < r.1 || r.2 ≤ c.1)

/-- Write LTT entries of a core, the others ABSENT (R97). -/
def State.loadLtt (s : State) (core : Nat) (es : List (Nat × Tte)) : State :=
  es.foldl (fun s e => s.setTte (lttKey core e.1) e.2)
    { s.forgetCopies (lttRange core) with mem := clearRange (lttRange core) s.mem }

/-- The template check (R163): no LTT template, ABSENT or not, is malformed under R53 or names an LTT tier outside R96. -/
def templatesOk (s : State) (c : TCtx) (es : List (Nat × Tte)) : Res Unit :=
  let s := s.loadLtt c.core es
  es.foldl (fun r e => r.bind fun _ => (wellFormedEntry s c (2 ^ 32 + e.1) e.2).bind check) (.ok ())

/-- The streams' code from an entry. -/
def startsOf (code : List Code) (e : List Nat) : List (Code × Nat) := code.zip (e.map (· / 4))

/-- The checks that look at code: R161 for every entry of the image, the queues from the entries that the launch uses (R163). -/
def codeChecks (q : LoadReq) (bound : Nat) (code : List Code) (entries : List (List Nat)) (sets : List (BitVec 8)) : Bool :=
  let used := q.entries.filterMap (fun i => entries[i]?)
  decide (used.length = q.entries.length) &&
    entries.all (fun e => safePointsOk (startsOf code e) bound) &&
    used.all (fun e => ((startsOf code e).zip allStreams).all (fun (x, st) => queuesOk q.w15 st x.1 x.2)) &&
    code.all (fun c => everyWord c (fun i => qcfgOk sets i && !(q.det && nondeterministic i)))

/-- Whether code holds a QCFG that names a set: the loader then looks at the sets of .dirtab (R288). -/
def namesSet (c : Code) : Bool := !everyWord c (qcfgOk [])

/-- The four code sections. -/
def Placed.code (p : Placed) (ss : List Sect) : List Nat → State → Res (List Code × State)
  | [], s => .ok ([], s)
  | k :: ks, s => (p.section_ ss k s).bind fun (bs, s) => (p.code ss ks s).map fun (cs, s) => (codeWords bs :: cs, s)

/-- The offset and size of a section. -/
def extent (ss : List Sect) (kind : Nat) : Nat × Nat := ((sectOf ss kind).map (fun x => (x.off, x.size))).getD (0, 0)

/-- The tile part of an image: LTT templates and seeds, checked. -/
def tilePart (o : BitVec 16) (bs : List Byte) : Res (List (Nat × Tte) × List (Pair × BitVec 4 × BitVec 128)) :=
  match tensorsOf bs (bs.length / 32) 0 with
  | none => .error rejected
  | some ts =>
    (check (ts.all Tensor.seedOk && decide (seedPlaces ts).Nodup)).bind fun _ =>
      (ts.mapM (fun (t : Tensor) => t.templates bs ts.length o)).map fun es =>
        (es.flatten, (ts.filter (·.seedPair != 0)).map (fun t => (BitVec.ofNat 3 t.seedPair, t.seedStreams, t.seed o)))

/-- The image as the loader keeps it. -/
def imageOf (ss : List Sect) (entries : List (List Nat)) (ltt : List (Nat × Tte)) (seeds : List (Pair × BitVec 4 × BitVec 128))
    (ctab : List DimRec) (dirtab : Nat × Nat) : Image where
  code := Vector.ofFn (fun i : Fin 4 => extent ss (i.val + 1))
  entries := entries
  ltt := ltt
  seeds := seeds
  ctab := Vector.ofFn (fun i : Fin 64 => ctab.getD i 0)
  dirtab := dirtab

/-- Place, read and check an image: its relocations are applied (R155), and the loader keeps what its jobs need, or ABORT_LOAD
(R163). Bytes of .dirtab after its last whole set are ignored (R287; log 68). -/
def loadImage (q : LoadReq) (s : State) : Res (Image × State) :=
  let p := q.at_
  (p.sections s).bind fun ((length, ss), s) =>
  (p.relocateAll ss s).bind fun s =>
  (p.code ss [1, 2, 3, 4] s).bind fun (code, s) =>
  (p.section_ ss 0x09 s).bind fun (launchBs, s) =>
  (p.section_ ss 0x06 s).bind fun (tileBs, s) =>
  (p.section_ ss 0x07 s).bind fun (pressBs, s) =>
  let dirs := (sectOf ss 0x08).getD ⟨0, 0, 0, 0⟩
  (if q.ctab ≠ 0xFF ∨ code.any namesSet = true then p.sets dirs (dirs.size / 16904) s else .ok ([], s)).bind fun (sets, s) =>
  (p.ctab sets q.ctab s).bind fun (ctab, s) =>
  (p.signatureOk length ss s).bind fun s =>
  (tilePart q.ctx.owner tileBs).bind fun (ltt, seeds) =>
  let entries := entriesOf launchBs
  let sizes := [1, 2, 3, 4].map (fun k => (sectOf ss k).map (·.size))
  (check (entries.all (entryOffsetsOk sizes) && (pressTablesOf pressBs).all (pressOk s q.ctx) &&
    codeChecks q s.safemax.toNat code entries (sets.map (·.1)))).bind fun _ =>
  (templatesOk s q.ctx ltt).map fun _ => (imageOf ss entries ltt seeds ctab (dirs.off, dirs.size / 16904), s)

end Sys2Proof.Machine
end

