-- ==== Sys2Proof/Machine/Versions.lean ====
section
/-!
DEFINITION. Machine/Versions.lean: clocks and floors, stamped commits, policy versions, and the completion of a Copy Engine
command (spec/17_time_and_versions.md R335 to R356; spec/09_memory_and_engines.md R220).
-/
namespace Sys2Proof.Machine

/-! ## Clocks (R336, R339, R340) -/

/-- Whether a die's half-width ε exceeds EPSMAX (R336, R339). -/
def State.wideClock (s : State) (d : Fin 4) : Bool :=
  let x := s.dies[d]
  decide (2 * s.epsmax.toNat < x.latest.toNat - x.earliest.toNat)

/-- Whether the job in focus is strict and its die's clock is too wide (R339). -/
def State.clockFails (s : State) : Bool := s.job.strict && s.wideClock s.myDie

/-- CLKR (R340). -/
def execClkr (w : Wheel) (d : SReg) (s : State) : Out :=
  issue w 1 anyStream (regBit d ||| regBit (d ||| 1)) (fun s =>
    if s.clockFails then .error clockWideTrap
    else
      let x := s.dies[s.myDie]
      .ok ((s.setReg d x.earliest).setReg (d ||| 1) x.latest)) s

/-! ## Commits of a job (R347) -/

/-- Note a commit that the stream in focus has issued. -/
def State.noteCommit (s : State) (id : Nat) : State := s.onJob (fun j => { j with flow := j.flow.accepts s.cur id })

/-- Change the commits of a job. -/
def Job.mapCommits (j : Job) (f : List Commit → List Commit) : Job := { j with flow := { j.flow with commits := f j.flow.commits } }

/-- A commit has posted OK with a stamp and the domains of its versions. -/
def Job.stampCommit (j : Job) (id : Nat) (stamp : Word) (doms : List Domain) : Job :=
  j.mapCommits (fun cs => cs.map (fun c => if c.cmd = id then ⟨id, some (stamp, doms)⟩ else c))

/-- A commit has posted an error: CWAIT skips it. -/
def Job.dropCommit (j : Job) (id : Nat) : Job := j.mapCommits (fun cs => cs.filter (·.cmd != id))

/-- Whether a covered commit has posted and is surely past on the die, in the domain of each of its versions (R347). -/
def commitPast (s : State) (d : Fin 4) (c : Commit) : Bool :=
  match c.stamp with
  | none => false
  | some (stamp, doms) => doms.all (fun dom => decide (stamp < s.knownFloor d dom))

/-- The commits that a CWAIT of stream x covers: its own, and those of other streams that tokens, queue entries and RDVs have
ordered before it (R347; log 21). -/
def Job.covered (j : Job) (x : StreamId) : List Commit :=
  j.flow.commits.filter (fun c => j.flow.known[streamFin x].contains c.cmd)

/-- Every commit that a CWAIT of stream x of the job in focus covers is past on its die. -/
def State.commitsPast (s : State) (x : StreamId) : Bool := (s.job.covered x).all (commitPast s s.myDie)

/-- CWAIT (R347). -/
def execCwait (w : Wheel) (s : State) : Out :=
  issue w 1 anyStream 0 (fun s =>
    if s.clockFails then .error clockWideTrap
    else if s.commitsPast s.cur then .ok s
    else .error (.stall .cwait)) s

/-- CLOCK_WIDE: a strict job's CWAIT that waits while its die's clock is too wide traps (R339). -/
def execClockWide (s : State) : Out :=
  match allStreams.find? (fun x => (s.job.stream x).blocked == some .cwait) with
  | some x =>
    if s.clockFails then .next (takeTrapAt x (s.job.stream x).pc ⟨0x0F, 3, 0, none⟩ none s) else .next s
  | none => .next s

/-! ## TCOMMIT (R345) -/

/-- The scope domain of a commit (R343). -/
def domainOf (s : State) (sc : Scope) (home : Fin 4) : Domain :=
  match sc with
  | .die => .die (BitVec.ofNat 2 home.val)
  | .grant => if s.job.multi then .grant s.job.launch else .pkg
  | _ => .pkg

/-- The conditions of R342. -/
def commitOk (s : State) (c : TCtx) (t : Tte) : Bool :=
  t.versioned && t.pooled && (t.tier == 2 || t.tier == 3) &&
    (match headerKey c (32 * t.pool) with
     | some k => (bits (s.load64 k) 61 3 == 2 || bits (s.load64 k) 61 3 == 3) &&
         decide (t.backLen / 512 + 1 ≤ s.load (k + 8) 4)
     | none => false)

/-- TCOMMIT (R345). -/
def execTcommit (w : Wheel) (a b : Pair) (r : SReg) (cc : Cc) (uint : Bool) (sc : Scope) (s : State) : Out :=
  issue w 1 onlyAE (pairBits a ||| pairBits b ||| regBit r ||| regBit (r ||| 1)) (fun s =>
    let x := s.reg r
    let y := s.reg (r ||| 1)
    (needTile s a prd localClass (coordA x)).bind fun _ =>
      (needTile s b pcom globalClass (coordB x)).bind fun _ =>
        let c := s.command 1 (.tcommit w a b r cc uint sc) cc uint a b 0 x y
        (accept .ce c s).map fun s => if y.getLsbD 0 then s else s.noteCommit c.id) s

/-- The versions of a tile that are staged, prepared or pending (R345). -/
def State.waitingVers (s : State) (k : Nat) : List TileVer := s.tileVers.filter (fun v => v.entry == k && v.state != .passed)

/-- The stamp of a tile's newest version (R345). -/
def State.newestStamp (s : State) (k : Nat) : Nat :=
  ((s.waitingVers k).filter (·.state == .pending)).foldl (fun a v => max a v.stamp.toNat) (s.tte k).stamp.toNat

/-- Bytes of a version in its block, and its entry words: as a write into the destination, with a backing of its own. -/
def stageStored (c : TCtx) (idx k loc : Nat) (v : TileVals) (blocks : Option (List (Nat × List Byte))) (s : State) :
    Res (Tte × State) :=
  let t := s.tte k
  let n := ((((t.put 0 61 3 0).put 1 24 40 loc).put 2 0 64 1).setPlens []).put 4 32 32 0
  (putBytes c idx k v blocks (s.setTte k n)).map fun s' =>
    ((s'.tte k).setSummary (n.summaryOf v), s'.setTte k t)

/-- The new version V of a commit: its entry words, with a block of its own when it is stored (R345). -/
def newVersion (w : Who) (src d : Opened) (s : State) : Res (Tte × State) :=
  let c := w.ctx
  let sym := fun (x : Symbol) (s : State) =>
    let t := (s.tte d.k).withSymbol x
    (t.setSummary (t.summaryOf t.symbolVals), s)
  if isSymbol src.t.kind then .ok (sym ⟨src.t.kind, src.t.syma, src.t.symb, src.t.symc⟩ s)
  else
    (valuesOf s c src.idx src.t).bind fun v =>
      (moveBlocks s c src d.t).bind fun blocks =>
        let (v, s) := moveVals src.t d.t v s
        match if d.t.detect then rennet d.t v else none with
        | some x => .ok (sym x s)
        | none =>
          (takeBlock c d.idx d.t s).bind fun (loc, s) => stageStored c d.idx d.k loc v blocks s

/-- The block for the record of a symbolic current version (R345). -/
def recordBlock (w : Who) (d : Opened) (s : State) : Res (Option (BitVec 40) × State) :=
  if (s.tte d.k).kind = 0 then .ok (none, s)
  else (takeBlock w.ctx d.idx d.t s).map fun (b, s) => (some (BitVec.ofNat 40 b), s)

/-- A version is no longer held. -/
def State.dropVer (s : State) (v : TileVer) : State := { s with tileVers := s.tileVers.filter (· != v) }

/-- The blocks of a version that is discarded return to the pool (R345). -/
def discardVer (w : Who) (d : Opened) (v : TileVer) (s : State) : Res State :=
  (if v.tte.kind = 0 then returnBlock w.ctx d.idx d.t v.tte.loc s else .ok s).bind fun s =>
    (match v.recBlock with
      | some b => returnBlock w.ctx d.idx d.t b.toNat s
      | none => .ok s).map (fun (s : State) => s.dropVer v)

/-- A version is held at its home. -/
def State.addVer (s : State) (v : TileVer) : State := { s with tileVers := s.tileVers ++ [v] }

/-- Register a version at its home (R345); the request and its response carry floors (R338). -/
def registerVer (c : Cmd) (sc : Scope) (w : Who) (d : Opened) (v : Tte) (rb : Option (BitVec 40)) (s : State) : Res State :=
  let home := homeDie d.k d.t
  let s := s.exchange w.die home
  let p : BitVec 16 := c.y.extractLsb' 48 16
  let dom := domainOf s sc home
  if c.y.getLsbD 0 then
    let old := (s.waitingVers d.k).filter (fun x => x.state == .staged && x.pver == p)
    (old.foldlM (fun (s : State) x => discardVer w d x s) s).map fun s =>
      s.addVer ⟨d.k, d.idx, w.ctx.ttb, .staged, v, 0, p, dom, rb⟩
  else
    let stamp := word (max s.dies[home].latest.toNat (s.newestStamp d.k + 1))
    .ok ((s.addVer ⟨d.k, d.idx, w.ctx.ttb, .pending, v, stamp, p, dom, rb⟩).onJob (·.stampCommit c.id stamp [dom]))

/-- The checks of a commit and its destination (R342, R345). -/
def openCommit (c : Cmd) (w : Who) (s : State) : Res (Opened × Opened) :=
  (openSrc s w c.capA (coordA c.x)).bind fun a =>
    (openTile s w.ctx c.capB 1 (Cap.tile c.capB (coordB c.x).1 (coordB c.x).2)).bind fun (k, t) =>
      if t.kind = 0 ∧ t.refcnt ≠ 1 then .error (capPermAt 1)
      else (needPool s w.ctx t).bind fun _ => if sameShape a.t t = false ∨ commitOk s w.ctx t = false then .error (.post 4)
      else .ok (a, ⟨Cap.tile c.capB (coordB c.x).1 (coordB c.x).2, k, t⟩)

/-- A commit takes its blocks and writes its version (R345): the command then holds the version until its home has room. -/
def prepareCommit (c : Cmd) (s : State) : Res State :=
  let w := s.whoOf .ce c
  (openCommit c w s).bind fun (a, d) =>
    (readOpened w a s).bind fun (a, s) =>
      (newVersion w a d s).bind fun (v, s) =>
        (recordBlock w d s).map fun (rb, s) =>
          let locs := (if v.kind = 0 then [v.loc] else []) ++ rb.toList.map (·.toNat)
          s.onJob (·.onCmd .ce c.id (fun x => { x with ver := some (v, rb, locs.flatMap (taken s w.ctx d.t)) }))

/-- The home takes the version of a commit, unless the tile holds two that are not current (R345). -/
def placeCommit (c : Cmd) (sc : Scope) (s : State) : Res State :=
  let w := s.whoOf .ce c
  let idx := Cap.tile c.capB (coordB c.x).1 (coordB c.x).2
  match c.ver with
  | none => .error (.stall .engineQueue)
  | some (v, rb, _) =>
    (entryKey w.ctx 1 idx).bind fun k =>
      if 2 ≤ (s.waitingVers k).length then .error (.stall .engineQueue)
      else registerVer c sc w ⟨idx, k, s.tte k⟩ v rb s

/-- TCOMMIT's thread (R345). -/
def runCommit (c : Cmd) (sc : Scope) (s : State) : Res State :=
  if c.ver.isSome then placeCommit c sc s
  else
    (prepareCommit c s).bind fun s =>
      match s.job.ceQ.find? (·.id == c.id) with
      | some c => placeCommit c sc s
      | none => .ok s

/-- A commit whose home has no room keeps the version that it has prepared; one that has failed or posted keeps nothing. -/
def keepCommit (c : Cmd) (r : Res (Nat × State)) (s : State) : State :=
  match c.instr, r with
  | .tcommit .., .error (.stall _) => if c.ver.isSome then s else (prepareCommit c s).toOption.getD s
  | _, _ => s

/-! ## TLDAS (R349) -/

/-- TLDAS (R349). -/
def execTldas (w : Wheel) (a b : Pair) (r : SReg) (cc : Cc) (uint : Bool) (sc : Scope) (s : State) : Out :=
  tileCommand (.tldas w a b r cc uint sc) w a b r true cc uint (needMove a b globalClass localClass) s

/-- The newest pending version of an entry with a stamp of t or less: TLDAS sees every commit as of t, whatever its scope (R349;
log 20). -/
def pendingAsOf (s : State) (k : Nat) (t : Nat) : Option TileVer :=
  (s.tileVers.filter (fun v => v.entry == k && v.state == .pending && decide (v.stamp.toNat ≤ t))).foldl (fun a v =>
    match a with
    | some x => if x.stamp.toNat ≤ v.stamp.toNat then some v else some x
    | none => some v) none

/-- The version that an as-of stamp selects: the newest with a stamp of t or less, be it current, retained or not yet visible to
others. The oldest version counts as stamped 0 unless one below it was reclaimed (R349); an entry that software has written
anew has another oldest version than the one below which versions were reclaimed (R50). -/
def versionAsOf (s : State) (k : Nat) (t : Nat) : Res Tte :=
  match pendingAsOf s k t with
  | some v => .ok v.tte
  | none =>
    let cur := s.tte k
    (versionWhere s cur (fun x => decide (x.stamp.toNat ≤ t))).bind fun
      | some x => .ok x
      | none =>
        let oldest := ((retained s cur).getLast?.map (·.2)).getD cur
        if s.reclaimed.any (fun r => r.1 == k && oldest.stamp == r.2) then .error versionGone else .ok oldest

/-- TLDAS's thread (R349); its request and the response carry floors between its die and the source's home (R338). -/
def runLoadAsOf (c : Cmd) (sc : Scope) (s : State) : Res State :=
  let w := s.whoOf .ce c
  (openSrc s w c.capA (coordA c.x)).bind fun a =>
    (openDst s w c.capB (coordB c.x)).bind fun d =>
      if a.t.versioned = false ∨ sameShape a.t d.t = false then .error (.post 4)
      else
        let home := homeDie a.k a.t
        let s := w.meets home s
        if ¬ c.y < s.knownFloor home (domainOf s sc home) ∨
            s.tileVers.any (fun v => v.entry == a.k && v.state == .prepared) = true then .error (.stall .engineQueue)
        else
          (makeVisible w home a.k s).bind fun s =>
            (versionAsOf s a.k c.y.toNat).bind fun v => (writeTile w d.k s).bind (moveInto w false { a with t := v } d)

/-! ## PUBL (R350, R351) -/

/-- PUBL (R351): steps 1, 2 and 4 of R70 at issue. -/
def execPubl (w : Wheel) (cc : Cc) (a : Pair) (v : SReg) (sc : Scope) (s : State) : Out :=
  issue w 1 onlyE (pairBits a ||| regBit v) (fun s =>
    (s.ownCap a 1).bind fun cap =>
      if capMay cap ppub anyClass = false then .error (capPermAt 1)
      else
        let c := s.command 1 (.publ w cc a v sc) cc false a 0 0 (s.reg v) 0
        (accept .ce c s).map fun s => s.noteCommit c.id) s

/-- The tiles of a capability, in ascending index (R351). -/
def capTiles (c : Cap) : List (Nat × Nat) :=
  (List.range c.rowt).flatMap (fun a => (List.range c.colt).map (fun b => (a, b)))

/-- Check the tiles of a publish, and find the staged versions of v (R351). -/
def preparePubl (s : State) (w : Who) (cap : BitVec 128) (v : BitVec 16) : List (Nat × Nat) → Res (List TileVer)
  | [] => .ok []
  | ab :: abs =>
    (openSrc s w cap ab).bind fun o =>
      if o.t.kind = 0 ∧ o.t.refcnt ≠ 1 then .error (capPermAt 1)
      else (needPool s w.ctx o.t).bind fun _ =>
        if commitOk s w.ctx o.t = false then .error (.post 4)
        else (preparePubl s w cap v abs).map fun r =>
          ((s.waitingVers o.k).filter (fun x => x.state == .staged && x.pver == v)) ++ r

/-- The version-domain record of a key (R350). -/
def State.vdom? (s : State) (o : BitVec 16) (d : BitVec 16) : Option VDom :=
  s.vdoms.find? (fun r => r.owner == o && r.dom == d)

/-- Update the version-domain record (R350, R351). -/
def updateVdom (o d v : BitVec 16) (stamp : Word) (dom : Domain) (s : State) : State :=
  let scope := match dom with | .die _ => .pkg | x => x
  match s.vdom? o d with
  | none => { s with vdoms := s.vdoms ++ [⟨o, d, v, stamp, scope⟩] }
  | some r =>
    let r' := if r.lastPub ≤ v then { r with lastPub := v, pstamp := stamp, scope := scope } else r
    { s with vdoms := s.vdoms.map (fun x => if x.owner == o && x.dom == d then r' else x) }

/-- The requests of a publish to the homes of its tiles, and the responses, carry floors (R338). -/
def meetTiles (w : Who) (cap : BitVec 128) (s : State) : State :=
  (capTiles cap).foldl (fun s ab =>
    match entryKey w.ctx 0 (Cap.tile cap ab.1 ab.2) with
    | .ok k => w.meets (homeDie k (s.tte k)) s
    | .error _ => s) s

/-- PUBL's thread (R351). -/
def runPubl (c : Cmd) (sc : Scope) (s : State) : Res State :=
  let w := s.whoOf .ce c
  let j := s.job
  let v : BitVec 16 := c.x.extractLsb' 0 16
  if j.vdom = 0 ∨ (256 ≤ s.vdoms.length ∧ (s.vdom? j.owner j.vdom).isNone) then .error (.post 4)
  else
    (preparePubl s w c.capA v (capTiles c.capA)).map fun vs =>
      let s := meetTiles w c.capA s
      let newest := vs.foldl (fun a x => max a (s.newestStamp x.entry + 1)) 0
      let stamp := word (max s.dies[w.die].latest.toNat newest)
      let dom := fun (x : TileVer) => domainOf s sc (homeDie x.entry (s.tte x.entry))
      let s := { s with tileVers := s.tileVers.map (fun x =>
        if vs.contains x then { x with state := .pending, stamp := stamp, domain := dom x } else x) }
      let d := match sc with | .die => .pkg | _ => domainOf s sc w.die
      (updateVdom j.owner j.vdom v stamp d s).onJob (·.stampCommit c.id stamp (vs.map dom).eraseDups)

/-! ## Policy versions in V (R352, R353, R356) -/

/-- PVSET (R353). -/
def execPvset (w : Wheel) (a : SReg) (s : State) : Out :=
  issue w 1 onlyV (regBit a) (fun s =>
    .ok (s.onJob (fun j => { j with pvrNext := (s.reg a).extractLsb' 0 16, pvrPend := true }))) s

/-- Whether the publish that a TOKBND waits for is visible to its die (R353). -/
def publishSeen (s : State) : Bool :=
  match s.vdom? s.job.owner s.job.vdom with
  | none => false
  | some r => s.job.pvrNext ≤ r.lastPub && r.pstamp < s.knownFloor s.myDie r.scope

/-- TOKBND (R353). -/
def execTokbnd (w : Wheel) (s : State) : Out :=
  issue w 1 onlyV 0 (fun s =>
    if !s.job.pvrPend then .ok s
    else if s.job.vdom == 0 || publishSeen s then
      .ok (s.onJob (fun j => { j with pvrCur := j.pvrNext, pvrPend := false }))
    else .error (.stall .tokbnd)) s

/-- Lane m of the token records of a VTOK (R356). -/
def tokenLane (va : VecReg) (x : Word) (cur : BitVec 16) (n : Nat) : Nat :=
  let m := n / 4
  match n % 4 with
  | 0 => lane 32 va m
  | 1 => lane 32 va (32 + m) % 2 ^ 16 * 2 ^ 16 + cur.toNat
  | 2 => (bits x 32 32 + m) % 2 ^ 32
  | _ => bits x 0 32

/-- VTOK (R356): predicate bit m governs record m. -/
def execVtok (w : Wheel) (d a : VReg) (r : SReg) (k : KReg) (s : State) : Out :=
  issue w 1 onlyV (regBit r) (fun s =>
    if !wide s.job.et then .error illegalEncoding
    else
      let va := s.vreg a
      let old := s.vreg d
      let x := s.reg r
      let out := fromLanes 32 (fun n =>
        if active (s.pred k) (n / 4) then tokenLane va x s.job.pvrCur n else lane 32 old n)
      .ok ((s.countReads [a]).setVreg d out)) s

/-! ## The clock events (R336 to R338, R346) -/

/-- The dies that are in the floor domains (R338). -/
def State.inDies (s : State) : List (Fin 4) := [(0 : Fin 4), 1, 2, 3].filter (fun d => !s.dies[d].out)

/-- The lowest earliest value of the dies of the package (R338). -/
def State.minEarliest (s : State) : Word :=
  (s.inDies.map (fun d => s.dies[d].earliest)).foldl (fun a x => if x < a then x else a) (BitVec.allOnes 64)

/-- The widths of a beacon's interval in a package and in a grant: half-widths of 10 ns and 120 ns (R337). -/
def packageWidth : Nat := 20
def grantWidth : Nat := 240

/-- The time to the next beacon on schedule, by the width of the last one's interval: 4 µs in a package, 50 µs in a grant
(R337; log 49). -/
def beaconTime (width : Nat) : Nat := if width ≤ packageWidth then 4000 else 50000

/-- How far a half-width grows in a time past the next beacon on schedule: 0.2 ns a µs (R337). -/
def drift (missed : Nat) : Nat := (missed + 4999) / 5000

/-- A die's interval at true time t (R336, R337): both ends move on with the time since its last beacon, and once a beacon is
missed the half-width grows by the drift; earliest never decreases, and the interval holds true time. -/
def Die.clockAt (d : Die) (t : Word) : Die :=
  let dt := t.toNat - d.base.1.toNat
  let e := drift (dt - beaconTime (d.base.2.2.toNat - d.base.2.1.toNat))
  let lo := word (d.base.2.1.toNat + dt - e)
  let hi := word (d.base.2.2.toNat + dt + e)
  { d with
    earliest := if lo ≤ t then later d.earliest lo else d.earliest
    latest := later t hi }

/-- True time moves on to `now`: the intervals of the dies move with it (R336, R337). -/
def State.timePasses (s : State) (now : Word) : State :=
  let t := later s.now now
  { s with now := t, dies := s.dies.map (fun d => d.clockAt t) }

/-- The width of a beacon's interval: a half-width of 10 ns, or of 120 ns in a package that a grant's beacons reach (R337). -/
def State.beaconWidth (s : State) : Nat :=
  if s.launches.any (fun l => l.multi && l.state == .running) then grantWidth else packageWidth

/-- A floor that is never above the earliest value of any die of the package (R338). -/
def State.boundFloor (s : State) (f : Word) : Word := if s.minEarliest < f then s.minEarliest else f

/-- Floors that reach a die raise its known floors, as far as the dies' clocks have passed (R338). -/
def State.hearFloors (s : State) (d : Fin 4) (package : Word) (grants : List (Nat × Word)) : State :=
  s.onDie d (fun x =>
    if x.out then x else x.raiseFloors (s.boundFloor package) (grants.map (fun g => (g.1, s.boundFloor g.2))))

/-- BEACON: a die's interval is set from a beacon at true time `now` (R336, R337), and the floors that the beacon carries raise
the die's (R338). An interval that does not hold true time, or is too wide, is no beacon's, and earliest never decreases. -/
def execBeacon (die : BitVec 2) (now earliest : Word) (latest : BeaconEnd) (s : State) : Out :=
  let s := s.timePasses now
  if earliest ≤ s.now ∧ s.now ≤ latest.latest ∧ latest.latest.toNat - earliest.toNat ≤ s.beaconWidth then
    let s := s.onDie die.toFin (fun d =>
      { d with earliest := later d.earliest earliest, latest := latest.latest, base := (s.now, earliest, latest.latest) })
    .next (s.hearFloors die.toFin latest.package latest.floors)
  else .next s

/-- A publish on another package of the grant updates this package's record (R350); a 257th record is refused there. -/
def State.hearPublish (s : State) (p : Publish) : State :=
  if 256 ≤ s.vdoms.length ∧ (s.vdom? p.owner p.dom).isNone then s
  else updateVdom p.owner p.dom p.version p.stamp (.grant p.launch) s

/-- FLOOR_REPORT: the known floors of a die rise to reported values (R338), and the publishes that travel with them update
the version-domain records (R350). -/
def execFloorReport (die : BitVec 2) (package : Word) (known : GrantKnown) (s : State) : Out :=
  .next ((known.pubs.foldl State.hearPublish s).hearFloors die.toFin package known.floors)

/-- KNOWN_FLOOR_PASSES_STAMP: the floors that a die knows, for its package and for the grants of running launches, rise as
far as its dies' clocks have passed, up to `now` (R338, R347). -/
def execKnownFloorPassesStamp (die : BitVec 2) (now : Word) (s : State) : Out :=
  let f := s.boundFloor now
  let grants := (s.launches.filter (fun l => l.multi && l.state == .running)).map (fun l => (l.id, f))
  .next (s.onDie ⟨die.toNat, die.isLt⟩ (fun d => if d.out then d else d.raiseFloors f grants))

/-- DIE_RESET: a die held in reset leaves every floor domain (R338). -/
def execDieReset (die : BitVec 2) (s : State) : Out :=
  .next (s.onDie ⟨die.toNat, die.isLt⟩ (fun d => { d with out := true }))

/-- A home as the party of its own step. -/
def homeWho (home : Fin 4) (ttb : Word) : Who :=
  ⟨⟨0, 0⟩, { (Job.reset 0).tctx with ttb := ttb }, 0, home, (0, 0, []), 0, 0⟩

/-- VERSION_CURRENT: the home of the entry at a key makes current what it finds visible (R346). A change that an uncorrectable error
drops is counted for the tile's owner, and made again (R393, R394; log 42). -/
def execVersionCurrent (entry : Nat) (s : State) : Out :=
  match nextPending s entry with
  | none => .next s
  | some v =>
    let home := homeDie entry (s.tte entry)
    match makeVisible (homeWho home v.ttb) home entry s with
    | .ok s => .next s
    | .error (.fault f) => .fault f
    | .error (.post st) => .next (s.countStatus (s.tte entry).owner st)
    | .error _ => .next s

/-! ## The completion of a Copy Engine command (R220) -/

/-- What the thread of a Copy Engine command does: the status that it posts. -/
def runCopy (c : Cmd) (s : State) : Res (Nat × State) :=
  let ok := fun (r : Res State) => r.map (fun s => (0, s))
  match c.instr with
  | .tld .. => ok (runMove c false false s)
  | .tldas _ _ _ _ _ _ sc => ok (runLoadAsOf c sc s)
  | .tgath .. => ok (runGather c s)
  | .tst .. => ok (runMove c true false s)
  | .tstash .. => ok (runMove c true true s)
  | .tscat .. => ok (runScatter c s)
  | .tcommit _ _ _ _ _ _ sc => ok (runCommit c sc s)
  | .tcopy .. => ok (runMove c true false s)
  | .tfill _ _ _ _ _ kind => ok (runFill c kind s)
  | .tdedup .. => runDedup c s
  | .tpromo .. => ok (runPromo c s)
  | .talias .. => runAlias c s
  | .publ _ _ _ _ sc => ok (runPubl c sc s)
  | _ => .ok (0, s)

/-- A command that ends with an error is skipped by CWAIT (R347). -/
def settleCommit (c : Cmd) (r : Res (Nat × State)) (s : State) : State :=
  match r with
  | .error (.post _) => s.onJob (·.dropCommit c.id)
  | _ => s

/-- COPY_ENGINE_COMPLETION: the thread of the n-th command of the Copy Engine queue runs (R207, R220). Its reads make their pass in
this step, so they hold no writes after it, be it that the command waits still (R329). -/
def execCopyEngineCompletion (n : Nat) (s : State) : Out :=
  match s.job.runnable .ce n with
  | none => .next s
  | some c =>
    let s := s.endHolds c.id
    let r := if c.cut && peerCmd s c then lostEnd c 3 s else runCopy c s
    finishThread s.job.uid .ce c (keepCommit c r (settleCommit c r s)) r

/-! ## Reads that hold writes (R329) -/

/-- The tiles that a command reads. -/
def cmdReads (c : Cmd) : List Nat :=
  match c.instr with
  | .tgath .. => (List.range (Cap.rowt c.capA)).map (fun g => Cap.tile c.capA g 0)
  | .tscat .. => [Cap.tile c.capA 0 0]
  | .tfill .. | .tpref .. | .tpromo .. | .publ .. => []
  | .tdedup .. | .talias .. => [Cap.tile c.capB (coordB c.x).1 (coordB c.x).2]
  | .mma _ _ a _ cp _ _ _ _ _ _ | .mmat _ _ a _ cp _ _ _ _ _ _ _ _ _ =>
    (if a = 0 then [] else [Cap.tile c.capA 0 0]) ++ Cap.tile c.capB 0 0 ::
      (if cp = 0 then [] else [Cap.tile c.capC 0 0])
  | .macc .. => [Cap.tile c.capC 0 0]
  | .mzero .. | .mdrain .. | .mmov .. => []
  | _ => [Cap.tile c.capA (coordA c.x).1 (coordA c.x).2]

/-- The tiles that a command reads, with the row-scale tiles that a matrix command reads beside them (R243, R259). -/
def State.readTiles (s : State) (c : Cmd) : List Nat :=
  match c.instr with
  | .mma .. | .mmat .. | .macc .. => (cmdReads c).flatMap (fun idx => idx :: (s.rowScaleTile idx).toList)
  | .mdrain _ _ _ _ _ _ q _ => if q = .row then [] else (s.rowScaleTile (Cap.tile c.capA 0 0)).toList
  | _ => cmdReads c

/-- The entries of AON tiles among tiles of the job in focus. -/
def State.aonKeys (s : State) (idxs : List Nat) : List Nat :=
  idxs.filterMap (fun idx =>
    match entryKey s.job.tctx 0 idx with
    | .ok k => if (s.tte k).aon then some k else none
    | .error _ => none)

/-- The tile that the tile-mode VLD reads that stands next in the V stream of the job in focus, where it may issue (R231). -/
def State.vldTile (s : State) : List Nat :=
  let v := { s with cur := .V }
  match if v.canIssue && v.st.blocked.isNone && !v.owes && !s.job.wantsInterrupt .V then fetch v else .error (.stall .token) with
  | .ok (.vld _ _ a imm _ true _, _) =>
    [Cap.tile (v.st.cap (tilePair imm)) (coordA (v.reg a)).1 (coordA (v.reg a)).2]
  | _ => []

/-- Whether a command of the Vat operation queue reads now: it is the next member of a batch that is being applied (R215). -/
def State.memberReads (s : State) (c : Cmd) : Bool :=
  !c.parked && s.dies.toList.any (fun d => d.batches.any (fun b => b.applying &&
    b.members.head?.any (fun r => r.uid == s.job.uid && r.cmd.id == c.id)))

/-- The n-th command of the queues of the job in focus, the Copy Engine's, the matrix engine's and the Vat's in this order, if its
reads are under way: one that waits for an earlier command of its party, or for its batch, has not begun (R207, R215, R238). -/
def State.readingCmd (s : State) (n : Nat) : Option Cmd :=
  let ce := s.job.ceQ.length
  let mx := s.job.mxQ.length
  if n < ce then s.job.runnable .ce n
  else if n < ce + mx then (if n = ce then s.job.runnable .mx 0 else none)
  else (s.job.vqQ[n - ce - mx]?).filter s.memberReads

/-- AON_WRITE_HOLD: the home holds further writes to the AON tiles of a read that is under way, as it does after sixteen retries,
until the read has made one pass (R329). The reads are numbered: those of the commands of the Copy Engine queue, the matrix queue
and the Vat operation queue, in this order; then that of the tile-mode VLD that stands next in V; then for each entry those
of the host, a CXL device and a peer package. A read that has not begun holds nothing (log 73). -/
def execAonWriteHold (n : Nat) (s : State) : Out :=
  let hold := fun (ks : List Nat) (by_ : Nat) => Host.Outcome.next
    { s with aonHolds := (ks.map (fun k => (k, by_)) ++ s.aonHolds).eraseDups }
  if n < s.job.allCmds.length then
    match s.readingCmd n with
    | some c => hold (s.aonKeys (s.readTiles c)) c.id
    | none => .next s
  else
    match n - s.job.allCmds.length with
    | 0 => hold (s.aonKeys s.vldTile) (streamHold s.job.uid)
    | m + 1 => hold (if (s.tte (m / 3)).aon then [m / 3] else []) (agentHold (m % 3))

end Sys2Proof.Machine
end

