-- ==== Sys2Proof/Machine/Launch.lean ====
section
/-!
DEFINITION. Machine/Launch.lean: launch records and their checks, placement, starting and halting jobs, the dispatcher,
pre-emption and resumption, and the instructions HALT and LAUNCH (spec/05_launch.md R89 to R118,
spec/14_ordering_and_sync.md R322, R327 and R328, spec/19_traps_faults_preemption.md R376 to R378; notes/assumptions 25
to 29).
-/
namespace Sys2Proof.Machine

/-! ## The record (R89) -/

/-- Word i of the record. -/
def Launch.w (l : Launch) (i : Nat) : Word := l.words.getD i 0
/-- DET. -/
def Launch.det (l : Launch) : Bool := (l.w 0).getLsbD 36
/-- STRICT. -/
def Launch.strict (l : Launch) : Bool := (l.w 0).getLsbD 35
/-- PREEMPT. -/
def Launch.mayPreempt (l : Launch) : Bool := (l.w 0).getLsbD 34
/-- PRIO of the record. -/
def Launch.ownPrio (l : Launch) : Nat := bits (l.w 0) 37 3
/-- COSCOPE. -/
def Launch.coscope (l : Launch) : Nat := bits (l.w 0) 30 3
/-- NSTAGE. -/
def Launch.stages (l : Launch) : Nat := bits (l.w 0) 22 4
/-- CODEVA. Its bits [11:0] are 0 by R89, and no check rejects others: all 57 bits are used as given, DESIGN CHOICE (log 72). -/
def Launch.codeva (l : Launch) : Nat := bits (l.w 1) 0 57
/-- ITEMS. -/
def Launch.items (l : Launch) : Nat := bits (l.w 3) 0 26
/-- SCRLOG. -/
def Launch.scrlog (l : Launch) : Nat := bits (l.w 3) 36 4
/-- CTAB. -/
def Launch.ctab (l : Launch) : BitVec 8 := BitVec.ofNat 8 (bits (l.w 3) 40 8)
/-- COUNTs of the levels. -/
def Launch.counts (l : Launch) : List Nat := levelCounts l.words
/-- KINDs of the levels. -/
def Launch.kinds (l : Launch) : List Nat := levelKinds l.words
/-- The first word of a stage descriptor. -/
def Launch.stage (l : Launch) (i : Nat) : Word := l.w (16 + 2 * i)
/-- The packages of the box: 1 with MULTI = 0. -/
def Launch.packages (l : Launch) : Nat := packagesOf l.words
/-- The job count N (R90). -/
def Launch.total (l : Launch) : Nat := product l.counts
/-- The jobs in an instance of a level (R92). -/
def Launch.sizeAt (l : Launch) (k : Nat) : Nat := product (l.counts.drop (k + 1))
/-- The level of a kind. -/
def Launch.levelOf (l : Launch) (kind : Nat) : Option Nat := (l.kinds.zipIdx.find? (·.1 == kind)).map (·.2)
/-- NLOOP. -/
def Launch.loops (l : Launch) : Nat := bits (l.w 14) 61 3
/-- The EXTENTs of the used loops. -/
def Launch.extents (l : Launch) : List Nat := (List.range l.loops).map (fun i => bits (l.w (8 + i)) 32 32)

/-! ## The checks of a record (R90) -/

/-- The hardware kinds, top down. -/
def hardware (kinds : List Nat) : List Nat := kinds.filter (fun k => decide (1 ≤ k ∧ k ≤ 5))

/-- Each number is less than the next. -/
def rising : List Nat → Bool
  | a :: b :: rest => decide (a < b) && rising (b :: rest)
  | _ => true

/-- The levels: kinds in order, GRANT only at the top, COUNTs. -/
def Launch.levelsOk (l : Launch) : Bool :=
  let ks := l.kinds
  let cs := l.counts
  ks.getLast? == some 0 && !ks.dropLast.contains 0 && !ks.contains 7 && !cs.contains 0 && rising (hardware ks) &&
    (!ks.contains 1 || (ks.head? == some 1 && cs.head? == some 1 && l.multi)) &&
    (ks.zip cs).all (fun (k, c) => k != 2 || c == l.packages)

/-- The positions of kinds above `above` down to `kind` in one of their domains: 4 dies, 6 clusters, 8 cores. -/
def positions (above kind : Nat) : Nat :=
  product (((List.range 6).filter (fun k => decide (max above 2 < k ∧ k ≤ kind))).map (fun k =>
    if k = 3 then 4 else if k = 4 then 6 else 8))

/-- DIE, CLUSTER and CORE have no more instances than positions: the fold holds the kind above and the product since. -/
def Launch.positionsOk (l : Launch) : Bool :=
  let go := fun (acc : Bool × Nat × Nat) (kc : Nat × Nat) =>
    let p := acc.2.2 * kc.2
    let above := acc.2.1
    let room := positions above kc.1 * (if above = 1 then l.packages else 1)
    let ok := acc.1 && (!decide (3 ≤ kc.1 ∧ kc.1 ≤ 5) || decide (p ≤ room))
    if 1 ≤ kc.1 ∧ kc.1 ≤ 5 then (ok, kc.1, 1) else (ok, above, p)
  ((l.kinds.zip l.counts).foldl go (true, (if l.multi then 1 else 2), 1)).1

/-- The cores that one CLUSTER instance holds at once, at most 8. -/
def Launch.clusterOk (l : Launch) : Bool :=
  match l.levelOf 4 with
  | none => true
  | some k =>
    let bottom := (l.levelOf 5).getD (l.counts.length - 1)
    decide (product ((l.counts.take (bottom + 1)).drop (k + 1)) ≤ 8)

/-- The loop nest. -/
def Launch.loopsOk (l : Launch) : Bool :=
  let n := l.loops
  let perm := (List.range (min n 6)).map (fun p => bits (l.w 14) (57 - 3 * p) 3)
  n == 0 || ((List.range n).all perm.contains && !l.extents.contains 0 && decide (product l.extents ≤ 2 ^ 48))

/-- The queue bindings. -/
def Launch.queuesOk (l : Launch) : Bool :=
  (List.range 8).all (fun q => match binding (l.w 15) q with | some (p, c) => p != c | none => true)

/-- The stage descriptors. -/
def Launch.stagesOk (l : Launch) (cores : Nat) : Bool :=
  let n := l.stages
  let minJobs := fun i => bits (l.stage i) 48 8
  let maxJobs := fun i => bits (l.stage i) 40 8
  n == 0 ||
    (!l.multi && l.counts.length == 1 && l.coscope == 0 && l.loops == 0 && l.items != 0 &&
      (List.range n).all (fun i => decide (minJobs i ≤ maxJobs i) && maxJobs i != 0) &&
      decide (((List.range n).map minJobs).foldl (· + ·) 0 ≤ cores) &&
      (List.range (n - 1)).all (fun i => bits (l.stage i) 16 16 != 0 && bits (l.stage i) 0 16 != 0 &&
        decide (bits (l.w (17 + 2 * i)) 0 40 < locRange 2)))

/-- The box lies within the torus. -/
def Launch.boxOk (l : Launch) (torus : Nat × Nat × Nat) : Bool :=
  !l.multi || (decide (bits (l.w 2) 48 4 < torus.1) && decide (bits (l.w 2) 44 4 < torus.2.1) &&
    decide (bits (l.w 2) 40 4 < torus.2.2))

/-- Whether the record passes R90. -/
def Launch.recordOk (l : Launch) (s : State) : Bool :=
  let nlev := bits (l.w 0) 26 4
  bits (l.w 0) 40 8 == 1 && decide (l.coscope ≤ 4) && decide (1 ≤ nlev ∧ nlev ≤ 8) && decide (l.stages ≤ 8) && l.levelsOk &&
    l.boxOk s.torus && (l.multi || l.coscope != 4) && l.positionsOk && l.clusterOk && decide (l.total < 2 ^ 32) &&
    l.loopsOk && decide (l.scrlog ≤ 13) && l.queuesOk && l.stagesOk s.coreCount && decide (l.depth ≤ 16)

/-! ## Sets that start together (R94, R95) -/

/-- The level of the outermost co-resident instances and gangs (R94). -/
def Launch.unitLevel (l : Launch) : Option Nat :=
  let bs := boundScopes l.multi l.kinds
  ((List.range (max l.coscope 1)).map (max l.coscope 1 - ·)).findSome? (fun sc =>
    (bs.zipIdx.find? (·.1 == sc)).map (·.2))

/-- The jobs of one CORE instance: they run one after another on one core (R92). -/
def Launch.perCore (l : Launch) : Nat := ((l.levelOf 5).map l.sizeAt).getD 1

/-- The jobs of the launch that this package runs, from job 0 (log 27): none where it is no package of the grant (R101). -/
def Launch.share (l : Launch) : Nat := if l.here then shareOf l.words else 0

/-- The first jobs of the CORE instances of the set around a job, on every package. -/
def Launch.wholeUnit (l : Launch) (num : Nat) : List Nat :=
  match l.unitLevel with
  | none => [num]
  | some i =>
    let z := l.sizeAt i
    let per := l.perCore
    (List.range (z / per)).map (fun k => num / z * z + per * k)

/-- Those of them that this package runs: what starts together here. -/
def Launch.unit (l : Launch) (num : Nat) : List Nat := (l.wholeUnit num).filter (· < l.share)

/-- Whether two jobs belong to one set that is pre-empted whole (R110). -/
def Launch.together (l : Launch) (a b : LJob) : Bool :=
  a.stage == b.stage &&
    (match l.unitLevel with | some i => a.num / l.sizeAt i == b.num / l.sizeAt i | none => a.num == b.num)

/-! ## Placement (R92, R94; log 26) -/

/-- The cluster of a core (R11). -/
def State.clusterOf (s : State) (core : Nat) : Nat :=
  (((List.range 24).filter (fun n => s.clusterStart n ≤ core)).getLast?).getD 0

/-- The domain of a kind that a core lies in: 3 DIE, 4 CLUSTER, 5 CORE. -/
def State.domainAt (s : State) (kind core : Nat) : Nat :=
  match kind with
  | 3 => (s.dieOf core).val
  | 4 => s.clusterOf core
  | 5 => core
  | _ => 0

/-- The levels that map to domains inside the package: level and kind. A PKG instance maps to no domain here: it stands on
its package, and where a level above PKG gives more PKG instances than packages, all of them stand on this one (log 50). -/
def Launch.hwLevels (l : Launch) : List (Nat × Nat) :=
  (l.kinds.zipIdx.filter (fun x => decide (3 ≤ x.1 ∧ x.1 ≤ 5))).map (fun x => (x.2, x.1))

/-- Which domain each instance of a level has: ((level, instance), domain). -/
abbrev DomMap := List ((Nat × Nat) × Nat)

/-- The domain of an instance. -/
def DomMap.get (m : DomMap) (k : Nat × Nat) : Option Nat := (m.find? (·.1 == k)).map (·.2)

/-- The domains that the placed jobs of a launch have fixed, those on cores first; the first entry of an instance counts. A
set that is resumed may take other domains than its own halted jobs had (R92, R378). -/
def Launch.domMap (l : Launch) (s : State) (resumed : Option LJob) : DomMap :=
  let on := l.jobs.filter (fun x => x.phase == .running || x.phase == .loaded)
  let off := l.jobs.filter (fun x => x.phase == .halted && !resumed.any (l.together x))
  (on ++ off).foldl (fun (m : DomMap) x =>
    l.hwLevels.foldl (fun (m : DomMap) (i, kind) =>
      let k := (i, x.num / l.sizeAt i)
      if (m.get k).isSome then m else m ++ [(k, s.domainAt kind x.core)]) m) []

/-- Jobs on cores, and the domains that this gives their instances. -/
abbrev Placement := List (Nat × Nat) × DomMap

/-- A domain for an instance, with the placement of its jobs there. -/
abbrev Choice := Nat × Placement

/-- The instances of a level that have a domain, with their choices. -/
abbrev Matching := List (Nat × Choice)

/-- Give instance x one of its choices whose domain is free, the lowest first, or one whose owner can move to another; no domain
of the list is tried again. Whether it has one, the domains that were tried, and the matching. -/
def Matching.tryTo (table : List (Nat × List Choice)) : Nat → Nat → List Nat → Matching → Bool × List Nat × Matching
  | 0, _, seen, m => (false, seen, m)
  | fuel + 1, x, seen, m =>
    let cs := ((table.find? (·.1 == x)).map (·.2)).getD []
    let taken := fun (c : Choice) => m.any (·.2.1 == c.1)
    (cs.filter (fun c => !taken c) ++ cs.filter taken).foldl (fun (acc : Bool × List Nat × Matching) c =>
      if acc.1 || acc.2.1.contains c.1 then acc
      else
        let seen := c.1 :: acc.2.1
        match acc.2.2.find? (·.2.1 == c.1) with
        | none => (true, seen, acc.2.2.filter (·.1 != x) ++ [(x, c)])
        | some e =>
          let r := Matching.tryTo table fuel e.1 seen acc.2.2
          (r.1, r.2.1, if r.1 then r.2.2.filter (·.1 != x) ++ [(x, c)] else r.2.2)) (false, seen, m)

/-- A domain of its own for every instance, where that can be: by augmenting paths, so that none is missed. -/
def matchAll (table : List (Nat × List Choice)) : Option Matching :=
  table.foldl (fun acc x => acc.bind fun m =>
    let r := Matching.tryTo table ((table.flatMap (·.2)).length + 1) x.1 [] m
    if r.1 then some r.2.2 else none) (some [])

/-- The domains among the cores `dom` that instance x of a level may have: its own if it has one, or those that no other
instance has; a cluster with a core for each job that its instance holds at once (R92). -/
def Launch.domainsFor (l : Launch) (s : State) (i kind x : Nat) (dom : List Nat) (m : DomMap) : List Nat :=
  match m.get (i, x) with
  | some d => [d]
  | none =>
    ((dom.map (s.domainAt kind)).eraseDups).filter (fun g =>
      !(m.any (fun e => e.1.1 == i && e.2 == g)) &&
        (kind != 4 || decide (l.sizeAt i / l.perCore ≤ (dom.filter (fun c => s.domainAt kind c == g)).length)))

/-- Place jobs on the free ones of the cores `dom` down the levels: each instance takes a domain of its own in which its jobs can
be placed, the lowest where there is a choice, and below the last level the lowest free cores. It answers none only where no
placement does (R92, R107, R110). -/
def Launch.placeIn (l : Launch) (s : State) (free : List Nat) (m : DomMap) :
    List (Nat × Nat) → List Nat → List Nat → Option Placement
  | [], nums, dom =>
    let cs := dom.filter free.contains
    if nums.length ≤ cs.length then some (nums.zip cs, []) else none
  | (i, kind) :: rest, nums, dom =>
    let xs := (nums.map (· / l.sizeAt i)).eraseDups
    let table : List (Nat × List Choice) := xs.map (fun x =>
      (x, (l.domainsFor s i kind x dom m).filterMap (fun d =>
        (l.placeIn s free m rest (nums.filter (· / l.sizeAt i == x)) (dom.filter (fun c => s.domainAt kind c == d))).map ((d, ·)))))
    (matchAll table).map fun (ma : Matching) =>
      (ma.flatMap (·.2.2.1), ma.flatMap (fun e => ((i, e.1), e.2.1) :: e.2.2.2))

/-- Place jobs on free cores, in order; the instances that have no domain yet take one. -/
def Launch.place (l : Launch) (s : State) (nums free : List Nat) (m : DomMap) : Option Placement :=
  (l.placeIn s free m l.hwLevels nums (List.range s.coreCount)).map fun (ps, ds) =>
    (nums.filterMap (fun n => ps.find? (·.1 == n)), m ++ ds.filter (fun e => (m.get e.1).isNone))

/-- What a package of the grant has left while units are placed: the domains taken, and the free cores. -/
abbrev PkgRoom := DomMap × List Nat

/-- Place jobs that stay on one package on the first package with room for them. -/
def Launch.placeOn (l : Launch) (s : State) (ns : List Nat) : List PkgRoom → Option (List PkgRoom)
  | [] => none
  | (m, free) :: rest =>
    match l.place s ns free m with
    | some (ps, m) => some ((m, free.filter (fun c => !ps.any (·.2 == c))) :: rest)
    | none => (l.placeOn s ns rest).map ((m, free) :: ·)

/-- The parts of a unit that stay on one package: all of it, or where a GRANT instance spans packages without a PKG level,
the instances of its next hardware level (R92). -/
def Launch.parts (l : Launch) (i : Nat) (ns : List Nat) : List (List Nat) :=
  if (boundScopes l.multi l.kinds).getD i 0 == 4 && (l.levelOf 2).isNone then
    let z := ((l.hwLevels.find? (fun x => decide (i < x.1))).map (fun x => l.sizeAt x.1)).getD l.perCore
    ((ns.map (· / z)).eraseDups).map (fun q => ns.filter (· / z == q))
  else [ns]

/-- Place one unit on packages whose cores are all free. -/
def Launch.placeUnit (l : Launch) (s : State) (i : Nat) (ns : List Nat) (rooms : List PkgRoom) : Option (List PkgRoom) :=
  (l.parts i ns).foldl (fun acc p => acc.bind (l.placeOn s p)) (some (rooms.map (fun r => (r.1, List.range s.coreCount))))

/-- Whether every co-resident instance and gang fits the empty package, or the packages of the grant (R94): instances take
domains of their own, and without a PKG level the instances of a multi-package launch share out its packages. -/
def State.fits (s : State) (l : Launch) : Bool :=
  match l.unitLevel with
  | none => true
  | some i =>
    let z := l.sizeAt i
    let (packs, jobs) := if (l.levelOf 2).isNone then (l.packages, l.total) else (1, shareOf l.words)
    ((List.range ((jobs + z - 1) / z)).foldl (fun acc x =>
        acc.bind (l.placeUnit s i ((l.wholeUnit (x * z)).filter (· < jobs))))
      (some (List.replicate packs (([], []) : PkgRoom)))).isSome

/-! ## Submission (R89, R103, R106, R108, R116, R362) -/

/-- A submitted record becomes a launch: checked, then waiting (R103). `owned` says that its OWNER may submit it here. -/
def State.newLaunch (s : State) (l : Launch) (owned : Bool) : State :=
  let l := { l with id := s.nextLaunch, here := !l.multi || l.inBox s.torus s.coords }
  let s := { s with launches := s.launches ++ [l], nextLaunch := s.nextLaunch + 1 }
  if !(owned && l.recordOk s) then s.endLaunch l.id 1 0 0 0
  else if !s.fits l then s.endLaunch l.id 2 0 0 0
  else s

/-- A launch of a record's words. -/
def launchOf (words : List Word) (tag : Option (BitVec 8)) (parent : Option (Nat × BitVec 4)) (epoch : Nat) (key : List Nat)
    (depth prio : Nat) : Launch where
  id := 0
  tag := tag
  parent := parent
  parentEpoch := some epoch
  key := key
  depth := depth
  words := words
  state := .waiting
  prio := prio
  jobs := []
  image := none
  probed := false
  othersHalted := false
  here := true
  status := 0
  trap := 0
  endStage := 0
  endJob := 0

/-- The 32 words at a key. -/
def State.recordAt (s : State) (k : Nat) : List Word := (List.range 32).map (fun i => s.load64 (k + 8 * i))

/-- The J of a job (R115). -/
def Job.keyNumber (j : Job) : Nat := bits j.lid 60 4 * 2 ^ 32 + bits j.lid 0 32

/-- The child launch that the stream in focus submits, with the epoch that the LAUNCH carries (R115, R116, R327). -/
def State.childOf (s : State) (cc : Cc) (words : List Word) (epoch : Nat) : Launch :=
  let j := s.job
  let p := s.launch? j.launch
  let key := ((p.map (·.key)).getD []) ++ [j.keyNumber, streamNo s.cur, s.st.calls]
  let own := bits (words.getD 0 0) 37 3
  let prio := min own ((p.map (·.ownPrio)).getD own)
  launchOf words none (some (j.uid, cc)) epoch key (j.depth + 1) prio

/-- Submit a child launch (R327): the call index rises and the job releases; its die's floors travel with the launch
(R338). -/
def State.submitChild (s : State) (cc : Cc) (words : List Word) : State :=
  let j := s.job
  let l := s.childOf cc words j.epoch
  let s := (s.onSt (fun t => { t with calls := t.calls + 1 })).onJob (fun j => j.release.2)
  (s.newLaunch l (l.owner == j.owner && l.owner != 0)).spread s.myDie

/-- LAUNCH (R327). A record that meets an uncorrectable error is dropped, and the launch has no words: it ends as a malformed
one does (R82, R394; log 42). -/
def execLaunch (w : Wheel) (cc : Cc) (a : SReg) (s : State) : Out :=
  issue w 1 onlyAE (regBit a) (fun s =>
    (s.place (vaOf (s.reg a)) 256 0).map fun (k, s) =>
      if s.good k 256 then s.submitChild cc (s.recordAt k) else s.dropped.submitChild cc []) s

/-! ## Loading a job (R97, R157) -/

/-- The records of a core's LTT entries, and the holds on them, are gone. -/
def State.dropRecs (s : State) (core : Nat) : State :=
  let r := lttRange core
  let out := fun (k : Nat) => k < r.1 || r.2 ≤ k
  { s with recs := s.recs.filter (fun x => out x.entry), aonHolds := s.aonHolds.filter (fun x => out x.1) }

/-- A core's LTT from templates and its scratch all zero. -/
def State.prepareCore (s : State) (core : Nat) (es : List (Nat × Tte)) : State :=
  (({ s with mem := clearRange (scratchRange core) s.mem }).loadLtt core es).dropRecs core

/-- The Harp slice of job n (R99, R111). With 2^48 iterations the last job's SLICEHI, 2^48, does not fit its 48 bits and reads
0 (log 51). -/
def Launch.slice (l : Launch) (n : Nat) : Nat × Nat :=
  if l.stages ≠ 0 then (n, n + 1)
  else if l.loops = 0 then (0, 0)
  else
    let t := product l.extents
    (n * t / l.total, (n + 1) * t / l.total)

/-- The instance that binds a scope code innermost around job n (R93). -/
def Launch.instance_ (l : Launch) (code n : Nat) : Option Nat :=
  (innermostLevel l.multi l.kinds code).map (fun k => n / l.sizeAt k)

/-- The gang of job n: CLUSTER instance, position and J (R95). -/
def Launch.gang (l : Launch) (n : Nat) : Option Nat × Nat × Nat :=
  match l.levelOf 4 with
  | none => (none, 0, 0)
  | some k =>
    let z := l.sizeAt k
    (some (n / z), n % z / l.perCore, z / l.perCore)

/-- The entry index of a stage (R89). -/
def Launch.entryOf (l : Launch) (stage : Nat) : Nat :=
  if l.stages = 0 then bits (l.w 0) 14 8 else bits (l.stage stage) 56 8

/-- A stream as the loader starts it: its pc and its seeds (R97, R157). -/
def startStream (img : Image) (codeva : Nat) (row : List Nat) (x : StreamId) : Stream :=
  let off := (img.code[streamNo x]'(by cases x <;> decide)).1
  let t := { Stream.reset with pc := BitVec.ofNat 57 (codeva + off + row.getD (streamNo x) 0) }
  img.seeds.foldl (fun t (p, mask, cap) => if mask.getLsbD (streamNo x) then t.setCap p cap true else t) t

/-- The state of a job at its start (R97). -/
def Launch.startJob (l : Launch) (img : Image) (ttb : Word) (stage n core uid : Nat) : Job :=
  let row := img.entries.getD (l.entryOf stage) []
  let (lo, hi) := l.slice n
  let (gang, pos, size) := l.gang n
  let q : Party := ⟨(l.parent.map (·.1)).getD 0, 0⟩
  { Job.reset core with
    uid := uid
    phase := .loaded
    launch := l.id
    depth := l.depth
    lid := word (stage * 2 ^ 60 + n % 2 ^ 32)
    owner := l.owner
    sliceLo := BitVec.ofNat 48 lo
    sliceHi := BitVec.ofNat 48 hi
    clusterNo := l.instance_ 1 n
    dieNo := l.instance_ 2 n
    pkgNo := l.instance_ 3 n
    grantNo := l.instance_ 4 n
    gangNo := gang
    gangPos := pos
    gangSize := size
    coscope := l.coscope
    strict := l.strict
    multi := l.multi
    pipeline := l.stages != 0
    vdom := BitVec.ofNat 16 (bits (l.w 3) 48 16)
    scrlog := l.scrlog
    codeva := BitVec.ofNat 57 l.codeva
    segs := img.code.map (fun (off, size) => (BitVec.ofNat 57 (l.codeva + off), size))
    a := startStream img l.codeva row .A
    m := startStream img l.codeva row .M
    v := startStream img l.codeva row .V
    e := startStream img l.codeva row .E
    queues := Vector.ofFn (fun i : Fin 8 => ⟨binding (l.w 15) i.val, []⟩)
    qset := l.ctab
    culture := img.ctab
    dirtab := img.dirtab
    ttbase := ttb
    acq := (l.parentEpoch.map (fun e => (q, e))).toList }

/-- Put a job on its core. -/
def State.setOn (s : State) (j : Job) : State :=
  if s.job.core = j.core then s.setJob j else { s with others := insertJob j (s.others.filter (·.core != j.core)) }

/-- The table base of an owner (R396). -/
def State.ttbOf (s : State) (o : BitVec 16) : Word :=
  ((s.owners.find? (·.id == o)).map (·.ttb)).getD 0 &&& 0xE000_00FF_FFFF_FFE0

/-- Load job n of a stage on a core. -/
def State.loadJob (s : State) (l : Launch) (img : Image) (phase : JobPhase) (stage n core : Nat) : State :=
  let s := s.prepareCore core img.ltt
  let uid := s.nextUid
  let j := { l.startJob img (s.ttbOf l.owner) stage n core uid with phase := phase }
  let lj : LJob := ⟨stage, n, core, uid, if phase = .running then .running else .loaded⟩
  let s := { s with nextUid := uid + 1 }
  (s.setOn j).onLaunch l.id (fun l => { l with jobs := l.jobs ++ [lj] })

/-- What the loader checks for a launch whose first job goes to a core. -/
def Launch.loadReq (l : Launch) (s : State) (n core : Nat) : LoadReq where
  at_ := ⟨l.owner, l.codeva⟩
  det := l.det
  entries := if l.stages = 0 then [l.entryOf 0] else (List.range l.stages).map l.entryOf
  w15 := l.w 15
  ctab := l.ctab
  ctx := ⟨l.owner, s.ttbOf l.owner, core, l.scrlog, l.id, (l.gang n).1, (l.gang n).2.2⟩

/-- A launch enters LOADING when its first jobs receive cores (R103). -/
def Launch.loading (l : Launch) : Launch := if l.state = .waiting then { l with state := .loading } else l

/-- Load the jobs of a set on their cores (R95, R103). -/
def State.loadAll (s : State) (l : Launch) (img : Image) (stage : Nat) (ps : List (Nat × Nat)) : State :=
  (ps.foldl (fun s p => s.loadJob l img .loaded stage p.1 p.2) s).onLaunch l.id Launch.loading

/-- Load a set, with the checks of R163 if the launch's image has not been checked yet: ABORT_LOAD where they fail, or where a read
of the loader meets a trap (log 23) or an uncorrectable error, which the owner's CORRUPT counts and for which no rule gives the
outcome (R393; log 42). -/
def State.startSet (s : State) (l : Launch) (stage : Nat) (ps : List (Nat × Nat)) : Out :=
  match l.image with
  | some img => .next (s.loadAll l img stage ps)
  | none =>
    match loadImage (l.loadReq s ((ps.head?.map (·.1)).getD 0) ((ps.head?.map (·.2)).getD 0)) s with
    | .ok (img, s) => .next ((s.onLaunch l.id (fun l => { l with image := some img })).loadAll l img stage ps)
    | .error (.fault f) => .fault f
    | .error (.post st) => .next ((s.countStatus l.owner st).endLaunch l.id 3 0 0 0)
    | .error _ => .next (s.endLaunch l.id 3 0 0 0)

/-! ## HALT (R119, R322) -/

/-- Change the phase of a job among its launch's jobs. -/
def Launch.setPhase (l : Launch) (uids : List Nat) (p : LJobPhase) : Launch :=
  { l with jobs := l.jobs.map (fun x => if uids.contains x.uid then { x with phase := p } else x) }

/-- Whether a job of a launch has halted. -/
def LJob.over (x : LJob) : Bool := x.phase == .halted || x.phase == .haltedAway

/-- The halted jobs of a launch. -/
def Launch.haltedJobs (l : Launch) : Nat := (l.jobs.filter LJob.over).length

/-- Whether every job of the co-resident set or gang around job `num` has halted, or none stands around it: those that this
package runs, and as their packages report, the others (R94; log 27). -/
def Launch.unitOver (l : Launch) (num : Nat) : Bool :=
  match l.unitLevel with
  | none => true
  | some i =>
    let z := l.sizeAt i
    let q := num / z
    (l.jobs.filter (fun x => x.num / z == q && x.over)).length == min ((q + 1) * z) l.share - q * z &&
      (decide ((q + 1) * z ≤ l.share) || l.othersHalted)

/-- A job that has halted as it holds its core, with its scratch allocation, which its siblings reach, unless its CORE instance
had later jobs (R94, R95; log 65). -/
def Job.stay (j : Job) (sibling : Bool) : Job :=
  { Job.reset j.core with
    uid := j.uid
    phase := .halted
    launch := j.launch
    lid := j.lid
    owner := j.owner
    scrlog := j.scrlog
    gangNo := if sibling then j.gangNo else none
    gangPos := j.gangPos
    gangSize := j.gangSize }

/-- The cores that halted jobs of a launch hold come free when the last job of their set has halted (R94). -/
def State.freeHeld (s : State) (l : Launch) : State :=
  s.vacateWhere (fun j => j.phase == .halted && j.launch == l.id && l.unitOver (bits j.lid 0 32))

/-- Whether every job of the launch has halted (R103, R113): those that this package runs, and as their packages report, the
others (log 27). -/
def Launch.allHalted (l : Launch) : Bool :=
  l.haltedJobs == (if l.stages = 0 then l.share else l.stages * l.items) && (l.stages != 0 || l.share == l.total || l.othersHalted)

/-- The next job of a gang's CORE instance is loaded on the same core at once, and it executes (R95). -/
def State.nextOnCore (s : State) (l : Launch) (num core : Nat) : State :=
  match l.image with
  | some img =>
    if l.unitLevel.isSome ∧ l.stages = 0 ∧ (num + 1) % l.perCore ≠ 0 ∧ num + 1 < l.share
    then s.loadJob l img .running 0 (num + 1) core else s
  | none => s

/-- The job in focus halts with its last stream; its die's floors travel with the completion (R338). Its core is free once every
job of its co-resident set has halted (R94). -/
def State.haltJob (s : State) : State :=
  let j := s.job
  let s := ((s.dropCopies (·.core == j.core)).spread s.myDie).onLaunch j.launch (·.setPhase [j.uid] .halted)
  match s.launch? j.launch with
  | none => s.setJob j.vacate
  | some l =>
    let s := (s.setJob (j.stay (l.perCore == 1))).freeHeld l
    if l.allHalted then s.endLaunch l.id 0 0 0 0 else s.nextOnCore l (bits j.lid 0 32) j.core

/-- Whether a stream has work that HALT waits for: a command that has not posted, or a pending register (R322). -/
def Job.owesHalt (j : Job) (x : StreamId) : Bool :=
  j.allCmds.any (·.stream == x) || (j.stream x).pend != 0 || (j.stream x).shadowPend != 0

/-- A stream has halted; the job halts with the last one. -/
def State.haltStream (s : State) : State :=
  let s := s.onSt (fun t => { t with phase := .halted })
  if allStreams.all (fun x => (s.job.stream x).phase == .halted) then s.haltJob else s

/-- HALT. -/
def execHalt (w : Wheel) (s : State) : Out :=
  issue w 1 anyStream 0 (fun s => if s.job.owesHalt s.cur then .error (.stall .haltJoin) else .ok s.haltStream) s

/-! ## Service order and what waits (R106, R107, R111, R113) -/

/-- Lexicographic order, a key before those it is a prefix of (R106). -/
def keyBefore : List Nat → List Nat → Bool
  | [], [] => false
  | [], _ :: _ => true
  | _ :: _, [] => false
  | a :: as, b :: bs => decide (a < b) || (a == b && keyBefore as bs)

/-- Whether a launch comes before another in service order (R107). -/
def Launch.before (a b : Launch) : Bool := decide (b.prio < a.prio) || (a.prio == b.prio && keyBefore a.key b.key)

/-- Insert a launch in service order. -/
def insertLaunch (l : Launch) : List Launch → List Launch
  | [] => [l]
  | x :: xs => if l.before x then l :: x :: xs else x :: insertLaunch l xs

/-- The launches in service order. -/
def State.inService (s : State) : List Launch := s.launches.foldl (fun ls l => insertLaunch l ls) []

/-- Jobs that may start. -/
inductive Work where
  /-- A pre-empted set (R378). -/
  | resume (jobs : List LJob)
  /-- The next job of a CORE instance, on its core (R92). -/
  | onCore (num core : Nat)
  /-- A set of jobs of a stage. -/
  | start (stage : Nat) (nums : List Nat)
  deriving DecidableEq, Repr

/-- Whether a job of a pipeline has started. -/
def Launch.started (l : Launch) (stage i : Nat) : Bool := l.jobs.any (fun x => x.stage == stage && x.num == i)
/-- Whether a job of a pipeline has halted. -/
def Launch.hasHalted (l : Launch) (stage i : Nat) : Bool :=
  l.jobs.any (fun x => x.stage == stage && x.num == i && x.phase == .halted)
/-- The jobs of a stage that hold cores. -/
def Launch.holding (l : Launch) (stage : Nat) : Nat :=
  (l.jobs.filter (fun x => x.stage == stage && (x.phase == .running || x.phase == .loaded))).length
/-- The next item of a stage: items start in order (R111). -/
def Launch.nextItem (l : Launch) (stage : Nat) : Nat := (l.jobs.filter (·.stage == stage)).length

/-- Whether the next item of a stage is runnable (R111) and the stage may hold another core (R113). -/
def Launch.runnable (l : Launch) (stage : Nat) : Bool :=
  let i := l.nextItem stage
  let depth := bits (l.stage stage) 16 16
  decide (i < l.items) && (stage == 0 || l.hasHalted (stage - 1) i) &&
    (stage + 1 == l.stages || decide (i < depth) || l.hasHalted (stage + 1) (i - depth)) &&
    decide (l.holding stage < bits (l.stage stage) 40 8)

/-- The items that stand in a stage's input queue: halted before it and not yet started in it. -/
def Launch.occupancy (l : Launch) (stage : Nat) : Nat :=
  if stage = 0 then l.items - l.nextItem 0
  else (l.jobs.filter (fun x => x.stage == stage - 1 && x.phase == .halted)).length - l.nextItem stage

/-- The stage that the dispatcher serves next: one below MINJOBS first, then the fullest input queue (R113). -/
def Launch.nextStage (l : Launch) : Option Nat :=
  let ready := (List.range l.stages).filter l.runnable
  (ready.find? (fun i => decide (l.holding i < bits (l.stage i) 48 8))) <|>
    ready.foldl (fun best i =>
      match best with | none => some i | some b => if l.occupancy b < l.occupancy i then some i else some b) none

/-- The jobs whose turn on their core has come (R92). -/
def Launch.nextOnCores (l : Launch) : List (Nat × Nat) :=
  (l.jobs.filter (fun x => x.phase == .halted && l.stages == 0 && (x.num + 1) % l.perCore != 0 &&
    decide (x.num + 1 < l.share) && !l.jobs.any (fun y => y.num == x.num + 1))).map (fun x => (x.num + 1, x.core))

/-- The pre-empted sets of a launch, with their halted jobs (R378). -/
def Launch.suspended (l : Launch) : List (List LJob) :=
  let js := l.jobs.filter (fun x => x.phase == .preempted || x.phase == .haltedAway)
  (js.filter (fun x => js.find? (l.together x) == some x)).map (fun x => js.filter (l.together x))

/-- The next set of first jobs: in ascending logical number (R103). -/
def Launch.nextHead (l : Launch) : Nat := l.perCore * (l.jobs.filter (fun x => x.num % l.perCore == 0)).length

/-- What a launch has waiting for cores: pre-empted sets and the next jobs of CORE instances before jobs that have not started
(R110; log 28). -/
def Launch.works (l : Launch) : List Work :=
  if l.state = .ended ∨ l.state = .routing then []
  else
    l.suspended.map .resume ++
      (if l.stages ≠ 0 then (l.nextStage.map (fun i => Work.start i [l.nextItem i])).toList
       else l.nextOnCores.map (fun x => .onCore x.1 x.2) ++
        (if l.nextHead < l.share then [.start 0 (l.unit l.nextHead)] else []))

/-! ## The dispatcher (R107, R110) -/

/-- The free cores, off stopped dies and off blocked ones. -/
def State.freeCores (s : State) (blocked : List Nat) : List Nat :=
  (List.range s.coreCount).filter (fun c =>
    !(s.onCores.any (fun j => j.core == c && j.uid != 0)) && !(s.dies[s.dieOf c]).stopped &&
      !blocked.contains (s.dieOf c).val)

/-- The cores for what a launch has waiting: (logical number, core). -/
def State.coresFor (s : State) (l : Launch) (free : List Nat) : Work → Option (List (Nat × Nat))
  | .resume js => (l.place s (js.map (·.num)) free (l.domMap s js.head?)).map (·.1)
  | .onCore n c => if free.contains c then some [(n, c)] else none
  | .start _ ns => (l.place s ns free (l.domMap s none)).map (·.1)

/-- The dies on which waiting work needs a core: those that its instances are mapped to, or all. -/
def State.waitsOn (s : State) (l : Launch) : Work → List Nat
  | .onCore _ c => [(s.dieOf c).val]
  | w =>
    let n := match w with
      | .start _ ns => ns.headD 0
      | .resume js => (js.head?.map (·.num)).getD 0
      | .onCore n _ => n
    let m := l.domMap s (match w with | .resume js => js.head? | _ => none)
    let cs := l.hwLevels.foldl (fun cs (i, kind) =>
      match m.get (i, n / l.sizeAt i) with
      | some d => cs.filter (fun c => s.domainAt kind c == d)
      | none => cs) (List.range s.coreCount)
    (cs.map (fun c => (s.dieOf c).val)).eraseDups

/-- What the dispatcher may do. -/
inductive Plan where
  | route (launch : Nat)
  | run (launch : Nat) (work : Work) (cores : List (Nat × Nat))
  deriving DecidableEq, Repr

/-- What may be done, in service order; an earlier launch that waits for a core on a die blocks the die (R107). -/
def State.plans (s : State) : List Launch → List Nat → List Plan
  | [], _ => []
  | l :: ls, blocked =>
    if l.state = .waiting ∧ l.multi = true then .route l.id :: s.plans ls blocked
    else
      let free := s.freeCores blocked
      let ready := l.works.filterMap (fun w => (s.coresFor l free w).map (fun ps => (w, ps)))
      let stuck := l.works.filter (fun w => (s.coresFor l free w).isNone)
      ready.map (fun x => .run l.id x.1 x.2) ++
        s.plans ls (blocked ++ ready.flatMap (fun x => x.2.map (fun p => (s.dieOf p.2).val)) ++ stuck.flatMap (s.waitsOn l))

/-- The image of a saved context on a core (R377): keys below 2^16 are LTT bytes, those above scratch bytes. -/
def contextCells (core scrlog : Nat) (m : List Host.Cell) : List Host.Cell :=
  let r := lttRange core
  let c := scratchRange core
  m.filterMap (fun x =>
    if r.1 ≤ x.1 ∧ x.1 < r.2 then some (x.1 - r.1, x.2)
    else if c.1 ≤ x.1 ∧ x.1 < c.1 + 512 * 2 ^ scrlog then some (2 ^ 16 + (x.1 - c.1), x.2)
    else none)

/-- The key of a byte of a saved context on a core. -/
def contextKey (core k : Nat) : Nat := if k < 2 ^ 16 then (lttRange core).1 + k else (scratchRange core).1 + (k - 2 ^ 16)

/-- Move the access records of LTT entries from one range of keys to another (R378). -/
def moveRecs (src dst : Nat) (rs : List RecTag) : List RecTag :=
  rs.map (fun r => if src ≤ r.entry ∧ r.entry < src + 2 ^ 16 then { r with entry := dst + (r.entry - src) } else r)

/-- The keys that stand for the LTT of a saved job. -/
def savedRange (uid : Nat) : Nat := 2 ^ 80 + uid * 2 ^ 16

/-- A stream that is restored issues its held SAFE (R378). -/
def Stream.release (t : Stream) : Stream :=
  match t.phase with
  | .held _ => { t with phase := .released, blocked := none }
  | _ => t

/-- Release the held streams of a job. -/
def Job.releaseHeld (j : Job) : Job := { j with a := j.a.release, m := j.m.release, v := j.v.release, e := j.e.release }

/-- A job of a resumed set runs again, on a core; a halted one holds it (R94, R378). -/
def LJob.resumeOn (x : LJob) (core : Nat) : LJob :=
  { x with core := core, phase := if x.phase = .haltedAway then .halted else .running }

/-- Whether the context image of a saved job passes its integrity check: the keys of `savedRange` stand for it (R378; log 29). -/
def State.imageGood (s : State) (uid : Nat) : Bool := s.good (savedRange uid) (2 ^ 16)

/-- Restore a saved job on a core (R378): the Culture copy becomes its reference (R296), and the floors that its old die knew
travel with its context (R338). -/
def State.restore (s : State) (uid core : Nat) : State :=
  match s.saved.find? (·.1.uid == uid) with
  | none => s
  | some (j, cells) =>
    let s := (s.gossip (s.dieOf j.core) (s.dieOf core)).prepareCore core []
    let s := cells.foldl (fun s x => s.storeBytes (contextKey core x.1) [x.2]) s
    let s := { s with
      saved := s.saved.filter (·.1.uid != uid)
      recs := moveRecs (savedRange uid) (lttRange core).1 s.recs }
    let phase : JobPhase := if j.phase = .halted then .halted else .running
    (s.setOn { j.releaseHeld with core := core, phase := phase, qdirty := false }).onLaunch j.launch (fun l =>
      { l with jobs := l.jobs.map (fun x => if x.uid = uid then x.resumeOn core else x) })

/-- Resume a set on its cores. A job whose image fails its integrity check ends with MACHINE_ERROR (R378). -/
def State.resumeSet (s : State) (js : List LJob) (ps : List (Nat × Nat)) : State :=
  let t := js.foldl (fun s x =>
    match ps.find? (·.1 == x.num) with
    | some p => s.restore x.uid p.2
    | none => s) s
  match js.find? (fun x => !s.imageGood x.uid) with
  | some x => takeJobTrap x.uid 0x12 t
  | none => t

/-- Claim the grant: the owner's routing table is loaded into the package, which refuses it without the owner's key (R102,
R389). A package outside the box loads none (R101). -/
def State.route (s : State) (l : Launch) : State :=
  let keyed := (s.owners.find? (·.id == l.owner)).any (fun o => (if o.useSlot then o.key1 else o.key0).isSome)
  if !l.here then s.onLaunch l.id (fun l => { l with state := .routing })
  else if !keyed then s.endLaunch l.id 4 0 0 0
  else
    let rs := s.fabric.routes
    let rs := if rs.any (·.1 == l.owner) then rs.map (fun r => if r.1 = l.owner then (r.1, r.2 + 1) else r)
      else rs ++ [(l.owner, 1)]
    ({ s with fabric := { s.fabric with routes := rs } }).onLaunch l.id (fun l => { l with state := .routing })

/-- Carry out a plan. -/
def State.perform (s : State) (p : Plan) : Out :=
  match p with
  | .route id => match s.launch? id with | some l => .next (s.route l) | none => .next s
  | .run id w ps =>
    match s.launch? id with
    | none => .next s
    | some l =>
      match w with
      | .resume js => .next (s.resumeSet js ps)
      | .onCore n c =>
        match l.image with
        | some img => .next (s.loadJob l img .running 0 n c)
        | none => .next s
      | .start stage _ => s.startSet l stage ps

/-- The halted jobs of a launch that hold cores for the set around a job (R94). -/
def Launch.holders (l : Launch) (s : State) (x : LJob) : List LJob :=
  l.jobs.filter (fun y => y.phase == .halted && l.together x y && s.onCores.any (·.uid == y.uid))

/-- The running sets of a launch that could be pre-empted: the identities of their running jobs, and the cores that they hold,
the latest first. -/
def Launch.sets (l : Launch) (s : State) : List (List Nat × List Nat) :=
  let run := l.jobs.filter (·.phase == .running)
  let heads := run.filter (fun x => (run.find? (l.together x)) == some x)
  let sets := heads.reverse.map (fun x => run.filter (l.together x))
  (sets.filter (fun js => js.all (fun x => (s.jobOf? x.uid).any (·.phase == .running)))).map (fun js =>
    (js.map (·.uid), js.map (·.core) ++ ((js.head?.map (l.holders s)).getD []).map (·.core)))

/-- The sets that a launch may pre-empt, in the order of R110. -/
def State.victims (s : State) (l : Launch) : List (List Nat × List Nat) :=
  ((s.inService.filter (fun v => decide (v.prio < l.prio) && v.state == .running)).reverse).flatMap (·.sets s)

/-- Whether a launch's work fits when some sets are gone. -/
def State.fitsWithout (s : State) (l : Launch) (w : Work) (vs : List (List Nat × List Nat)) : Bool :=
  (s.coresFor l (s.freeCores [] ++ vs.flatMap (·.2)) w).isSome

/-- The sets to pre-empt: the fewest of the order of R110, and none that the launch does not need. -/
def State.toPreempt (s : State) (l : Launch) (w : Work) : List (List Nat × List Nat) :=
  let vs := s.victims l
  match (List.range (vs.length + 1)).find? (fun n => s.fitsWithout l w (vs.take n)) with
  | none => []
  | some n =>
    ((vs.take n).foldl (fun keep v =>
      let less := keep.filter (· != v)
      if s.fitsWithout l w less then less else keep) (vs.take n))

/-- The jobs whose pre-emption the dispatcher wants: for the first launch in service order that waits, if it may pre-empt and
can start nothing, and for the first of its sets that this helps (R110). -/
def State.wanted (s : State) : List Nat :=
  match s.inService.find? (fun l => !l.works.isEmpty && !(l.state == .waiting && l.multi)) with
  | none => []
  | some l =>
    if l.mayPreempt && l.works.all (fun w => (s.coresFor l (s.freeCores []) w).isNone) then
      ((l.works.map (s.toPreempt l)).find? (fun vs => !vs.isEmpty)).elim [] (·.flatMap (·.1))
    else []

/-- Request the pre-emption of jobs and withdraw it from others, whose held streams are released (R376). -/
def Job.request (uids : List Nat) (j : Job) : Job :=
  if uids.contains j.uid then { j with preempt := true }
  else if j.preempt then { j.releaseHeld with preempt := false } else j

/-- DISPATCH: pre-emption is requested for the first launch that waits and cannot start (R110), and the first thing that may
be done is done (R107). -/
def execDispatch (s : State) : Out :=
  let s := s.mapJobs (Job.request s.wanted)
  match s.plans s.inService [] with
  | p :: _ => s.perform p
  | [] => .next s

/-- RESUME: the set of a pre-empted job is restored when it is what the dispatcher does first (R107). -/
def execResume (uid : Nat) (s : State) : Out :=
  match s.plans s.inService [] with
  | .run id (.resume js) ps :: _ => if js.any (·.uid == uid) then s.perform (.run id (.resume js) ps) else .next s
  | _ => .next s

/-! ## Probes, gangs and grants (R95, R102, R103) -/

/-- The direction groups of this package that routes of a launch's grant take, its own and those that pass it or come in (R101):
on an axis that the box spans, both; else those toward packages of the box. -/
def Launch.groupsUsed (l : Launch) (s : State) : List Nat :=
  if l.inBox s.torus s.coords then
    [0, 1, 2].flatMap (fun axis =>
      let x := l.offset s.torus s.coords axis
      let last := l.boxLast axis
      if last = 0 then []
      else if onAxis axis s.torus ≤ last + 1 then [2 * axis, 2 * axis + 1]
      else (if x < last then [2 * axis] else []) ++ (if x = 0 then [] else [2 * axis + 1]))
  else []

/-- A link is up in each direction that routes of the grant take at this package: without one the probes that cross it fail
(R101, R102, R393; log 27). -/
def Launch.linked (l : Launch) (s : State) : Bool := (l.groupsUsed s).all s.groupUp

/-- PROBE_ACK: the last acknowledgement moves the launch to LOADING. -/
def execProbeAck (launch : Nat) (s : State) : Out :=
  .next (s.onLaunch launch (fun l => if l.state = .routing ∧ l.linked s then { l with state := .loading, probed := true } else l))

/-- PROBE_TIMEOUT. -/
def execProbeTimeout (launch : Nat) (s : State) : Out :=
  match s.launch? launch with
  | some l => .next (if l.state = .routing then s.endLaunch launch 4 0 0 0 else s)
  | none => .next s

/-- The loaded jobs of a launch begin. -/
def State.startLoaded (s : State) (launch : Nat) : State :=
  let g := fun (j : Job) => if j.launch = launch ∧ j.phase = .loaded ∧ j.uid ≠ 0 then { j with phase := .running } else j
  (s.mapJobs g).onLaunch launch (fun l =>
    { l with
      state := .running
      jobs := l.jobs.map (fun x => if x.phase = .loaded then { x with phase := .running } else x) })

/-- Whether a launch has loaded jobs that wait for their start. -/
def Launch.hasLoaded (l : Launch) : Bool := l.jobs.any (·.phase == .loaded)

/-- GANG_START: the loaded jobs of a launch begin; those of a multi-package launch wait for the grant first. -/
def execGangStart (launch : Nat) (s : State) : Out :=
  match s.launch? launch with
  | some l =>
    .next (if l.hasLoaded ∧ (l.state = .running ∨ (l.state = .loading ∧ l.multi = false)) then s.startLoaded launch else s)
  | none => .next s

/-- The other packages' jobs have all halted: the launch ends when this package's have too (R103). -/
def State.hearHalted (s : State) (launch : Nat) : State :=
  let s := s.onLaunch launch (fun l => { l with othersHalted := true })
  match s.launch? launch with
  | some l =>
    let s := s.freeHeld l
    if l.state = .running ∧ l.allHalted = true then s.endLaunch launch 0 0 0 0 else s
  | none => s

/-- A job of another package ended by a trap: every job of the launch stops, and the launch ends (R105, R361). -/
def State.hearTrap (s : State) (launch : Nat) (code : BitVec 8) (stage job : Nat) : State :=
  (s.discard (fun j => j.launch == launch)).endLaunch launch 5 code stage job

/-- GRANT_RELEASE: what the other packages of a grant report (log 27): with their loaded jobs the start is released to all
packages together, and the launch ends when all of its jobs have halted, or one ends by a trap (R103). -/
def execGrantRelease (note : GrantNote) (s : State) : Out :=
  match s.launch? note.launch with
  | none => .next s
  | some l =>
    if l.multi = false then .next s
    else
      match note.report with
      | .loaded => .next (if (l.hasLoaded ∨ l.share = 0) ∧ l.state = .loading then s.startLoaded note.launch else s)
      | .halted => .next (if l.state = .running then s.hearHalted note.launch else s)
      | .trapped code stage job => .next (if l.state = .running then s.hearTrap note.launch code stage job else s)

/-- LAUNCH_AGEING (R109): a launch that waits rises a level, unless the level's AGE is 0. -/
def execLaunchAgeing (launch : Nat) (s : State) : Out :=
  match s.launch? launch with
  | none => .next s
  | some l =>
    let rises := decide (l.prio < 7) && s.age[l.prio % 7]'(Nat.mod_lt _ (by decide)) != 0 &&
      (l.state == .waiting || (l.state == .running && !l.works.isEmpty && !l.hasLoaded))
    .next (if rises then s.onLaunch launch (fun l => { l with prio := l.prio + 1 }) else s)

/-! ## Pre-emption (R376, R377) -/

/-- Whether every stream is held or halted, and the held SAFEs carry one id. -/
def Job.atSafePoint (j : Job) : Bool :=
  let ids := allStreams.filterMap (fun x => match (j.stream x).phase with | .held i => some i | _ => none)
  allStreams.all (fun x => match (j.stream x).phase with | .held _ | .halted => true | _ => false) &&
    decide (ids.eraseDups.length ≤ 1)

/-- Whether the queues are empty and the tokens are 0. -/
def Job.drained (j : Job) : Bool := j.queues.toList.all (·.entries.isEmpty) && j.tokens.toList.all (· == 0)

/-- Whether threads have posted and no register is pending. -/
def Job.quiet (j : Job) : Bool :=
  j.allCmds.isEmpty && allStreams.all (fun x => (j.stream x).pend == 0 && (j.stream x).shadowPend == 0)

/-- Whether a job meets every condition of R376. -/
def Job.mayBeSaved (j : Job) : Bool :=
  j.preempt && j.phase == .running && j.atSafePoint && j.drained && j.quiet &&
    allStreams.all (fun x => !(j.stream x).inHandler)

/-- A job in the save area. -/
def Job.away (j : Job) : Job := { j.context with phase := (if j.phase = .halted then j.phase else .loaded), preempt := false }

/-- Save the context of a job and free its core (R377); `Job.image` of what State.saved then holds is the image in the save area. -/
def State.save (s : State) (j : Job) : State :=
  let s := s.dropCopies (·.core == j.core)
  let cells := contextCells j.core j.scrlog s.mem
  let s := { s with
    saved := s.saved ++ [(j.away, cells)]
    recs := moveRecs (lttRange j.core).1 (savedRange j.uid) s.recs }
  (s.prepareCore j.core []).setOn j.vacate

/-- PREEMPT_SAVE: the set of the job in focus is saved once every job of it meets the conditions, with the allocations of those
that have halted (R94). -/
def execPreemptSave (s : State) : Out :=
  match s.launch? s.job.launch with
  | none => .next s
  | some l =>
    match l.jobs.find? (·.uid == s.job.uid) with
    | none => .next s
    | some x =>
      let uids := (l.jobs.filter (fun y => y.phase == .running && l.together x y)).map (·.uid)
      let away := (l.holders s x).map (·.uid)
      let js := s.onCores.filter (fun j => uids.contains j.uid)
      let hs := s.onCores.filter (fun j => away.contains j.uid)
      if js.length = uids.length ∧ uids ≠ [] ∧ js.all Job.mayBeSaved = true then
        .next (((js ++ hs).foldl State.save s).onLaunch l.id (fun l => (l.setPhase uids .preempted).setPhase away .haltedAway))
      else .next s

/-- Whether a stream of the job in focus is held, halted or blocked as R376 lists; at a CWAIT, while a commit that it covers
is not past. -/
def State.safeBlocked (s : State) (x : StreamId) : Bool :=
  let t := s.job.stream x
  match t.phase with
  | .held _ | .halted => true
  | _ =>
    match t.blocked with
    | some .queue | some .token | some .waitc | some .rdv | some .bar | some .join => true
    | some .cwait => !s.commitsPast x
    | _ => false

/-- Whether the hold of the job in focus ends early (R376). -/
def State.mustRelease (s : State) : Bool :=
  s.job.preempt && allStreams.all s.safeBlocked && !(s.job.atSafePoint && s.job.drained)

/-- SAFE_HOLD_RELEASE. -/
def execSafeHoldRelease (s : State) : Out := .next (if s.mustRelease then s.onJob Job.releaseHeld else s)

end Sys2Proof.Machine
end

