-- ==== Sys2Proof/Machine/VecMem.lean ====
section
/-!
DEFINITION. Machine/VecMem.lean: vector loads and stores (spec/09_memory_and_engines.md R231 to R234), and the filling of a
reserved queue slot (spec/06_streams_and_words.md R129).
-/
namespace Sys2Proof.Machine

/-! ## Streams, queues and lanes (R144, R146, R233) -/

/-- A vector load issues in V, or in A into a queue without a predicate (R144, R146, R233). -/
def loadStream (queue : Bool) (k : KReg) : StreamId → Bool
  | .V => true
  | .A => queue && k == 0
  | .M | .E => false

/-- A vector store issues in V, or in E from a queue without a predicate. -/
def storeStream (queue : Bool) (k : KReg) : StreamId → Bool
  | .V => true
  | .E => queue && k == 0
  | .A | .M => false

/-- The queue that a v field names. -/
def queueOf (v : VReg) : QNum := v.extractLsb' 0 3

/-- Whether byte i of a register belongs to an active lane. -/
def activeByte (wd : Nat) (p : PredReg) (i : Nat) : Bool := active p (i / (wd / 8))

/-- Whether an active byte lies in a range. -/
def anyActive (wd : Nat) (p : PredReg) (lo hi : Nat) : Bool := (List.range (hi - lo)).any (fun i => activeByte wd p (lo + i))

/-- 512 bytes whose inactive bytes are zero. -/
def maskBytes (wd : Nat) (p : PredReg) (bs : List Byte) : List Byte :=
  bs.zipIdx.map (fun (b, i) => if activeByte wd p i then b else 0)

/-- Bytes with the active ones replaced, from register byte `lo` on; beyond its end the source is zero. -/
def patchBytes (wd : Nat) (p : PredReg) (lo : Nat) (src : List Byte) (old : List Byte) : List Byte :=
  (old.zip (src.drop lo ++ List.replicate 512 0)).zipIdx.map (fun ((b, x), i) => if activeByte wd p (lo + i) then x else b)

/-- The room and binding of the queue that a load fills (R128, R129). -/
def needQueueIn (s : State) (queue : Bool) (v : VReg) : Res Unit :=
  if queue then
    (s.needProducer (queueOf v)).bind fun _ =>
      ensure ((s.job.queue (queueOf v)).entries.length < queueDepth (queueOf v)) (.stall .queue)
  else .ok ()

/-- Where loaded bytes go (R233): a reserved queue entry with zero in inactive lanes, or the active lanes of a register. -/
def State.loaded (s : State) (queue : Bool) (v : VReg) (p : PredReg) (bs : List Byte) : Res State :=
  let wd := s.job.laneWidth
  if queue then s.push (queueOf v) ⟨vecOfBytes (maskBytes wd p bs), false⟩
  else .ok (s.setVreg v (vecOfBytes (patchBytes wd p 0 bs (vecBytes (s.vreg v)))))

/-- The bytes that a store takes: of a register, or popped from a queue (R233). The reads of the register and of the other
registers that the store names are counted (R136). -/
def State.stored (s : State) (queue : Bool) (v : VReg) (others : List VReg) : Res (List Byte × State) :=
  if queue then
    (s.needConsumer (queueOf v)).bind fun _ => (s.pop (queueOf v)).map fun (x, s) => (vecBytes x, s.countReads others)
  else .ok (vecBytes (s.vreg v), s.countReads (v :: others))

/-! ## Memory mode (R231, R233) -/

/-- A part of a 512-byte access within one 4 KiB page: its first byte, its length and its key. -/
structure Seg where
  lo : Nat
  len : Nat
  key : Nat
  deriving DecidableEq, Repr

/-- The parts of an access, lowest first: bytes up to the page end, and the rest. -/
def spans (va : Nat) : List (Nat × Nat) :=
  let cut := min 512 (4096 - va % 4096)
  [(0, cut), (cut, 512 - cut)]

/-- Translate the parts that hold an active lane, in ascending order; each access carries floors (R338). -/
def segments (va : Nat) (wd : Nat) (p : PredReg) (acc : BitVec 2) : List (Nat × Nat) → State → Res (List Seg × State)
  | [], s => .ok ([], s)
  | (lo, len) :: r, s =>
    if anyActive wd p lo (lo + len) then
      (s.translate ((va + lo) % 2 ^ 57) acc).bind fun (ph, s) =>
        (ph.cell len).bind fun k => (segments va wd p acc r (s.exchangeWith k)).map fun (g, s) => (⟨lo, len, k⟩ :: g, s)
    else segments va wd p acc r s

/-- The parts of a memory-mode access: alignment is checked where a lane is active. -/
def openSpan (x : Word) (wd : Nat) (p : PredReg) (acc : BitVec 2) (s : State) : Res (List Seg × State) :=
  let va := vaOf x
  if !anyActive wd p 0 512 then .ok ([], s)
  else if va % 64 ≠ 0 then .error (misalign acc (word va))
  else segments va wd p acc (spans va) s

/-- The keys and lengths of parts. -/
def segPlaces (gs : List Seg) : List (Nat × Nat) := gs.map (fun g => (g.key, g.len))

/-- The bytes of an access: zero where nothing was read. -/
def readSegs (s : State) (gs : List Seg) : List Byte :=
  gs.foldl (fun bs g => bs.take g.lo ++ memRead s.mem g.key g.len ++ bs.drop (g.lo + g.len)) (List.replicate 512 0)

/-- Store the active bytes of an access. -/
def writeSegs (wd : Nat) (p : PredReg) (src : List Byte) (gs : List Seg) (s : State) : State :=
  gs.foldl (fun s g => s.storeBytes g.key (patchBytes wd p g.lo src (memRead s.mem g.key g.len))) s

/-- The post-increment of memory mode (R231). -/
def memoryNext (x : Word) (imm : BitVec 6) : Word := x + imm.signExtend 64 * 64

/-! ## Tile mode (R231, R232) -/

/-- The bytes of a tile's ROW image, without pad (R45, R231). -/
def Tte.rowBytes (t : Tte) (vals : List Nat) : List Byte := packBytes (fmtWidth t.fmt) vals

/-- The elements that byte n of the ROW image holds bits of. -/
def Tte.elemsAt (t : Tte) (n : Nat) : List Nat :=
  let w := fmtWidth t.fmt
  if w = 4 then [2 * n, 2 * n + 1] else [n / (w / 8)]

/-- The elements that the active lanes of an access at byte `off` reach. -/
def Tte.reached (t : Tte) (wd : Nat) (p : PredReg) (off : Nat) : List Nat :=
  (((List.range 512).filter (activeByte wd p)).flatMap (fun i => t.elemsAt (off + i))).eraseDups.filter (· < t.rows * t.cols)

/-- The values of a tile as far as elements are reached: only their bytes are carried, and of a pressed tile the blocks that hold
them, decoded (R72, R78, R82, R231). -/
def reachedVals (s : State) (c : TCtx) (idx : Nat) (t : Tte) (elems : List Nat) : Res (List Nat) :=
  if isSymbol t.kind then .ok t.symbolVals.vals
  else
    (backingEntry s c idx t).bind fun (x, r) =>
      (peerOk s r).bind fun _ => (backKey s c 0 x r).bind fun base =>
        if r.press then
          let hits := elems.flatMap r.blocksOf
          (tableOfBlocks s c r hits).bind fun tab =>
            (decodeTouched s tab base r (fun b => hits.contains b) (blockCount r.imageLen) 0).map r.unimage
        else (needAllGood s (placesAt base (elems.flatMap r.elemPlaces))).map fun _ => r.unimage (memRead s.mem base r.imageLen)

/-- The tile of a tile-mode access: checks 1 to 4, alignment, then the rest (R231, R232). -/
def tileAt (s : State) (x : Word) (pr : Pair) (wd : Nat) (write : Bool) : Res Opened :=
  let ab := coordA x
  (s.useCap pr (if write then pwr else prd) anyClass ab.1 ab.2).bind fun c =>
    let idx := Cap.tile c ab.1 ab.2
    if bits x 0 16 * (wd / 8) % 64 ≠ 0 then
      .error (misalign (if write then 1 else 0) (word (bits x 0 16 * 2 ^ 48 + idx % 2 ^ 33)))
    else if write then (openWrite s s.job.tctx c idx).map fun (k, t) => ⟨idx, k, t⟩
    else (openTile s s.job.tctx c 0 idx).map fun (k, t) => ⟨idx, k, t⟩

/-- The index register after a tile-mode access (R231). -/
def tileNext (x : Word) (wd : Nat) : Word := setBits x 0 16 (bits x 0 16 + 4096 / wd)

/-- Whether a tile-mode access advances its index. -/
def tileSteps (imm : BitVec 6) : Bool := imm.extractLsb' 0 3 == 1

/-- The index register of a completed access. -/
def State.stepped (s : State) (a : SReg) (imm : BitVec 6) (tile : Bool) (x : Word) : State :=
  if tile then (if tileSteps imm then s.setReg a (tileNext x s.job.laneWidth) else s) else s.setReg a (memoryNext x imm)

/-- A tile-mode load whose turn has come holds no writes any more: it reads in this step, or waits and begins anew (R329). -/
def State.endLoad (s : State) (tile : Bool) : State := if tile then s.endHolds (streamHold s.job.uid) else s

/-- The bytes that a tile-mode load finds; beyond the last element they are zero. -/
def tileLoad (x : Word) (imm : BitVec 6) (wd : Nat) (p : PredReg) (s : State) : Res (List Byte × State) :=
  if !anyActive wd p 0 512 then .ok ([], s)
  else
    (tileAt s x (tilePair imm) wd false).bind fun o =>
      (readTile s.who o.k o.t s).bind fun (t, s) =>
        let off := bits x 0 16 * (wd / 8)
        (reachedVals s s.job.tctx o.idx t (t.reached wd p off)).map fun vals => ((t.rowBytes vals).drop off |>.take 512, s)

/-- The values of a tile with the active bytes of an access at byte `off` replaced; what lies beyond the last element is
discarded. -/
def storeVals (t : Tte) (wd : Nat) (p : PredReg) (off : Nat) (src : List Byte) (v : TileVals) : TileVals :=
  let bs := (t.rowBytes v.vals).zipIdx.map (fun (b, i) =>
    if off ≤ i && i < off + 512 && activeByte wd p (i - off) then src.getD (i - off) 0 else b)
  ⟨unpackBytes (fmtWidth t.fmt) (t.rows * t.cols) bs, v.scales⟩

/-- A tile-mode store (R232): a partial write. -/
def tileStore (x : Word) (imm : BitVec 6) (wd : Nat) (p : PredReg) (src : List Byte) (s : State) : Res State :=
  if !anyActive wd p 0 512 then .ok s
  else
    (tileAt s x (tilePair imm) wd true).bind fun o =>
      (writeTile s.who o.k s).bind fun s =>
        let off := bits x 0 16 * (wd / 8)
        partialWrite s.job.tctx o.idx o.k (o.t.reached wd p off) false (storeVals o.t wd p off src) s

/-! ## VLD and VST -/

/-- The scalar registers that a VLD or VST uses: its address or index register, and in tile mode its capability pair (R216,
R231). -/
def vecRegs (a : SReg) (imm : BitVec 6) (tile : Bool) : BitVec 16 := regBit a ||| (if tile then pairBits (tilePair imm) else 0)

/-- VLD (R231, R233, R234). -/
def execVld (w : Wheel) (v : VReg) (a : SReg) (imm : BitVec 6) (k : KReg) (tile queue : Bool) (s : State) : Out :=
  issue w 1 (loadStream queue k) (vecRegs a imm tile) (fun s =>
    let p := s.pred k
    let wd := s.job.laneWidth
    let x := s.reg a
    (needQueueIn s queue v).bind fun _ =>
      orError (if tile then tileLoad x imm wd p s
        else (openSpan x wd p 0 s).bind fun (gs, s) => (needAllGood s (segPlaces gs)).map fun _ => (readSegs s gs, s))
        (fun (bs, s) => (s.loaded queue v p bs).map (·.stepped a imm tile x))
        (fun st =>
          (if queue then s.push (queueOf v) ⟨0, false⟩ else .ok s).map fun s => (s.stepped a imm tile x).vectorError st))
    (s.endLoad tile)

/-- VST (R231, R233, R234). -/
def execVst (w : Wheel) (v : VReg) (a : SReg) (imm : BitVec 6) (k : KReg) (tile queue : Bool) (s : State) : Out :=
  issue w 1 (storeStream queue k) (vecRegs a imm tile) (fun s =>
    let p := s.pred k
    let wd := s.job.laneWidth
    let x := s.reg a
    (s.stored queue v []).bind fun (bs, s) =>
      orError (if tile then tileStore x imm wd p bs s
        else (openSpan x wd p 1 s).bind fun (gs, s) => (needAllGood s (segPlaces gs)).map fun _ => writeSegs wd p bs gs s)
        (fun s => .ok (s.stepped a imm tile x))
        (fun st => .ok ((s.stepped a imm tile x).vectorError st))) s

/-! ## VLDG and VSTS (R231, R233) -/

/-- The address of lane n of a gather or scatter. -/
def laneVa (x : Word) (wd : Nat) (vi : VecReg) (n : Nat) : Nat := (x.toNat + lane wd vi n * (wd / 8)) % 2 ^ 57

/-- Translate the addresses of active lanes in ascending order: lane and key. -/
def laneKeys (x : Word) (wd : Nat) (vi : VecReg) (acc : BitVec 2) : List Nat → State → Res (List (Nat × Nat) × State)
  | [], s => .ok ([], s)
  | n :: ns, s =>
    (s.place (laneVa x wd vi n) (wd / 8) acc).bind fun (k, s) => (laneKeys x wd vi acc ns s).map fun (r, s) => ((n, k) :: r, s)

/-- The bytes of a gather: zero where a lane is not read. -/
def gathered (s : State) (wd : Nat) (ks : List (Nat × Nat)) : List Byte :=
  (List.range (laneCount wd)).flatMap (fun n =>
    match ks.find? (·.1 == n) with
    | some (_, k) => memRead s.mem k (wd / 8)
    | none => List.replicate (wd / 8) 0)

/-- The keys and lengths of lanes. -/
def lanePlaces (wd : Nat) (ks : List (Nat × Nat)) : List (Nat × Nat) := ks.map (fun x => (x.2, wd / 8))

/-- Store lanes in ascending order, so that the highest wins among equal addresses (R233). -/
def scattered (wd : Nat) (bs : List Byte) (ks : List (Nat × Nat)) (s : State) : State :=
  ks.foldl (fun s (n, k) => s.storeBytes k ((bs.drop (n * (wd / 8))).take (wd / 8))) s

/-- VLDG: V only; no index register of s changes. -/
def execVldg (w : Wheel) (v : VReg) (a : SReg) (vi : VReg) (k : KReg) (queue : Bool) (s : State) : Out :=
  issue w 1 onlyV (regBit a) (fun s =>
    let p := s.pred k
    let wd := s.job.laneWidth
    (needQueueIn s queue v).bind fun _ =>
      orError ((laneKeys (s.reg a) wd (s.vreg vi) 0 (activeLanes p (laneCount wd)) s).bind fun (ks, s) =>
          (needAllGood s (lanePlaces wd ks)).map fun _ => (gathered s wd ks, s))
        (fun (bs, s) => (s.countReads [vi]).loaded queue v p bs)
        (fun st =>
          (if queue then (s.countReads [vi]).push (queueOf v) ⟨0, false⟩ else .ok (s.countReads [vi])).map
            (·.vectorError st))) s

/-- VSTS: V only. -/
def execVsts (w : Wheel) (v : VReg) (a : SReg) (vi : VReg) (k : KReg) (queue : Bool) (s : State) : Out :=
  issue w 1 onlyV (regBit a) (fun s =>
    let p := s.pred k
    let wd := s.job.laneWidth
    let i := s.vreg vi
    (s.stored queue v [vi]).bind fun (bs, s) =>
      orError ((laneKeys (s.reg a) wd i 1 (activeLanes p (laneCount wd)) s).bind fun (ks, s) =>
          (needAllGood s (lanePlaces wd ks)).map fun _ => scattered wd bs ks s)
        (fun s => .ok s) (fun st => .ok (s.vectorError st))) s

/-! ## Filling a reserved slot (R129) -/

/-- Mark one entry of a list ready. -/
def fillEntry (n : Nat) (es : List QEntry) : List QEntry :=
  match es[n]? with
  | some e => es.set n { e with ready := true }
  | none => es

/-- QUEUE_SLOT_FILL: the data of the entry at a place from the head has arrived (R129); a slot that is filled, or not
reserved, stays as it is. -/
def execQueueSlotFill (q : QNum) (slot : Nat) (s : State) : Out :=
  match (s.job.queue q).entries[slot]? with
  | some ⟨_, false⟩ => .next (s.onJob (fun j => (j.setQueue q (fillEntry slot (j.queue q).entries)).wake))
  | _ => .next s

end Sys2Proof.Machine
end

