-- ==== Sys2Proof/Machine/Host.lean ====
section
/-!
DEFINITION. Machine/Host.lean: what the host and other outside agents do to the package: the management window, SUBMIT,
INVAL, the mailbox commands, the raw and tile apertures, outside reads, and requests that reach an exported window
(spec/21_outside.md R380 to R398; notes/assumptions 9, 30, 31).
-/
namespace Sys2Proof.Machine

/-- Change what the management window holds. -/
def State.onHost (s : State) (f : HostWin → HostWin) : State := { s with host := f s.host }

/-! ## SUBMIT (R381) -/

/-- SUBMIT: the record in host memory becomes a host launch with the next host order key; the host party's epoch rises. A
package that has not booted takes no launch (log 30). -/
def execSubmit (v : Word) (s : State) : Out :=
  if !s.booted then .next s
  else
    let hpa := bits v 8 56 * 256
    let words := if s.good (cellKey .host hpa) 256 then s.recordAt (cellKey .host hpa) else []
    let l := launchOf words (some (v.extractLsb' 0 8)) none s.host.hostEpoch [s.host.submits] 1 (bits (words.getD 0 0) 37 3)
    let s := s.onHost (fun h => { h with submits := h.submits + 1, hostEpoch := h.hostEpoch + 1 })
    .next (s.newLaunch l true)

/-! ## Registers of the window (R380, R382, R384) -/

/-- The bits of TAPSEL that are held: owner, class and index. -/
def tapselMask : Word := 0xFFFF_E000_FFFF_FFFF

/-- TAPSEL_WRITE. -/
def execTapselWrite (v : Word) (s : State) : Out := .next (s.onHost (fun h => { h with tapsel := v &&& tapselMask }))

/-- Drop every translation of an owner. -/
def State.dropTlb (s : State) (o : BitVec 16) : State := { s with tlb := s.tlb.filter (·.owner != o) }

/-- INVAL: the owner's translations are dropped; INVBUSY stands until the invalidation finishes. -/
def execInval (v : Word) (s : State) : Out :=
  .next ((s.dropTlb (v.extractLsb' 0 16)).onHost (fun h => { h with invBusy := true }))

/-- INVAL_COMPLETE. -/
def execInvalComplete (s : State) : Out := .next (s.onHost (fun h => { h with invBusy := false }))

/-- A write of mailbox word i: word 0 with bit 63 starts a command, unless one is in progress (R396). -/
def HostWin.writeMailbox (h : HostWin) (i : Fin 32) (v : Word) : HostWin :=
  let h' := { h with mailbox := h.mailbox.set i v }
  if i.val = 0 ∧ v.getLsbD 63 = true then { h' with mbBusy := true } else h'

/-- The mailbox word at an offset of the window. -/
def mailboxAt (n : Nat) : Fin 32 := ⟨(n - 0x1000) / 8 % 32, Nat.mod_lt _ (by decide)⟩

/-- A read of the management window (R5, R12, R380): write-only registers and offsets that are not listed read zero, as does
an access of a size other than 8 bytes. -/
def State.mgmtRead (s : State) (size n : Nat) : Word :=
  if size ≠ 8 ∨ n % 8 ≠ 0 then 0
  else if n < 0x20 then s.desc[n / 8 % 4]'(Nat.mod_lt _ (by decide))
  else if n = 0x48 then s.host.compBase
  else if n = 0x50 then s.host.tapsel
  else if n = 0x60 then word ((if s.host.invBusy then 1 else 0) + (if s.host.mbBusy then 2 else 0))
  else if 0x1000 ≤ n ∧ n < 0x1100 then s.host.mailbox[mailboxAt n]
  else 0

/-- MGMT_REGISTER_WRITE: COMPBASE and the mailbox; SUBMIT, TAPSEL and INVAL act as their own steps; a write of any other
offset, or of a size other than 8 bytes, is ignored (R380). -/
def execMgmtRegisterWrite (acc : WinAccess) (v : Word) (s : State) : Out :=
  let n := acc.off.toNat
  if acc.size ≠ 8 then .next s
  else if n = 0x40 then execSubmit v s
  else if n = 0x48 then .next (s.onHost (fun h => { h with compBase := v }))
  else if n = 0x50 then execTapselWrite v s
  else if n = 0x58 then execInval v s
  else if 0x1000 ≤ n ∧ n < 0x1100 ∧ n % 8 = 0 then
    .next (s.onHost (·.writeMailbox (mailboxAt n) v))
  else .next s

/-! ## The mailbox (R396) -/

/-- Word i of the mailbox. -/
def State.mb (s : State) (i : Fin 32) : Word := s.host.mailbox[i]

/-- The owner id that a command names in word 1. -/
def State.mbOwner (s : State) : BitVec 16 := (s.mb 1).extractLsb' 0 16

/-- Whether an owner exists. -/
def State.hasOwner (s : State) (o : BitVec 16) : Bool := s.owners.any (·.id == o)

/-- Whether an owner has a launch that has not ended (R396). -/
def State.hasLaunch (s : State) (o : BitVec 16) : Bool := s.launches.any (fun l => l.owner == o && l.state != .ended)

/-- Carry out the command in the mailbox if it has this code and has no result yet: `f` gives the result and the state. -/
def mailboxCommand (code : Nat) (f : State → Nat × State) (s : State) : Out :=
  if s.host.mbBusy ∧ s.host.mbResult = none ∧ bits (s.mb 0) 0 16 = code then
    let (r, s) := f s
    .next (s.onHost (fun h => { h with mbResult := some (BitVec.ofNat 16 r) }))
  else .next s

/-- A command that names an owner: result 1 where it does not exist. -/
def withOwner (f : State → Nat × State) (s : State) : Nat × State := if s.hasOwner s.mbOwner then f s else (1, s)

/-- OWNERNEW: an owner with its root page table and an empty tile table. -/
def execOwnerNew (s : State) : Out :=
  mailboxCommand 0x01 (fun s =>
    if s.hasOwner s.mbOwner then (1, s)
    else
      let o : Owner := ⟨s.mbOwner, (s.mb 2).toNat, 0, none, none, false, false, [], 0, 0, 0, 0⟩
      (0, { s with owners := s.owners ++ [o] })) s

/-- The exporter of a window. -/
def windowExporter (w : BitVec 16 × Word × Word) : BitVec 16 := w.2.2.extractLsb' 48 16

/-- OWNERDEL: refused while the owner has a running launch; its keys, windows and version-domain records go (R358). -/
def execOwnerDel (s : State) : Out :=
  mailboxCommand 0x02 (withOwner (fun s =>
    let o := s.mbOwner
    if s.hasLaunch o then (2, s)
    else
      let s := s.dropTlb o
      (0, { s with
        owners := s.owners.filter (·.id != o)
        vdoms := s.vdoms.filter (·.owner != o)
        fabric := { s.fabric with windows := s.fabric.windows.filter (fun w => windowExporter w != o) } }))) s

/-- SETROOT; the invalidation follows. -/
def execSetRoot (s : State) : Out :=
  mailboxCommand 0x03 (withOwner (fun s =>
    (0, (s.onOwner s.mbOwner (fun o => { o with root := (s.mb 2).toNat })).dropTlb s.mbOwner))) s

/-- SETTTB: refused while the owner has a running launch. -/
def execSetTtb (s : State) : Out :=
  mailboxCommand 0x04 (withOwner (fun s =>
    if s.hasLaunch s.mbOwner then (2, s) else (0, s.onOwner s.mbOwner (fun o => { o with ttb := s.mb 2 })))) s

/-- Set a key slot. -/
def Owner.setKey (o : Owner) (slot : Bool) (k : Option (BitVec 256)) : Owner :=
  if slot then { o with key1 := k } else { o with key0 := k }

/-- A command that names an owner and a slot, 0 or 1. -/
def withSlot (f : Bool → State → State) (s : State) : Nat × State :=
  withOwner (fun s => if s.mb 2 = 0 then (0, f false s) else if s.mb 2 = 1 then (0, f true s) else (1, s)) s

/-- The 32 bytes in mailbox words i to i + 3. -/
def State.mbKey (s : State) (i : Nat) : BitVec 256 :=
  let w := fun k => (s.host.mailbox.toList.getD (i + k) 0)
  w 3 ++ w 2 ++ w 1 ++ w 0

/-- KEYLOAD. -/
def execKeyLoad (s : State) : Out :=
  mailboxCommand 0x10 (withSlot (fun slot s => s.onOwner s.mbOwner (fun o => o.setKey slot (some (s.mbKey 3))))) s
/-- KEYUSE. -/
def execKeyUse (s : State) : Out :=
  mailboxCommand 0x11 (withSlot (fun slot s => s.onOwner s.mbOwner (fun o => { o with useSlot := slot }))) s
/-- KEYRETIRE. -/
def execKeyRetire (s : State) : Out :=
  mailboxCommand 0x12 (withSlot (fun slot s => s.onOwner s.mbOwner (fun o => o.setKey slot none))) s

/-- Change the tables of the fabric. -/
def State.onFabric (s : State) (f : Fabric → Fabric) : State := { s with fabric := f s.fabric }

/-- The window id in word 1. -/
def State.mbWindow (s : State) : BitVec 16 := (s.mb 1).extractLsb' 0 16

/-- EXPORT: the window record of words 2 and 3, with VALID set; its tier is VAT, PKG or FAR, and both owners exist (R391). -/
def execExportWin (s : State) : Out :=
  mailboxCommand 0x20 (fun s =>
    let w0 := s.mb 2 ||| 0x8000_0000_0000_0000
    let w1 := s.mb 3
    if (memTier (bits w0 60 3)).isNone ∨ !s.hasOwner (w1.extractLsb' 48 16) ∨ !s.hasOwner (w1.extractLsb' 32 16) then (1, s)
    else
      (0, s.onFabric (fun f =>
        { f with windows := (s.mbWindow, w0, w1) :: f.windows.filter (·.1 != s.mbWindow) }))) s

/-- A window that is exported (R391). -/
def State.window? (s : State) (id : BitVec 16) : Option (Word × Word) :=
  ((s.fabric.windows.find? (fun w => w.1 == id && w.2.1.getLsbD 63))).map (·.2)

/-- REVOKE: VALID is cleared: the revocation point (R392). -/
def execRevoke (s : State) : Out :=
  mailboxCommand 0x21 (fun s =>
    if (s.window? s.mbWindow).isNone then (1, s)
    else
      (0, s.onFabric (fun f =>
        { f with windows := f.windows.map (fun w =>
            if w.1 = s.mbWindow then (w.1, w.2.1 &&& 0x7FFF_FFFF_FFFF_FFFF, w.2.2) else w) }))) s

/-- Whether a window id is imported. -/
def State.imported (s : State) (id : BitVec 16) : Bool := s.fabric.imports.any (·.1 == id)

/-- IMPORT: an id that is already imported fails (R391). -/
def execImportWin (s : State) : Out :=
  mailboxCommand 0x22 (fun s =>
    if s.imported s.mbWindow then (1, s)
    else (0, s.onFabric (fun f => { f with imports := f.imports ++ [(s.mbWindow, s.mb 2)] }))) s

/-- UNIMPORT. -/
def execUnimport (s : State) : Out :=
  mailboxCommand 0x23 (fun s =>
    if !s.imported s.mbWindow then (1, s)
    else (0, s.onFabric (fun f => { f with imports := f.imports.filter (·.1 != s.mbWindow) }))) s

/-- SIGPOLICY: the required flag in word 2 bit 0, the number of hashes in its bits [10:8], the hashes from word 3 on. -/
def execSigPolicy (s : State) : Out :=
  mailboxCommand 0x30 (withOwner (fun s =>
    let n := bits (s.mb 2) 8 3
    if 4 < n then (1, s)
    else
      (0, s.onOwner s.mbOwner (fun o =>
        { o with sigRequired := (s.mb 2).getLsbD 0, sigKeys := (List.range n).map (fun i => s.mbKey (3 + 4 * i)) })))) s

/-- The counters of an owner in words 1 to 4 (R393). -/
def HostWin.putCounters (h : HostWin) (o : Owner) : HostWin :=
  { h with mailbox := (((h.mailbox.set 1 (o.corrupt.setWidth 64)).set 2 (o.tagErr.setWidth 64)).set 3
      (o.revoked.setWidth 64)).set 4 (o.accessErr.setWidth 64) }

/-- ERRREAD. -/
def execErrRead (s : State) : Out :=
  mailboxCommand 0x31 (withOwner (fun s =>
    match s.owners.find? (·.id == s.mbOwner) with
    | some o => (0, s.onHost (·.putCounters o))
    | none => (1, s))) s

/-- The measurement of the image of a launch that has loaded it, if its owner has a signature policy (R398). -/
def State.measure (s : State) (l : Launch) : Option (BitVec 256) :=
  let p : Placed := ⟨l.owner, l.codeva⟩
  let policy := (s.owners.find? (·.id == l.owner)).any (fun o => o.sigRequired || !o.sigKeys.isEmpty)
  if l.state = .ended ∨ l.image.isNone ∨ policy = false then none
  else
    match (p.sections s).bind (fun (h, s) => p.read 0 h.1 s) with
    | .ok (bs, _) => some (Config.shake256 bs)
    | .error _ => none

/-- What the signature of a quote covers. -/
def Quote.message (q : Quote) : List Byte :=
  ([q.nonce, q.firmware, q.config] ++ q.images).flatMap (fun x => leBytes 32 x.toNat) ++ q.certificate

/-- The quote over a nonce, with the n-th signature (R398). -/
def State.quoteFor (s : State) (nonce : BitVec 256) (n : Nat) : Quote :=
  let q : Quote := ⟨nonce, Config.shake256 Config.firmwareBytes, Config.shake256 Config.configBytes,
    s.launches.filterMap s.measure, Config.certificate, []⟩
  { q with signature := Config.sign (Config.shake256 q.message) n }

/-- The controller holds a quote, and words 1 to 31 show it (log 9). -/
def HostWin.putQuote (h : HostWin) (q : Quote) : HostWin :=
  { h with
    quote := some q
    mailbox := Vector.ofFn (fun i : Fin 32 =>
      if i.val = 0 then h.mailbox[i] else Config.quoteWord (q.message ++ q.signature) i.val) }

/-- QUOTE: result 3 when all 2^20 signatures are spent (R398). -/
def execQuote (s : State) : Out :=
  mailboxCommand 0x40 (fun s =>
    if 2 ^ 20 ≤ s.quotes then (3, s)
    else (0, { s.onHost (·.putQuote (s.quoteFor (s.mbKey 1) s.quotes)) with quotes := s.quotes + 1 })) s

/-- The command codes (R396). -/
def mailboxCodes : List Nat :=
  [0x01, 0x02, 0x03, 0x04, 0x10, 0x11, 0x12, 0x20, 0x21, 0x22, 0x23, 0x30, 0x31, 0x40]

/-- The result is written into word 0 [47:32], and MBBUSY clears. -/
def HostWin.finish (h : HostWin) (r : BitVec 16) : HostWin :=
  { h with mailbox := h.mailbox.set 0 (setBits h.mailbox[0] 32 16 r.toNat), mbBusy := false, mbResult := none }

/-- MAILBOX_RESULT: the controller writes the result of the command in progress; a code that is no command has bad
operands. -/
def execMailboxResult (s : State) : Out :=
  match s.host.mbResult with
  | some r => .next (s.onHost (·.finish r))
  | none =>
    if s.host.mbBusy ∧ !mailboxCodes.contains (bits (s.mb 0) 0 16) then .next (s.onHost (·.finish 1)) else .next s

/-! ## The apertures (R383, R384) -/

/-- What an outside agent's access returns: bytes, or none for a completer abort (R384). -/
def State.answer (s : State) (r : Option (List Byte)) : State := s.onHost (fun h => { h with answer := r })

/-- HOST_RAW_ACCESS: up to 64 bytes of package memory or of a Vat, or the host's own access to host memory (R383, R386); a
read returns the bytes and changes no memory. It carries floors between the die where it comes in and the home (R338, R379; log 49).
One that meets an uncorrectable error is dropped (R394; log 42). -/
def execHostRawAccess (write : Bool) (tier : Tier) (pa : Nat) (bytes : List Byte) (s : State) : Out :=
  if (tier = .vat ∨ tier = .pkg ∨ tier = .host) ∧ bytes.length ≤ 64 then
    match exists? tier pa bytes.length with
    | .ok _ =>
      let k := cellKey tier pa
      let t := s.exchangeFrom (Config.hostModule k) k
      .next (if !s.good k bytes.length then (if write then s else s.answer none)
        else if write then t.storeBytes k bytes
        else t.answer (some (memRead s.mem k bytes.length)))
    | .error _ => .fault (.noSuchAddress tier pa)
  else .next s

/-- An outside agent as the party of a tile access: sub 0 the host, 1 a CXL device, 2 a peer package (R298). -/
def State.outsider (s : State) (sub : Nat) (o : BitVec 16) : Who :=
  ⟨⟨0, sub⟩, ⟨o, s.ttbOf o, 0, 0, 0, none, 0⟩, 0, 0, (0, 0, []), agentHold sub, 0⟩

/-- An outside agent whose requests come in at a die: they carry that die's floors to the home, and the response brings the home's
back (R338; log 49). -/
def State.outsiderAt (s : State) (d : Fin 4) (sub : Nat) (o : BitVec 16) : Who :=
  { s.outsider sub o with die := d, floors := s.dies[d].floors }

/-- The host, at the module by which it reaches the tile that TAPSEL selects (R379). -/
def State.hostAt (s : State) (idx : Nat) (o : BitVec 16) : Who := s.outsiderAt (Config.hostModule idx) 0 o

/-- A CXL device, or the peer package behind a port. -/
def State.agentAt (s : State) (port : Option Nat) (o : BitVec 16) : Who :=
  s.outsiderAt ((port.map portDie).getD Config.cxlDie) (if port.isSome then 2 else 1) o

/-- The tile of an outside access: well-formed, the owner's, and of a tier that the class allows (R384). -/
def outsideTile (s : State) (w : Who) (acc : BitVec 2) (cls idx : Nat) : Res (Nat × Tte) :=
  (readEntry s w.ctx acc idx).bind fun (k, t) =>
    if t.owner != w.ctx.owner || (cls == 2 && !(t.tier == 2 || t.tier == 3)) then .error (tileAbsent acc idx) else .ok (k, t)

/-- Bytes [off, off + len) of a tile's ROW image, zero past its end (R231, R384). -/
def Tte.rowSpan (t : Tte) (vals : List Nat) (off len : Nat) : List Byte :=
  (((t.rowBytes vals).drop off).take len) ++ List.replicate (len - ((t.rowBytes vals).length - off)) 0

/-- What the bytes [off, off + len) of a tile are to an agent: decoded, of the blocks that hold them, or for an agent that
holds PRESSCAP the coded backing of a pressed tile, a REPEAT's being its target's (R56, R83). -/
def outsideBytes (s : State) (c : TCtx) (idx : Nat) (t : Tte) (off len : Nat) (press : Bool) : Res (List Byte) :=
  let decoded : Res (List Byte) :=
    let elems := ((List.range len).flatMap (fun i => t.elemsAt (off + i))).eraseDups.filter (· < t.rows * t.cols)
    (reachedVals s c idx t elems).map fun vals => t.rowSpan vals off len
  if press && !isSymbol t.kind then
    (backingEntry s c idx t).bind fun (x, r) =>
      if r.press then
        (peerOk s r).bind fun _ => (backKey s c 0 x r).bind fun base =>
          (needAllGood s (r.storedPlaces base)).map fun _ => (storedBlocks s base r).flatMap (·.2)
      else decoded
  else decoded

/-- A read by an outside agent (R64, R83, R341, R384): a symbol or REPEAT is promoted, unless the tile is VERSIONED or the
agent is symbol-capable; what is returned is decoded after that. -/
def outsideRead (w : Who) (sym press : Bool) (cls idx off len : Nat) (s : State) : Res (List Byte × State) :=
  (outsideTile s w 0 cls idx).bind fun (k, t) =>
    (readTile w k t s).bind fun (t', s) =>
      (if t.kind != 0 && !t.versioned && !sym then (promote w.ctx idx k s).map fun s => (s.tte k, s)
        else .ok (t', s)).bind fun (t', s) =>
          (outsideBytes s w.ctx idx t' off len press).map fun bs => (bs, s)

/-- The values of a tile with bytes of its ROW image replaced from `off` on. -/
def putRowBytes (t : Tte) (off : Nat) (bs : List Byte) (v : TileVals) : TileVals :=
  let new := (t.rowBytes v.vals).zipIdx.map (fun (b, i) => if off ≤ i ∧ i < off + bs.length then bs.getD (i - off) 0 else b)
  ⟨unpackBytes (fmtWidth t.fmt) (t.rows * t.cols) new, v.scales⟩

/-- A host write through the tile aperture: a partial write (R59, R64, R85). -/
def outsideWrite (w : Who) (cls idx off : Nat) (bs : List Byte) (s : State) : Res State :=
  (outsideTile s w 1 cls idx).bind fun (k, t) =>
    if !mayWrite t then .error (capPermAt 1)
    else
      let elems := ((List.range bs.length).flatMap (fun i => t.elemsAt (off + i))).eraseDups.filter (· < t.rows * t.cols)
      if elems.isEmpty then .ok s
      else (writeTile w k s).bind fun s => partialWrite w.ctx idx k elems false (putRowBytes t off bs) s

/-- How an outside access of an owner's tile ends: with the bytes that it returns; one that fails leaves the tile unchanged and
returns a completer abort: a trap, which ACCESSERR counts where `count` says so, or a failed block, which CORRUPT counts
(R82, R384; log 30). A promotion made on the way does not stand then: the spec does not say (log 70). A read that has ended holds
no writes any more: those that `hold` stands for (R329). -/
def endOutside (o : BitVec 16) (count : Bool) (hold : Nat) (s : State) : Res (List Byte × State) → Out
  | .ok (bs, t) => .next ((t.endHolds hold).answer (some bs))
  | .error (.trap t) =>
    let s := ((s.endHolds hold).countFail t.failed).answer none
    .next (if count then s.countAccessErr o else s)
  | .error (.post st) =>
    let s := s.endHolds hold
    .next ((if st = 6 then s.countRevoked o else s.countCorrupt o).answer none)
  | .error (.stall _) => .next (s.endHolds hold)
  | .error (.fault f) => .fault f

/-- The owner, class and index that TAPSEL selects. -/
def State.tapOwner (s : State) : BitVec 16 := s.host.tapsel.extractLsb' 48 16
/-- The class of TAPSEL. -/
def State.tapClass (s : State) : Nat := bits s.host.tapsel 45 3
/-- The tile index of TAPSEL. -/
def State.tapIndex (s : State) : Nat := bits s.host.tapsel 0 32

/-- TILE_APERTURE_READ. -/
def execTileApertureRead (off len : Nat) (s : State) : Out :=
  endOutside s.tapOwner true (agentHold 0) s (outsideRead (s.hostAt s.tapIndex s.tapOwner) false false s.tapClass s.tapIndex off len s)

/-- TILE_APERTURE_WRITE. -/
def execTileApertureWrite (off : Nat) (bytes : List Byte) (s : State) : Out :=
  endOutside s.tapOwner true 0 s ((outsideWrite (s.hostAt s.tapIndex s.tapOwner) s.tapClass s.tapIndex off bytes s).map fun s => ([], s))

/-- OUTSIDE_AGENT_READ: a CXL device, or the peer package behind a port, reads a whole tile (R64). A peer holds SYMCAP and
PRESSCAP as its end of the link advertised at training (R58, R83, R390). -/
def execOutsideAgentRead (port : Option Nat) (owner : BitVec 16) (index : BitVec 32) (s : State) : Out :=
  let p := (port.bind (fun n => s.fabric.ports[n]?)).filter (·.up)
  endOutside owner false (agentHold (if port.isSome then 2 else 1)) s
    (outsideRead (s.agentAt port owner) (p.any (·.symCap)) (p.any (·.pressCap)) 1 index.toNat 0 32768 s)

/-! ## Requests to an exported window (R391) -/

/-- The first byte of a window: its key. -/
def windowKey (w : Word × Word) : Tier × Nat := ((memTier (bits w.1 60 3)).getD .pkg, bits w.1 0 40 * 512)

/-- Whether a window admits an access: the importer's, inside the window, with the permission bit. -/
def windowAdmits (w : Word × Word) (owner : BitVec 16) (off len perm : Nat) : Bool :=
  w.2.extractLsb' 32 16 == owner && decide (off + len ≤ (bits w.2 0 24 + 1) * 512) && w.2.getLsbD perm

/-- The instruction whose atomic an operation is. -/
def AmoOp.instr (op : AmoOp) : Instr :=
  match op with
  | .add => .amoadd noWheel .ord 0 0 0 | .and => .amoand noWheel .ord 0 0 0 | .or => .amoor noWheel .ord 0 0 0
  | .xor => .amoxor noWheel .ord 0 0 0 | .min => .amomin noWheel .ord 0 0 0 | .max => .amomax noWheel .ord 0 0 0
  | .minn => .amominn noWheel .ord 0 0 0 | .maxn => .amomaxn noWheel .ord 0 0 0 | .xchg => .amoxchg noWheel .ord 0 0 0
  | .cas => .amocas noWheel .ord 0 0 0 | .incb => .amoincb noWheel .ord 0 0 0 | .fadd => .amofadd noWheel .ord 0 0 0

/-- The bytes of an atomic (R211). -/
def AmoOp.size : AmoOp → Nat
  | .fadd => 4
  | _ => 8

/-- The offset, length and permission bit of a request. -/
def PeerOp.needs : PeerOp → Nat × Nat × Nat
  | .read off len => (off, len, 31)
  | .write off bs => (off, bs.length, 30)
  | .atomic off op _ _ _ => (off, AmoOp.size op, 29)
  | .member off op _ _ _ _ => (off, AmoOp.size op, 29)

/-- A transfer that the home turns away is counted for both owners (R392, R393). -/
def State.turnAway (s : State) (w : Option (Word × Word)) (owner : BitVec 16) : State :=
  let s := s.countRevoked owner
  match w with
  | some w => if w.2.extractLsb' 48 16 = owner then s else s.countRevoked (w.2.extractLsb' 48 16)
  | none => s

/-- A release AMO of a peer: the word's release set gains the peer party, whose epoch advances (R309, R323). -/
def State.peerRelease (s : State) (k : Nat) : State :=
  let set := (s.relset k).acquire ⟨0, 2⟩ s.host.peerEpoch
  (s.putRelset k set).onHost (fun h => { h with peerEpoch := h.peerEpoch + 1 })

/-- A peer's atomic at a key; one with release that stores releases on its word (R309, R323). -/
def peerAtomic (op : AmoOp) (v c : Word) (release : Bool) (k : Nat) (s : State) : State :=
  match amoOf (AmoOp.instr op) with
  | none => s
  | some (n, f) =>
    let (_, s, stored) := performAmo k n f v c s
    if release && stored then s.peerRelease (setWord k) else s

/-- The command that a peer's batch member stands for at this package: it posts at no job here. -/
def peerMember (op : AmoOp) (v c : Word) (id : BitVec 16) (key : BitVec 32) (tier : Tier) (pa : Nat) (s : State) : Cmd :=
  { s.command 1 (AmoOp.instr op) 0 false 0 0 0 v (id ++ (0 : BitVec 16) ++ key) with c := c, tier := tier, pa := pa, room := 8 }

/-- What an admitted request of an owner does at its place; a read, write or atomic that meets an uncorrectable error is
dropped and counted (R393, R394; log 42). -/
def applyPeer (owner : BitVec 16) (op : PeerOp) (tier : Tier) (pa : Nat) (s : State) : State :=
  let good := fun (n : Nat) (t : State) (u : State) => if s.good (cellKey tier pa) n then t else u.countCorrupt owner
  match op with
  | .read _ len => good len (s.answer (some (memRead s.mem (cellKey tier pa) len))) (s.answer none)
  | .write _ bs => good bs.length (s.storeBytes (cellKey tier pa) bs) s
  | .atomic _ op v c release => good (AmoOp.size op) (peerAtomic op v c release (cellKey tier pa) s) (s.answer none)
  | .member _ op v c id key =>
    match arrive 0 owner (peerMember op v c id key tier pa s) { s with nextCmd := s.nextCmd + 1 } with
    | .ok s => s
    | .error _ => s

/-- The record of a window, revoked or not. -/
def State.anyWindow (s : State) (id : BitVec 16) : Option (Word × Word) := (s.fabric.windows.find? (·.1 == id)).map (·.2)

/-- PEER_REQUEST: the request is checked against the window record when it reaches its home; one that is turned away counts
for the importer and the exporter, of a revoked window too (R392, R393). Its flits carry floors between the die of the port and
the home (R338). -/
def execPeerRequest (owner window : BitVec 16) (op : PeerReq) (s : State) : Out :=
  let (off, len, perm) := PeerOp.needs op.op
  match s.window? window with
  | none => .next (s.turnAway (s.anyWindow window) owner)
  | some w =>
    if !windowAdmits w owner off len perm then .next (s.turnAway (some w) owner)
    else
      let (tier, base) := windowKey w
      match exists? tier (base + off) len with
      | .ok _ => if (base + off) % (if perm = 29 then len else 1) = 0 then
          .next (applyPeer owner op.op tier (base + off) (s.exchangeFrom (portDie op.port) (cellKey tier (base + off))))
        else .next (s.turnAway (some w) owner)
      | .error _ => .fault (.noSuchAddress tier (base + off))

end Sys2Proof.Machine
end

