-- ==== Sys2Proof/Machine/Fabric.lean ====
section
/-!
DEFINITION. Machine/Fabric.lean: the Ulukin ports: flits, groups and their tags, links, and transfers to a revoked window
(spec/21_outside.md R387 to R392; notes/assumptions 9, 32).
-/
namespace Sys2Proof.Machine

/-! ## Flits (R387) -/

/-- Bits [63:32] of a flit's header. -/
def Flit.top (f : Flit) : Nat :=
  f.owner.toNat * 2 ^ 16 + f.kind.toNat * 2 ^ 12 + (if f.vc then 2 ^ 11 else 0) + (if f.ksel then 2 ^ 10 else 0) + f.lseq.toNat

/-- Bytes 4 to 63 of a flit: what its CRC covers. -/
def Flit.covered (f : Flit) : List Byte := leBytes 4 (Flit.top f) ++ f.payload

/-- The 64 bytes of a flit. -/
def Flit.bytes (f : Flit) : List Byte := leBytes 4 f.crc.toNat ++ Flit.covered f

/-- One step of the reflected CRC-32 of IEEE 802.3, polynomial 0x04C1_1DB7. -/
def crcBit (c : Nat) : Nat := if c % 2 = 1 then c / 2 ^^^ 0xEDB88320 else c / 2

/-- One byte. -/
def crcByte (c : Nat) (b : Byte) : Nat := (List.range 8).foldl (fun c _ => crcBit c) (c ^^^ b.toNat)

/-- CRC-32 with the IEEE 802.3 conventions (log 32). -/
def crc32 (bs : List Byte) : BitVec 32 := BitVec.ofNat 32 (bs.foldl crcByte 0xFFFFFFFF ^^^ 0xFFFFFFFF)

/-- Change a port. -/
def State.onPort (s : State) (n : Nat) (f : Port → Port) : State :=
  s.onFabric (fun b => if h : n < 48 then { b with ports := b.ports.set n (f b.ports[n]) } else b)

/-- A port by its number. -/
def State.port? (s : State) (n : Nat) : Option Port := s.fabric.ports[n]?

/-- Add a flit to the open group of its owner on a port (R388). -/
def Port.addFlit (p : Port) (f : Flit) : Port :=
  if p.groups.any (·.owner == f.owner) then
    { p with groups := p.groups.map (fun g => if g.owner = f.owner then { g with flits := g.flits ++ [f] } else g) }
  else { p with groups := p.groups ++ [⟨f.owner, [f]⟩] }

/-! ## Groups and tags (R388, R389) -/

/-- The 96-bit nonce of an owner's group on a port: the link's id, then the count of the owner's groups. -/
def Port.nonce (p : Port) (n : Nat) (o : BitVec 16) : Nat := n % 2 ^ 32 * 2 ^ 64 + (p.nonces.lookup o).getD 0 % 2 ^ 64

/-- The owner's group is closed. -/
def Port.close (p : Port) (o : BitVec 16) : Port :=
  { p with
    groups := p.groups.filter (·.owner != o)
    nonces := (o, (p.nonces.lookup o).getD 0 + 1) :: p.nonces.filter (·.1 != o) }

/-- Whether the tag of a group is right: the group has at most 16 flits, the key slot is filled, and the tag is the one
computed over the group's flits. -/
def State.tagOk (s : State) (n : Nat) (p : Port) (o : BitVec 16) (ksel : Bool) (tag : BitVec 128) : Bool :=
  match (s.owners.find? (·.id == o)).bind (fun x => if ksel then x.key1 else x.key0) with
  | none => false
  | some key =>
    let flits := ((p.groups.find? (·.owner == o)).map (·.flits)).getD []
    decide (flits.length ≤ 16) && Config.gmac key (p.nonce n o) (flits.flatMap Flit.bytes) == tag

/-- Transfers of commands of some jobs are dropped with what carried them: where they name a PEER tile, they complete with
CORRUPT (R388, R393). -/
def State.cutCmds (s : State) (of_ : Job → Bool) (lost : List Nat) : State :=
  let f := fun (c : Cmd) => if lost.contains c.id then { c with cut := true } else c
  s.mapJobs (fun j => if of_ j then { j with ceQ := j.ceQ.map f, mxQ := j.mxQ.map f, vqQ := j.vqQ.map f } else j)

/-- A tag closes the owner's group on a port; a group whose tag fails is dropped whole and counted in TAGERR, with the owner's
transfers that have a flit in it (R388, R393). -/
def State.closeGroup (s : State) (n : Nat) (o : BitVec 16) (ksel : Bool) (tag : BitVec 128) (lost : List Nat) : State :=
  match s.port? n with
  | none => s
  | some p =>
    if !p.up then s
    else
      let ok := s.tagOk n p o ksel tag
      let s := s.onPort n (·.close o)
      if ok then s else (s.onOwner o (fun x => { x with tagErr := x.tagErr + 1 })).cutCmds (·.owner == o) lost

/-- TAG_FLIT. -/
def execTagFlit (port : Nat) (owner : BitVec 16) (ksel : Bool) (tag : TagEnd) (s : State) : Out :=
  .next (s.closeGroup port owner ksel tag.tag tag.lost)

/-- A flit with a good CRC: the floors that it carries raise those of the port's die (R338); a reserved KIND is dropped and
counted in LINKERR; requests and responses join the owner's group; a tag closes it. -/
def State.acceptFlit (s : State) (n : Nat) (rec : Received) : State :=
  let f := rec.flit
  let lost := rec.lost
  let s := s.onPort n (fun p => { p with lseq := f.lseq, replays := 0, asked := false })
  let s := if 6 ≤ f.kind.toNat then s else s.hearFloors (portDie n) 0 rec.floors
  if 6 ≤ f.kind.toNat then s.onPort n (fun p => { p with linkErr := p.linkErr + 1 })
  else if f.kind.toNat ≤ 1 then s.onPort n (·.addFlit f)
  else if f.kind = 4 then s.closeGroup n f.owner f.ksel (BitVec.ofNat 128 (leNat (f.payload.take 16))) lost
  else s

/-- The failures of one flit after which its link is down: the first one and eight failed replays (R387). -/
def replayLimit : Nat := 9

/-- Whether a port takes a flit with a good CRC: while a replay is asked for, only the flit after the last good one (R387). -/
def Port.takes (p : Port) (f : Flit) : Bool := decide (p.replays < replayLimit) && (!p.asked || f.lseq == p.lseq + 1)

/-- FLIT_RECEIVED: a flit whose CRC fails is not accepted, and a replay from the last good LSEQ is asked for. -/
def execFlitReceived (port : Nat) (rec : Received) (s : State) : Out :=
  match s.port? port with
  | none => .next s
  | some p =>
    .next (if !p.up then s
      else if crc32 (Flit.covered rec.flit) = rec.flit.crc ∧ rec.flit.payload.length = 56 then
        (if p.takes rec.flit then s.acceptFlit port rec else s)
      else s.onPort port (fun p => { p with replays := p.replays + 1, asked := true }))

/-! ## Links (R387, R390) -/

/-- LINK_DOWN: the link is declared down once the replays of a flit have failed; the transfers on it are dropped (R393). -/
def execLinkDown (loss : LinkLoss) (s : State) : Out :=
  match s.port? loss.port with
  | none => .next s
  | some p =>
    if replayLimit ≤ p.replays then
      .next ((s.onPort loss.port (fun p => { p with up := false, replays := 0, asked := false, groups := [] })).cutCmds (fun _ => true) loss.lost)
    else .next s

/-- LINK_TRAINING: the link is up, and the peer holds what it advertises. -/
def execLinkTraining (port : Nat) (pressCap symCap : Bool) (s : State) : Out :=
  .next (s.onPort port (fun p =>
    { p with up := true, lseq := 0, replays := 0, asked := false, pressCap := pressCap, symCap := symCap, groups := [] }))

/-! ## Revocation at the initiator (R392) -/

/-- The n-th command of the queues of the job in focus, the Copy Engine's, the matrix engine's and the Vat's in this order, if
its transfer may be in flight. -/
def State.inFlight (s : State) (n : Nat) : Option (Engine × Cmd) :=
  let ce := s.job.ceQ.length
  let mx := s.job.mxQ.length
  if n < ce then (s.job.runnable .ce n).map (.ce, ·)
  else if n < ce + mx then (if n = ce then (s.job.runnable .mx 0).map (.mx, ·) else none)
  else (arrivable s (n - ce - mx)).map (.vq, ·)

/-- TRANSFER_REVOKED: a command of the job in focus that names a PEER tile completes with REVOKED and writes nothing. -/
def execTransferRevoked (n : Nat) (s : State) : Out :=
  match s.inFlight n with
  | none => .next s
  | some (e, c) =>
    if peerCmd s c then
      match finishThread s.job.uid e c (settleCommit c (lostEnd c 6 s) s) (lostEnd c 6 s) with
      | .next t => .next (unbatch c.id t)
      | o => o
    else .next s

end Sys2Proof.Machine
end

