-- ==== Sys2Proof/Machine/Matrix.lean ====
section
/-!
DEFINITION. Machine/Matrix.lean: the matrix commands: their issue, and what they do when they complete
(spec/10_matrix.md R236 to R263, spec/02_numbers.md R37 to R39, spec/06_streams_and_words.md R138 to R140).
-/
namespace Sys2Proof.Machine

/-! ## Accumulators (R138, R139, R263) -/

/-- The 128 element patterns of a row. -/
def patterns (x : VecReg) : List Nat := (List.range 128).map (lane 32 x)

/-- Row m of ACCV stands in a rotating slot (R138). -/
def Job.accvRotates (j : Job) (m : Fin 32) : Bool := decide (16 ≤ m.val ∧ m.val - 16 < j.rot)

/-- Row m of ACCV as a command reads it: +0 where its rotating slot is not live (R263). -/
def Job.accvRow (j : Job) (m : Fin 32) : VecReg :=
  if j.accvRotates m && !j.slotLive.getLsbD (m.val - 16) then 0 else j.vregs[m]

/-- Write row m of ACCV, which marks a rotating slot live (R138). -/
def Job.setAccvRow (j : Job) (m : Fin 32) (x : VecReg) : Job :=
  { j with
    vregs := j.vregs.set m x
    slotLive := if j.accvRotates m then putBit j.slotLive (m.val - 16) true else j.slotLive }

/-- The rows of ACC0 to ACC2, or of ACCV as the command sees them (R140), as element patterns. An accumulator that is SYM
holds its symbol's value in every element. -/
def Job.accRows (j : Job) (view : List VecReg) : AccId → List (List Nat)
  | .acc0 => j.acc[0].rows.toList.map patterns
  | .acc1 => j.acc[1].rows.toList.map patterns
  | .acc2 => j.acc[2].rows.toList.map patterns
  | .accv => view.map patterns

/-- The status word of an accumulator (R139). -/
def Job.accStatus (j : Job) : AccId → Word
  | .acc0 => j.acc[0].status
  | .acc1 => j.acc[1].status
  | .acc2 => j.acc[2].status
  | .accv => j.accv

/-- Replace the status word of an accumulator. -/
def Job.setAccStatus (j : Job) (a : AccId) (w : Word) : Job :=
  match a with
  | .acc0 => { j with acc := j.acc.set 0 { j.acc[0] with status := w } }
  | .acc1 => { j with acc := j.acc.set 1 { j.acc[1] with status := w } }
  | .acc2 => { j with acc := j.acc.set 2 { j.acc[2] with status := w } }
  | .accv => { j with accv := w }

/-- A register of 128 element patterns. -/
def regOf (xs : List Nat) : VecReg := BitVec.ofNat 4096 (packNat 32 xs)

/-- The rows of an accumulator from element patterns. -/
def accVector (rows : List (List Nat)) : Vector VecReg 128 := Vector.ofFn (fun i => regOf (rows.getD i.val []))

/-- The rows of ACCV that a command finds at its acceptance (R140). -/
def Job.accvView (j : Job) : List VecReg := (List.finRange 32).map j.accvRow

/-- Later commands see the rows of ACCV that a command writes (R140, R238). -/
def Job.shareAccv (j : Job) (count : Nat) (rows : List (List Nat)) : Job :=
  { j with mxQ := j.mxQ.map (fun c => { c with accv := c.accv.zipIdx.map (fun (x, m) =>
      if m < count then regOf (rows.getD m []) else x) }) }

/-- Write rows of an accumulator: all of ACC0 to ACC2, or the first `count` of ACCV (R263). -/
def Job.setAccRows (j : Job) (a : AccId) (count : Nat) (rows : List (List Nat)) : Job :=
  match a with
  | .acc0 => { j with acc := j.acc.set 0 { j.acc[0] with rows := accVector rows } }
  | .acc1 => { j with acc := j.acc.set 1 { j.acc[1] with rows := accVector rows } }
  | .acc2 => { j with acc := j.acc.set 2 { j.acc[2] with rows := accVector rows } }
  | .accv =>
    ((List.finRange 32).foldl (fun j m => if m.val < count then j.setAccvRow m (regOf (rows.getD m.val [])) else j) j).shareAccv
      count rows

/-- STATE of a status word: SYM. -/
def isSym (w : Word) : Bool := w.getLsbD 37

/-- A status word made SYM with a pattern, or DENSE (R139, R252). -/
def withSym (w : Word) (p : Option Nat) : Word :=
  let (v, st, k) := match p with
    | some 0 => (0, 1, 0)
    | some x => (x, 1, 1)
    | none => (0, 0, 0)
  setBits (setBits (setBits w 0 32 v) 37 1 st) 38 2 k

/-- The one pattern that every element holds, if there is one (R252). -/
def uniform (rows : List (List Nat)) : Option Nat :=
  match rows with
  | (p :: _) :: _ => if rows.all (·.all (· == p)) then some p else none
  | _ => none

/-- Whether the accumulator is ACCV. -/
def isAccv : AccId → Bool
  | .accv => true
  | .acc0 | .acc1 | .acc2 => false

/-- The result of a command on an accumulator: rows, sticky flags, SKIP, and SYM where R252 allows it. -/
def Job.commitAcc (j : Job) (a : AccId) (count : Nat) (rows : List (List Nat)) (symOk : Bool) (fl : FFlags) (skip : Nat) :
    Job :=
  let w := statusSkip (statusRaise (j.accStatus a) fl) skip
  (j.setAccRows a count rows).setAccStatus a (withSym w (if symOk && !isAccv a then uniform rows else none))

/-- Change the elements of the region of M rows and N columns: the new rows, and the flags raised. -/
def onRegion (m n : Nat) (f : Nat → Nat → Nat → Nat × FFlags) (rows : List (List Nat)) : List (List Nat) × FFlags :=
  let out := rows.zipIdx.map (fun (r, i) =>
    if i < m then r.zipIdx.map (fun (x, k) => if k < n then f i k x else (x, FFlags.none))
    else r.map (fun x => (x, FFlags.none)))
  (out.map (·.map (·.1)), out.foldl (fun a r => r.foldl (fun a e => a.or e.2) a) .none)

/-! ## Operands (R239 to R244) -/

/-- How an accumulator's elements are read (R241). -/
inductive Reading where
  | fp32 | i32
  deriving DecidableEq, Repr

/-- The reading and the chunk length that the formats of A and B select (R37, R241). -/
def pairReading (a b : Fmt) : Option (Reading × Nat) :=
  match a, b with
  | .fp32, .fp32 | .bf16, .bf16 | .f16, .f16 | .e2m1, .e2m1 => some (.fp32, 32)
  | .e4m3, .e4m3 | .e4m3, .e5m2 | .e5m2, .e4m3 | .e5m2, .e5m2 => some (.fp32, 128)
  | .i8, .i8 => some (.i32, 32)
  | _, _ => none

/-- The reading that a C or MACC tile goes with (R241). -/
def tileReading (f : Fmt) : Option Reading :=
  if f = .e2m1 then none else if isFloat f then some .fp32 else some .i32

/-- A tile that a matrix command names, as it is found: the tile, its effective entry with a REPEAT replaced (R239), the
entry that holds its bytes, and its row-scale tile. -/
structure MxTile where
  o : Opened
  eff : Tte
  back : Tte
  rs : Option Opened
  deriving DecidableEq, Repr

/-- A REPEAT's entry with what its target brings (R56, R239), its MXAXIS among it (log 52). -/
def Tte.replaced (t r : Tte) : Tte := (((t.put 0 61 3 r.kind).put 0 31 1 (r.get 0 31 1))).setSummary r.summary

/-- Open a tile for reading and choose its version (R70, R343). -/
def openVersion (w : Who) (cap : BitVec 128) (idx : Nat) (s : State) : Res (Opened × State) :=
  (openTile s w.ctx cap 0 idx).bind fun (k, t) => (versionFor w k t s).map fun (t, s) => (⟨idx, k, t⟩, s)

/-- Step 4 for one operand: its entry and, where `scaled`, that of its row-scale tile. -/
def openOperand (w : Who) (cap : BitVec 128) (scaled : Tte → Bool) (s : State) : Res (MxTile × State) :=
  (openVersion w cap (Cap.tile cap 0 0) s).bind fun (o, s) =>
    (backingEntry s w.ctx o.idx o.t).bind fun (_, r) =>
      let eff := if o.t.kind = 5 then o.t.replaced r else o.t
      if o.t.rowsc && scaled o.t then
        match sameTable (isLtt o.idx) o.t.rsidx with
        | none => .error (tileAbsent 0 o.idx)
        | some x => (openVersion w cap x s).map fun (rs, s) => (⟨o, eff, r, some rs⟩, s)
      else .ok (⟨o, eff, r, none⟩, s)

/-- A STORED tile of tier SCRATCH, or a symbol (R240). -/
def scratchOk (t : Tte) : Bool := t.kind != 0 || t.tier == 0

/-- Step 5 for an operand or C tile (R240). -/
def MxTile.tierOk (x : MxTile) (s : State) (c : TCtx) : Res Bool :=
  match x.rs with
  | none => .ok (scratchOk x.back)
  | some r => (backingEntry s c r.idx r.t).map fun (_, b) => scratchOk x.back && scratchOk b

/-- The row scales of a tile: elements (0, m) of its row-scale tile, or none (R243). -/
def MxTile.rowScales (x : MxTile) (s : State) (c : TCtx) : Res (List Nat) :=
  match x.rs with
  | none => .ok []
  | some r => (valuesOf s c r.idx r.t).map (·.vals)

/-- Step 7: the reads of a tile and of its row-scale tile are checked and recorded. -/
def MxTile.read (x : MxTile) (w : Who) (s : State) : Res State :=
  (readChosen w x.o.k x.o.t s).bind fun s =>
    match x.rs with
    | none => .ok s
    | some r => readChosen w r.k r.t s

/-- TSCALE × rs(m) as an exact value (R243). -/
def scaleAt (t : Tte) (rs : List Nat) (m : Nat) : Val :=
  if t.rowsc then (mulVal (f32 t.tscale) (f32 (rs.getD m 0))).1 else f32 t.tscale

/-- An FP32 pattern that is NaN or infinite. -/
def badScale (b : Nat) : Bool := isNaNBits .fp32 b || isInfBits .fp32 b

/-- Whether the scales of a tile of n rows are finite (R243). -/
def scalesOk (t : Tte) (rs : List Nat) (n : Nat) : Bool :=
  !badScale t.tscale && (!t.rowsc || (rs.take n).all (!badScale ·))

/-- An operand element: flushed, decoded, and for E2M1 multiplied by its block scale (R24, R33, R37). -/
def operandVal (fpctl : Word) (f : Fmt) (x sc : Nat) : Val :=
  if f = .e2m1 then (mulVal (e8m0 sc) (readOperand fpctl f x)).1 else readOperand fpctl f x

/-- Element patterns as rows. -/
def rowsOf (vals : List Nat) (r c : Nat) : List (List Nat) := (List.range r).map (fun i => (vals.drop (i * c)).take c)

/-- Rows of n columns, transposed. -/
def transpose {α : Type} (d : α) (n : Nat) (rows : List (List α)) : List (List α) :=
  (List.range n).map (fun j => rows.map (·.getD j d))

/-- The lines along k of an operand: its rows, or its columns where `cols` (R242). -/
def operandLines (fpctl : Word) (t : Tte) (v : TileVals) (cols : Bool) : List (List Val) :=
  let rows := (rowsOf v.vals t.rows t.cols).zipIdx.map (fun (r, i) =>
    r.zipIdx.map (fun (x, j) => operandVal fpctl t.fmt x (t.scaleOf v.scales i j)))
  if cols then transpose (.rat false 0 1 0) t.cols rows else rows

/-! ## The dense definition (R246) -/

/-- The chunks of a list, n of them, L elements each (R37). -/
def chunksOf {α : Type} (l : Nat) : Nat → List α → List (List α)
  | 0, _ => []
  | n + 1, xs => xs.take l :: chunksOf l n (xs.drop l)

/-- ⌈a ÷ b⌉. -/
def ceilDiv (a b : Nat) : Nat := (a + b - 1) / b

/-- The integer that an exact integer product is. -/
def valInt : Val → Int
  | .rat neg n _ _ => if neg then -(n : Int) else n
  | _ => 0

/-- One chunk applied to an element (R37, R39). -/
def chunkStep (r : Reading) (s : Val) (x : Nat) (ps : List (Val × FFlags)) : Nat × FFlags :=
  match r with
  | .fp32 => accAdd x s (chunkSum ps)
  | .i32 => satI32 (toSInt 32 x + (ps.map (fun p => valInt p.1)).foldl (· + ·) 0)

/-- The products of a line of A and a line of B, chunk by chunk, applied to an element. -/
def productStep (r : Reading) (l n : Nat) (s : Val) (as bs : List Val) (x : Nat) : Nat × FFlags :=
  (chunksOf l n (List.zipWith mulVal as bs)).foldl (fun a ps =>
    let (x, f) := chunkStep r s a.1 ps
    (x, a.2.or f)) (x, .none)

/-- The C step: the element of a C tile with its scale, added once (R246). -/
def tileStep (r : Reading) (f : Fmt) (s : Val) (x c : Nat) : Nat × FFlags :=
  match r with
  | .fp32 => accAdd x s (decodeVal f c, .none)
  | .i32 => satI32 (toSInt 32 x + intVal f c)

/-- A C or MACC tile as its step uses it: its entry, values and row scales. -/
structure Addend where
  t : Tte
  rows : List (List Nat)
  rs : List Nat
  deriving DecidableEq, Repr

/-- The C step of element (m, n); a ZERO tile makes no addition (R248). -/
def Addend.step (c : Option Addend) (r : Reading) (m n x : Nat) : Nat × FFlags :=
  match c with
  | none => (x, .none)
  | some c =>
    if c.t.kind = 1 then (x, .none)
    else tileStep r c.t.fmt (scaleAt c.t c.rs m) x ((c.rows.getD m []).getD n 0)

/-! ## Paths (R247 to R253) -/

/-- How a command is settled (R248). -/
inductive MxPath where
  | skip | byRows | byColumns | constant | array
  deriving DecidableEq, Repr

/-- An operand's entry says that it is finite (R247). -/
def entryFinite (t : Tte) : Bool := !isFloat t.fmt || t.summary / 2 == 0

/-- The path of R248. -/
def mxPath (a b : Tte) : MxPath :=
  if a.kind = 1 then (if b.kind = 1 || entryFinite b then .skip else .byColumns)
  else if b.kind = 1 then (if entryFinite a then .skip else .byRows)
  else if a.kind = 2 && b.kind = 2 then .constant
  else .array

/-- Whether a line holds a NaN or an infinity, and whether V is raised for it (R250). -/
def badLine (xs : List Val) : Bool × Bool :=
  let nan := xs.any (fun v => match v with | .nan _ => true | _ => false)
  let inf := xs.any (fun v => match v with | .inf _ => true | _ => false)
  (nan || inf, inf || xs.any isSig)

/-- The element of a bad row or column (R250). -/
def badStep (bad : Bool × Bool) (x : Nat × FFlags) : Nat × FFlags :=
  if bad.1 then (canonNaN .fp32, x.2.or (.invalid bad.2)) else x

/-- What an MMA or MMAT computes with: reading, chunk length and count, path, lines of A and B, scales and addend. -/
structure Product where
  r : Reading
  l : Nat
  chunks : Nat
  m : Nat
  n : Nat
  path : MxPath
  a : List (List Val)
  b : List (List Val)
  s : List Val
  c : Option Addend
  ovr : Bool
  deriving DecidableEq, Repr

/-- The new value of element (m, n), whose old value is x (R246, R249 to R251). -/
def Product.element (p : Product) (m n x : Nat) : Nat × FFlags :=
  let x := Addend.step p.c p.r m n (if p.ovr then 0 else x)
  match p.path with
  | .skip => x
  | .byRows => badStep (badLine (p.a.getD m [])) x
  | .byColumns => badStep (badLine (p.b.getD n [])) x
  | .constant | .array =>
    let (y, f) := productStep p.r p.l p.chunks (p.s.getD m (.rat false 0 1 0)) (p.a.getD m []) (p.b.getD n []) x.1
    (y, x.2.or f)

/-- The mask of an MMAT: what masked elements take, `lower` and `diag` (R254). -/
structure MxMask where
  kind : MaskKind
  lower : Bool
  diag : Int
  deriving DecidableEq, Repr

/-- Whether element (m, n) is masked. -/
def MxMask.hides (k : MxMask) (m n : Nat) : Bool :=
  if k.lower then decide ((n : Int) - m < k.diag) else decide (k.diag < (n : Int) - m)

/-- The value of a masked element, whose old value is x. -/
def MxMask.value (k : MxMask) (r : Reading) (x : Nat) : Nat :=
  match k.kind, r with
  | .zero, _ => 0
  | .ninf, .fp32 => 0xFF80_0000
  | .ninf, .i32 => 0x8000_0000
  | .keep, _ => x

/-- The new value of element (m, n) under a mask. -/
def Product.masked (p : Product) (k : Option MxMask) (m n x : Nat) : Nat × FFlags :=
  match k with
  | some k => if k.hides m n then (k.value p.r x, .none) else p.element m n x
  | none => p.element m n x

/-- The pairs below m and n. -/
def pairsBelow (m n : Nat) : List (Nat × Nat) := (List.range m).flatMap (fun i => (List.range n).map (fun j => (i, j)))

/-- The 32 × 32 blocks of the region whose elements are all masked (R253). -/
def hiddenBlocks (k : MxMask) (m n : Nat) : Nat :=
  ((pairsBelow (ceilDiv m 32) (ceilDiv n 32)).filter (fun (a, b) =>
    (pairsBelow (min 32 (m - 32 * a)) (min 32 (n - 32 * b))).all (fun (i, j) => k.hides (32 * a + i) (32 * b + j)))).length

/-- What a command adds to SKIP (R253). -/
def Product.skipped (p : Product) (k : Option MxMask) : Nat :=
  match p.path with
  | .array => ((k.map (hiddenBlocks · p.m p.n)).getD 0) * p.chunks
  | _ => ceilDiv p.m 32 * ceilDiv p.n 32 * p.chunks

/-- The conditions of R252 that need no element. -/
def Product.symOk (p : Product) (k : Option MxMask) (wasSym arowsc : Bool) : Bool :=
  (wasSym || (p.ovr && p.m == 128 && p.n == 128)) &&
    (match p.path with | .skip | .constant => true | .byRows | .byColumns | .array => false) &&
    (match p.c with | none => true | some c => (c.t.kind == 1 || c.t.kind == 2) && !c.t.rowsc) && !arowsc &&
    (match k with | none => true | some k => !(pairsBelow p.m p.n).any (fun (m, n) => k.hides m n))

/-! ## MMA and MMAT (R242 to R254) -/

/-- The conditions on E2M1 operands (R243). -/
def e2m1Ok (t : Tte) (axis : Bool) : Bool :=
  t.fmt != .e2m1 || (t.tscale == 0x3F80_0000 && !t.rowsc && t.mxaxis == axis)

/-- The shape of A: M and K (R242). -/
def shapeOf (t : Tte) (swap : Bool) : Nat × Nat := if swap then (t.cols, t.rows) else (t.rows, t.cols)

/-- The addend of a C or MACC tile: integer tiles ignore their scales (R243). -/
def addendOf (x : MxTile) (v : TileVals) (rs : List Nat) : Addend := ⟨x.eff, rowsOf v.vals x.eff.rows x.eff.cols, rs⟩

/-- A C tile fits the reading and the region, with good scales (R241 to R243). -/
def tileFits (r : Reading) (m n : Nat) (t : Tte) (rs : List Nat) : Bool :=
  tileReading t.fmt == some r && t.rows == m && t.cols == n && (r == .i32 || scalesOk t rs m)

/-- Step 6 of an MMA (R241 to R243): A as captured or read, B, and C with its row scales. -/
def mmaFits (acc : AccId) (tb : Bool) (a : HeldA) (b : Tte) (c : Option (Tte × List Nat)) : Option (Reading × Nat) :=
  let (m, k) := shapeOf a.entry a.ta
  let (k', n) := shapeOf b tb
  match pairReading a.entry.fmt b.fmt with
  | none => none
  | some (r, l) =>
    if k = k' ∧ (isAccv acc = false ∨ m ≤ 32) ∧ (a.ta = false ∨ a.entry.rowsc = false) ∧ b.rowsc = false ∧
        e2m1Ok a.entry a.ta = true ∧ e2m1Ok b (!tb) = true ∧ scalesOk a.entry a.rs m = true ∧
        scalesOk b [] 0 = true ∧ c.all (fun (t, rs) => tileFits r m n t rs) = true then some (r, l)
    else none

/-- The step on the accumulator of an MMA or MMAT: A and B with values, and C (R246, R252 to R254). -/
def mmaOnAcc (acc : AccId) (fpctl : Word) (tb ovr : Bool) (k : Option MxMask) (rl : Reading × Nat) (a : HeldA) (b : Tte)
    (bv : TileVals) (c : Option Addend) (view : List VecReg) (j : Job) : Job :=
  let (m, kk) := shapeOf a.entry a.ta
  let n := (shapeOf b tb).2
  let sb := f32 b.tscale
  let p : Product :=
    { r := rl.1, l := rl.2, chunks := ceilDiv kk rl.2, m := m, n := n, path := mxPath a.entry b
      a := operandLines fpctl a.entry ⟨a.vals, a.mx⟩ a.ta
      b := operandLines fpctl b bv (!tb)
      s := (List.range m).map (fun i =>
        if a.entry.fmt = .e2m1 then natVal 1 else (mulVal (scaleAt a.entry a.rs i) sb).1)
      c := c, ovr := ovr }
  let (rows, fl) := onRegion m n (p.masked k) (j.accRows view acc)
  j.commitAcc acc m rows (p.symOk k (isSym (j.accStatus acc)) a.entry.rowsc) fl (p.skipped k)

/-- The operand of an optional pair. -/
def optional {α : Type} (p : Pair) (f : Unit → State → Res (α × State)) (s : State) : Res (Option α × State) :=
  if p = 0 then .ok (none, s) else (f () s).map fun (x, s) => (some x, s)

/-- Values that are read where there is a tile. -/
def valsOf? (s : State) (c : TCtx) (x : Option MxTile) : Res (Option TileVals) :=
  match x with
  | none => .ok none
  | some x => (valuesOf s c x.o.idx x.o.t).map some

/-- Row scales where there is a tile. -/
def scalesOf? (s : State) (c : TCtx) (x : Option MxTile) : Res (List Nat) :=
  match x with
  | none => .ok []
  | some x => x.rowScales s c

/-- Step 5 for an optional tile. -/
def tierOf? (s : State) (c : TCtx) (x : Option MxTile) : Res Unit :=
  match x with
  | none => .ok ()
  | some x => (x.tierOk s c).bind fun ok => ensure ok operandTier

/-- The values of a product operand: a transposed read takes the COL half of a ROWCOL tile (R46). -/
def operandValues (s : State) (c : TCtx) (transposed : Bool) (x : MxTile) : Res TileVals :=
  if isSymbol x.o.t.kind || x.o.t.layout != 3 || !transposed then valuesOf s c x.o.idx x.o.t
  else (backingEntry s c x.o.idx x.o.t).bind fun (i, r) => (peerOk s r).bind fun _ => colVals s c i r

/-- The values of an A operand that is read from a tile. -/
def operandVals? (s : State) (c : TCtx) (ta : Bool) (x : Option MxTile) : Res (Option TileVals) :=
  match x with
  | none => .ok none
  | some x => (operandValues s c ta x).map some

/-- Step 7 for an optional tile. -/
def readOf? (w : Who) (x : Option MxTile) (s : State) : Res State :=
  match x with
  | none => .ok s
  | some x => x.read w s

/-- The A operand of a tile, before its values are read. -/
def MxTile.asA (x : MxTile) (ta : Bool) (rs : List Nat) : HeldA := ⟨x.eff, ta, [], [], rs⟩

/-- The homes of the tiles that a matrix command names, with their row-scale tiles. -/
def operandHomes (s : State) (c : Cmd) : List (Fin 4) :=
  (cmdTiles c).flatMap (fun idx =>
    let home := fun (x : Nat) =>
      match entryKey s.job.tctx 0 x with
      | .ok k => s.tileHomes k
      | .error _ => []
    home idx ++ (s.rowScaleTile idx).toList.flatMap home)

/-- The thread of an MMA or MMAT (R237, R244, R246). It reads and decodes every operand, on the skip path too (R238; log
36). Within one step of R237 A comes first, each tile before its row-scale tile, then B, then C; every read is checked before any
block is decoded; and an error in a tile of row scales comes before step 6, which needs them (log 64). -/
def runMma (c : Cmd) (acc : AccId) (a cp : Pair) (tb ta hold ovr : Bool) (k : Option MxMask) (s : State) : Res State :=
  let w := (s.whoOf .mx c).reaching s (operandHomes s c)
  (optional a (fun _ => openOperand w c.capA (fun _ => true)) s).bind fun (xa, s) =>
    (openOperand w c.capB (fun _ => true) s).bind fun (xb, s) =>
      (optional cp (fun _ => openOperand w c.capC (fun t => isFloat t.fmt)) s).bind fun (xc, s) =>
        (tierOf? s w.ctx xa).bind fun _ => (tierOf? s w.ctx (some xb)).bind fun _ => (tierOf? s w.ctx xc).bind fun _ =>
          (scalesOf? s w.ctx xa).bind fun ra => (scalesOf? s w.ctx xc).bind fun rc =>
            match (match xa with | some x => some (x.asA ta ra) | none => s.job.heldA) with
            | none => .error (.post 4)
            | some ha =>
              match mmaFits acc tb ha xb.eff (xc.map (fun x => (x.eff, rc))) with
              | none => .error (.post 4)
              | some rl =>
                (readOf? w xa s).bind fun s => (readOf? w (some xb) s).bind fun s => (readOf? w xc s).bind fun s =>
                  (operandVals? s w.ctx ta xa).bind fun va => (operandValues s w.ctx tb xb).bind fun vb =>
                    (valsOf? s w.ctx xc).map fun vc =>
                      let ha := match va with | some v => { ha with vals := v.vals, mx := v.scales } | none => ha
                      let addend := match xc, vc with | some x, some v => some (addendOf x v rc) | _, _ => none
                      s.onJob (fun (j : Job) =>
                        let j := mmaOnAcc acc c.fpctl tb ovr k rl ha xb.eff vb addend c.accv j
                        { j with heldA := if a = 0 then j.heldA else if hold then some ha else none })

/-! ## MACC, MZERO, MMOV (R255, R256, R261) -/

/-- The step on the accumulator of a MACC (R255): a ZERO tile without ovr changes no element. -/
def maccOnAcc (acc : AccId) (ovr : Bool) (r : Reading) (t : Addend) (view : List VecReg) (j : Job) : Job :=
  let m := t.t.rows
  let n := t.t.cols
  let settled := t.t.kind == 1 || t.t.kind == 2
  let (rows, fl) := onRegion m n (fun i k x => Addend.step (some t) r i k (if ovr then 0 else x)) (j.accRows view acc)
  j.commitAcc acc (if t.t.kind = 1 ∧ ovr = false then 0 else m) rows
    ((isSym (j.accStatus acc) || (ovr && m == 128 && n == 128)) && settled && !t.t.rowsc) fl
    (if settled then ceilDiv m 32 * ceilDiv n 32 else 0)

/-- The thread of a MACC (R255). -/
def runMacc (c : Cmd) (acc : AccId) (ovr : Bool) (s : State) : Res State :=
  let w := (s.whoOf .mx c).reaching s (operandHomes s c)
  (openOperand w c.capC (fun t => isFloat t.fmt) s).bind fun (x, s) =>
    (tierOf? s w.ctx (some x)).bind fun _ => (x.rowScales s w.ctx).bind fun rs =>
      match tileReading x.eff.fmt with
      | none => .error (.post 4)
      | some r =>
        if (isAccv acc && decide (32 < x.eff.rows)) || !(r == .i32 || scalesOk x.eff rs x.eff.rows) then .error (.post 4)
        else
          (x.read w s).bind fun s => (valuesOf s w.ctx x.o.idx x.o.t).map fun v =>
            s.onJob (maccOnAcc acc ovr r (addendOf x v rs) c.accv)

/-- A status word with V, O, S and I cleared. -/
def clearFlags (w : Word) : Word := setBits w 32 4 0

/-- MZERO on the job (R256). -/
def mzeroOnAcc (acc : AccId) (j : Job) : Job :=
  let w := clearFlags (j.accStatus acc)
  (j.setAccRows acc 32 (List.replicate 128 (List.replicate 128 0))).setAccStatus acc
    (withSym w (if isAccv acc then none else some 0))

/-- The flags and SKIP of a status word, for an accumulator that is DENSE. -/
def denseStatus (w : Word) : Word := withSym w none

/-- A copy from `src` into `acc` (R261). -/
def mmovCopy (acc src : AccId) (view : List VecReg) (j : Job) : Job :=
  let rows := j.accRows view src
  let w := j.accStatus src
  if acc = src then j
  else if isAccv acc then (j.setAccRows acc 32 rows).setAccStatus acc (denseStatus w)
  else if isAccv src then (j.setAccRows acc 128 (rows ++ (j.accRows view acc).drop 32)).setAccStatus acc (denseStatus w)
  else (j.setAccRows acc 128 rows).setAccStatus acc w

/-- The exchange of two of ACC0 to ACC2 (R261). -/
def mmovSwap (acc src : AccId) (j : Job) : Job :=
  let (r, w) := (j.accRows [] acc, j.accStatus acc)
  ((mmovCopy acc src [] j).setAccRows src 128 r).setAccStatus src w

/-- The thread of an MMOV (R261): a swap that names ACCV posts SHAPE. -/
def runMmov (c : Cmd) (acc src : AccId) (swap : Bool) (s : State) : Res State :=
  if swap && (isAccv acc || isAccv src) then .error (.post 4)
  else .ok (s.onJob (if swap then mmovSwap acc src else mmovCopy acc src c.accv))

/-! ## MDRAIN (R257 to R259) -/

/-- 2^E as an FP32 pattern. -/
def pow2Bits (e : Int) : Nat := (e + 127).toNat * 2 ^ 23

/-- One element of a drain: the value x with the scale of its row (R258). -/
def drainElement (d : Tte) (ctx : RCtx) (x q : Val) : Nat × FFlags :=
  if isFloat d.fmt then finish d.fmt ctx (divVal x q) else finish d.fmt ctx (x, .invalid (isSig x))

/-- The scales of a drain, one FP32 pattern a row: the quantization scales, or none (R258). -/
def quantScales (q : QuantKind) (f : Fmt) (xs : List (List Val)) : List Nat :=
  match q with
  | .none => []
  | .tile => xs.map (fun _ => pow2Bits (quantExp (-126) f xs.flatten))
  | .row => xs.map (fun r => pow2Bits (quantExp (-126) f r))

/-- The values of the region that a drain takes (R258). -/
def drainRegion (int : Bool) (m n : Nat) (rows : List (List Nat)) : List (List Val) :=
  (rows.take m).map (fun r => (r.take n).map (decodeVal (if int then .i32 else .fp32)))

/-- The converted elements of a drain in row order, and their flags (R258). -/
def drainElements (c : Cmd) (mode : Option RMode) (idx : Nat) (d : Tte) (scale : Nat → Val) (xs : List (List Val)) :
    List Nat × FFlags :=
  let out := xs.zipIdx.flatMap (fun (r, i) => r.zipIdx.map (fun (x, j) =>
    drainElement d (rctx c.fpctl c.seed mode d.fmt (tilePos (idx % 2 ^ 40) i j)) x (scale i)))
  (out.map (·.1), out.foldl (fun a e => a.or e.2) .none)

/-- Step 6 of a drain (R258), with the row scales that it divides by where it does not quantize. -/
def drainFits (acc : AccId) (q : QuantKind) (d : Tte) (rs : List Nat) : Bool :=
  d.fmt != .e2m1 && !(isAccv acc && decide (32 < d.rows)) &&
    (match q with
     | .none =>
       !isFloat d.fmt || (scalesOk d rs d.rows && !eqVal (f32 d.tscale) (natVal 0) &&
         (!d.rowsc || (rs.take d.rows).all (fun b => !eqVal (f32 b) (natVal 0))))
     | .tile => (d.fmt == .e4m3 || d.fmt == .e5m2) && !d.rowsc
     | .row => (d.fmt == .e4m3 || d.fmt == .e5m2) && d.rowsc)

/-- Step 4 for the row-scale tile of a drain: written under qr, read where D.ROWSC scales a drain to a floating-point
format (R237, R258, R259). -/
def openDrainScales (w : Who) (cap : BitVec 128) (q : QuantKind) (d : Opened) (s : State) : Res (Option Opened × State) :=
  if !d.t.rowsc || !isFloat d.t.fmt || q == .tile then .ok (none, s)
  else
    match sameTable (isLtt d.idx) d.t.rsidx with
    | none => .error (tileAbsent 0 d.idx)
    | some x =>
      if q = .row then (openWrite s w.ctx cap x).map fun (k, t) => (some ⟨x, k, t⟩, s)
      else (openVersion w cap x s).map fun (o, s) => (some o, s)

/-- SCRATCH or CLUSTER (R240). -/
def drainTier (t : Tte) : Bool := t.tier == 0 || t.tier == 1

/-- The effect of a drain on D: a symbol where the accumulator is SYM and the converted elements are one pattern, else a
whole-tile write (R259). -/
def drainInto (c : TCtx) (d : Opened) (sym : Bool) (tscale : Option Nat) (vals : List Nat) (s : State) : Res State :=
  let s := match tscale with | some q => s.setTte d.k ((s.tte d.k).put 3 32 32 q) | none => s
  let p := vals.getD 0 0
  if sym && vals.all (· == p) then makeSymbol c d.idx d.k (if p = 0 then ⟨1, 0, 0, 0⟩ else ⟨2, p, 0, 0⟩) s
  else wholeWrite c d.idx d.k ⟨vals, []⟩ none s

/-- The row-scale tile under qr receives elements (0, 0) to (0, M − 1) (R259). -/
def drainScales (c : TCtx) (o : Opened) (qs : List Nat) (s : State) : Res State :=
  partialWrite c o.idx o.k (List.range qs.length) false (fun v => ⟨qs ++ v.vals.drop qs.length, v.scales⟩) s

/-- The row scales of a drain that quantizes by row are written (R259). -/
def drainRowsOut (c : TCtx) (q : QuantKind) (rs : Option Opened) (qs : List Nat) (s : State) : Res State :=
  match rs with
  | some o => if q = .row then drainScales c o qs s else .ok s
  | none => .ok s

/-- The accesses of a drain: the row-scale tile, then D (R237 step 7, R259). -/
def drainAccess (w : Who) (q : QuantKind) (d : Opened) (rs : Option Opened) (s : State) : Res State :=
  match rs with
  | none => writeTile w d.k s
  | some o =>
    if q = .row then (writeTile w o.k s).bind (writeTile w d.k)
    else (readTile w o.k o.t s).bind fun (_, s) => writeTile w d.k s

/-- The row scales that a drain without quantization divides by. -/
def drainRowScales (s : State) (c : TCtx) (q : QuantKind) (rs : Option Opened) : Res (List Nat) :=
  match rs with
  | some o => if q = .row then .ok [] else (valuesOf s c o.idx o.t).map (·.vals)
  | none => .ok []

/-- The thread of an MDRAIN (R257 to R259). -/
def runMdrain (c : Cmd) (acc : AccId) (mode : Option RMode) (q : QuantKind) (int : Bool) (s : State) : Res State :=
  let w := s.whoOf .mx c
  (openDst s w c.capA (0, 0)).bind fun d =>
    (openDrainScales w c.capA q d s).bind fun (rs, s) =>
      if !drainTier d.t || rs.any (fun o => !drainTier o.t) then .error operandTier
      else
        (drainRowScales s w.ctx q rs).bind fun rv =>
          if !drainFits acc q d.t rv then .error (.post 4)
          else
            (drainAccess w q d rs s).bind fun s =>
              let xs := drainRegion int d.t.rows d.t.cols (s.job.accRows c.accv acc)
              let qs := quantScales q d.t.fmt xs
              let scale := fun i => if q = .none then scaleAt d.t rv i else f32 (qs.getD i 0)
              let (vals, fl) := drainElements c mode d.idx d.t scale xs
              let tscale := match q with | .none => none | .tile => some (qs.getD 0 0) | .row => some 0x3F80_0000
              let sym := isSym (s.job.accStatus acc) && !isAccv acc
              (drainRowsOut w.ctx q rs qs s).bind fun s =>
                (drainInto w.ctx d sym tscale vals s).map fun s =>
                  s.onJob (fun j => j.setAccStatus acc (statusRaise (j.accStatus acc) fl))

/-! ## Issue (R236, R237 steps 1 to 3) -/

/-- Issue a matrix command. -/
def matrixCommand (i : Instr) (w : Wheel) (n : Nat) (a b c : Pair) (cc : Cc) (uint : Bool) (check : State → Res Unit)
    (s : State) : Out :=
  issue w n onlyM (pairUse a ||| pairUse b ||| pairUse c) (fun s =>
    (check s).bind fun _ => accept .mx { s.command n i cc uint a b c 0 0 with accv := s.job.accvView } s) s

/-- Checks 1 to 4 for tile (0, 0) of an optional pair. -/
def needOperand (s : State) (p : Pair) (perms : Nat) : Res Unit :=
  if p = 0 then .ok () else needTile s p perms anyClass (0, 0)

/-- Checks 1 to 4 for the operands of an MMA or MMAT. -/
def needOperands (a b c : Pair) (s : State) : Res Unit :=
  (needOperand s a prd).bind fun _ => (needOperand s b prd).bind fun _ => needOperand s c prd

/-- MMA (R245). -/
def execMma (w : Wheel) (acc : AccId) (a b c : Pair) (cc : Cc) (uint tb ta hold ovr : Bool) (s : State) : Out :=
  matrixCommand (.mma w acc a b c cc uint tb ta hold ovr) w 1 a b c cc uint (needOperands a b c) s

/-- MMAT (R254). -/
def execMmat (w : Wheel) (acc : AccId) (a b c : Pair) (cc : Cc) (uint tb ta hold ovr : Bool) (mask : MaskKind)
    (lower : Bool) (diag : BitVec 16) (s : State) : Out :=
  matrixCommand (.mmat w acc a b c cc uint tb ta hold ovr mask lower diag) w 2 a b c cc uint (needOperands a b c) s

/-- MACC (R255). -/
def execMacc (w : Wheel) (acc : AccId) (c : Pair) (cc : Cc) (uint ovr : Bool) (s : State) : Out :=
  matrixCommand (.macc w acc c cc uint ovr) w 1 0 0 c cc uint (fun s => needOperand s c prd) s

/-- MZERO (R256). -/
def execMzero (w : Wheel) (acc : AccId) (cc : Cc) (uint : Bool) (s : State) : Out :=
  matrixCommand (.mzero w acc cc uint) w 1 0 0 0 cc uint (fun _ => .ok ()) s

/-- MDRAIN (R257): the destination pair is captured as pair a. -/
def execMdrain (w : Wheel) (acc : AccId) (d : Pair) (cc : Cc) (uint : Bool) (mode : Option RMode) (q : QuantKind)
    (int : Bool) (s : State) : Out :=
  matrixCommand (.mdrain w acc d cc uint mode q int) w 1 d 0 0 cc uint (fun s => needOperand s d pwr) s

/-- MMOV (R261). -/
def execMmov (w : Wheel) (acc src : AccId) (cc : Cc) (uint swap : Bool) (s : State) : Out :=
  matrixCommand (.mmov w acc src cc uint swap) w 1 0 0 0 cc uint (fun _ => .ok ()) s

/-- The status word after MSTAT's op (R260). -/
def mstatAfter (w : Word) (clrs clrf : Bool) : Word :=
  let w := if clrf then clearFlags w else w
  if clrs then setBits w 40 24 0 else w

/-- MSTAT (R260): it issues once every matrix command accepted before it has completed. -/
def execMstat (w : Wheel) (acc : AccId) (d : SReg) (clrs clrf : Bool) (s : State) : Out :=
  issue w 1 onlyM (regBit d) (fun s =>
    if s.job.mxQ.isEmpty then
      .ok ((s.setReg d (s.job.accStatus acc)).onJob (fun j =>
        j.setAccStatus acc (mstatAfter (j.accStatus acc) clrs clrf)))
    else .error (.stall .mstat)) s

/-! ## Completion (R238) -/

/-- What the thread of a matrix command does. -/
def runMatrix (c : Cmd) (s : State) : Res State :=
  match c.instr with
  | .mma _ acc a _ cp _ _ tb ta hold ovr => runMma c acc a cp tb ta hold ovr none s
  | .mmat _ acc a _ cp _ _ tb ta hold ovr mask lower diag =>
    runMma c acc a cp tb ta hold ovr (some ⟨mask, lower, diag.toInt⟩) s
  | .macc _ acc _ _ _ ovr => runMacc c acc ovr s
  | .mzero _ acc _ _ => .ok (s.onJob (mzeroOnAcc acc))
  | .mdrain _ acc _ _ _ mode q int => runMdrain c acc mode q int s
  | .mmov _ acc src _ _ swap => runMmov c acc src swap s
  | _ => .ok s

/-- Whether a command reads an operand through the Press decoders: the version that it reads is a stored pressed tile, or a
REPEAT of one (R86, R240, R343, R354). -/
def pressedOperand (c : Cmd) (s : State) : Bool :=
  let w := (s.whoOf .mx c).reaching s (operandHomes s c)
  (cmdReads c).any (fun idx =>
    match (entryKey w.ctx 0 idx).bind (fun k => versionFor w k (s.tte k) s) with
    | .ok (t, s) =>
      match backingEntry s w.ctx idx t with
      | .ok (_, r) => r.kind == 0 && r.press
      | .error _ => false
    | .error _ => false)

/-- PRESSSTALL counts the cycles in which a command waited for the Press decoders (R88): a number that the manual leaves to
timing (log 11). -/
def countStalls (pressed : Bool) (s : State) : State :=
  if pressed then s.draw.2.onJob (fun j => { j with pressstall := j.pressstall + Config.stallCycles s.draw.1 }) else s

/-- MATRIX_COMMAND_COMPLETION: the command at the head of the queue completes, since accumulator effects follow acceptance
order; a parked head holds up every later command (R238). Commands that post to different counters are not ordered as to the
tiles that they share (R207): that each is performed whole before the next one is DESIGN CHOICE (log 76). Its reads make their
pass in this step (R329). -/
def execMatrixCommandCompletion (s : State) : Out :=
  match s.job.mxQ with
  | [] => .next s
  | c :: _ =>
    if c.parked then .next s
    else if c.cut && peerCmd s c then finishThread s.job.uid .mx c s (.error (.post 3))
    else
      let s := s.endHolds c.id
      let stalls := countStalls (pressedOperand c s)
      match runMatrix c s with
      | .error (.post 3) => finishThread s.job.uid .mx c (stalls s) (.error (.post 3))
      | r => finishThread s.job.uid .mx c s (r.map fun t => (0, stalls t))

end Sys2Proof.Machine
end

