-- ==== Sys2Proof/Machine/Sillum.lean ====
section
/-!
DEFINITION. Machine/Sillum.lean: what the Sillum controller does: boot, throttling and the shutdown of a die
(spec/21_outside.md R397, R399; spec/01_device.md R10 to R13; notes/assumptions 33).
-/
namespace Sys2Proof.Machine

/-! ## Boot (R397) -/

/-- The bits of SHORTCL set among the six clusters of a die. -/
def shortOn (x : BitVec 24) (die : Nat) : Nat := ((List.range 6).filter (fun i => x.getLsbD (6 * die + i))).length

/-- The harvesting rule (R10, R13): none short on a GZ960-192; two clusters of each die on a GZ960-184. -/
def BootRecord.harvestOk (r : BootRecord) : Bool :=
  if r.variant184 then (List.range 4).all (fun d => shortOn r.shortCl d == 2) else r.shortCl == 0

/-- The descriptor (R12). -/
def BootRecord.descriptor (r : BootRecord) : Vector Word 4 :=
  let cores := if r.variant184 then 184 else 192
  let variant := if r.variant184 then 0xB8 else 0xC0
  #v[word (0x0960 * 2 ^ 48 + variant * 2 ^ 40 + 4 * 2 ^ 32 + 24 * 2 ^ 24 + cores * 2 ^ 16 + 48 * 2 ^ 8 + 4),
    word (1024 * 2 ^ 48 + 2048 * 2 ^ 32 + r.shortCl.toNat),
    word (1300 * 2 ^ 32 + 64 * 2 ^ 16 + r.fwVer.toNat),
    0]

/-- A die as the firmware releases it: its fault ring (R364) and its clock at the epoch (R335, R336). -/
def Die.release (d : Die) (ring : Option (Nat × Nat)) (epoch : Word) : Die :=
  let d := { d with earliest := epoch, latest := epoch, base := (epoch, epoch, epoch) }
  match ring with
  | some (sz, loc) => if sz ≤ 10 then { d with fqSz := BitVec.ofNat 4 sz, fqLoc := BitVec.ofNat 40 loc } else d
  | none => d

/-- The package after a boot that succeeds. -/
def State.bootWith (s : State) (r : BootRecord) : State :=
  { s with
    desc := BootRecord.descriptor r
    torus := (r.torusX, r.torusY, r.torusZ)
    coords := (r.atX, r.atY, r.atZ)
    now := r.epochNs
    booted := true
    dies := Vector.ofFn (fun i : Fin 4 => s.dies[i].release r.rings[i.val]? r.epochNs) }

/-- The extents of the torus that a configuration record can name, 1 to 16 in each direction (R18), and a place in it. -/
def BootRecord.torusOk (r : BootRecord) : Bool :=
  [(r.torusX, r.atX), (r.torusY, r.atY), (r.torusZ, r.atZ)].all (fun x => decide (1 ≤ x.1 ∧ x.1 ≤ 16 ∧ x.2 < x.1))

/-- BOOT: any failure stops it, and the descriptor reads zero. A package boots once; after a boot that stopped, another BOOT
may follow (log 33). -/
def execBoot (r : BootRecord) (s : State) : Out :=
  if s.booted then .next s
  else if r.verified && BootRecord.harvestOk r && BootRecord.torusOk r then .next (s.bootWith r)
  else .next { s with desc := Vector.replicate 4 0 }

/-! ## Power and temperature (R399) -/

/-- THROTTLE: the arithmetic clock changes, and no value with it. -/
def execThrottle (mhz : Nat) (s : State) : Out := .next { s with mhz := mhz }

/-- The jobs on a die. -/
def State.jobsOn (s : State) (d : Fin 4) : List Nat :=
  ((s.onCores.filter (fun j => j.uid != 0 && s.dieOf j.core == d)).map (·.uid))

/-- THERMAL_SHUTDOWN: the die is stopped, and every job on it ends with MACHINE_ERROR. -/
def execThermalShutdown (die : BitVec 2) (s : State) : Out :=
  let d := die.toFin
  .next ((s.jobsOn d).foldl (fun s uid => takeJobTrap uid 0x12 s) (s.onDie d (fun x => { x with stopped := true })))

end Sys2Proof.Machine
end

