-- ==== Sys2Proof/Machine/Dispatch.lean ====
section
/-!
DEFINITION. Machine/Dispatch.lean: the meaning of each instruction and step of spec/opcode_table.json, one arm for each.
-/
namespace Sys2Proof.Machine

/-- What an instruction does. -/
def exec (i : Instr) (s : State) : Host.Outcome State Fault Refusal :=
  match i with
  | .add w d a b => Sys2Proof.Machine.execAdd w d a b s
  | .sub w d a b => Sys2Proof.Machine.execSub w d a b s
  | .mul w d a b => Sys2Proof.Machine.execMul w d a b s
  | .mulh w d a b => Sys2Proof.Machine.execMulh w d a b s
  | .mulhn w d a b => Sys2Proof.Machine.execMulhn w d a b s
  | .div w d a b => Sys2Proof.Machine.execDiv w d a b s
  | .divn w d a b => Sys2Proof.Machine.execDivn w d a b s
  | .rem w d a b => Sys2Proof.Machine.execRem w d a b s
  | .remn w d a b => Sys2Proof.Machine.execRemn w d a b s
  | .and w d a b => Sys2Proof.Machine.execAnd w d a b s
  | .or w d a b => Sys2Proof.Machine.execOr w d a b s
  | .xor w d a b => Sys2Proof.Machine.execXor w d a b s
  | .shl w d a b => Sys2Proof.Machine.execShl w d a b s
  | .shr w d a b => Sys2Proof.Machine.execShr w d a b s
  | .sra w d a b => Sys2Proof.Machine.execSra w d a b s
  | .slt w d a b => Sys2Proof.Machine.execSlt w d a b s
  | .sltn w d a b => Sys2Proof.Machine.execSltn w d a b s
  | .min w d a b => Sys2Proof.Machine.execMin w d a b s
  | .max w d a b => Sys2Proof.Machine.execMax w d a b s
  | .minn w d a b => Sys2Proof.Machine.execMinn w d a b s
  | .maxn w d a b => Sys2Proof.Machine.execMaxn w d a b s
  | .clz w d a => Sys2Proof.Machine.execClz w d a s
  | .popc w d a => Sys2Proof.Machine.execPopc w d a s
  | .addi w d a imm => Sys2Proof.Machine.execAddi w d a imm s
  | .andi w d a imm => Sys2Proof.Machine.execAndi w d a imm s
  | .ori w d a imm => Sys2Proof.Machine.execOri w d a imm s
  | .xori w d a imm => Sys2Proof.Machine.execXori w d a imm s
  | .shli w d a imm => Sys2Proof.Machine.execShli w d a imm s
  | .shri w d a imm => Sys2Proof.Machine.execShri w d a imm s
  | .srai w d a imm => Sys2Proof.Machine.execSrai w d a imm s
  | .slti w d a imm => Sys2Proof.Machine.execSlti w d a imm s
  | .sltni w d a imm => Sys2Proof.Machine.execSltni w d a imm s
  | .lui w d imm => Sys2Proof.Machine.execLui w d imm s
  | .li64 w d imm => Sys2Proof.Machine.execLi64 w d imm s
  | .beq w a b off => Sys2Proof.Machine.execBeq w a b off s
  | .bne w a b off => Sys2Proof.Machine.execBne w a b off s
  | .blt w a b off => Sys2Proof.Machine.execBlt w a b off s
  | .bge w a b off => Sys2Proof.Machine.execBge w a b off s
  | .bltn w a b off => Sys2Proof.Machine.execBltn w a b off s
  | .bgen w a b off => Sys2Proof.Machine.execBgen w a b off s
  | .jmp w off => Sys2Proof.Machine.execJmp w off s
  | .jal w off => Sys2Proof.Machine.execJal w off s
  | .spush w q a => Sys2Proof.Machine.execSpush w q a s
  | .spop w d q => Sys2Proof.Machine.execSpop w d q s
  | .qcnt w d q => Sys2Proof.Machine.execQcnt w d q s
  | .sspill w r slot => Sys2Proof.Machine.execSspill w r slot s
  | .sfill w d slot => Sys2Proof.Machine.execSfill w d slot s
  | .bqz w q off => Sys2Proof.Machine.execBqz w q off s
  | .bqnz w q off => Sys2Proof.Machine.execBqnz w q off s
  | .vpush w v q k => Sys2Proof.Machine.execVpush w v q k s
  | .vpop w v q k => Sys2Proof.Machine.execVpop w v q k s
  | .vspill w v slot => Sys2Proof.Machine.execVspill w v slot s
  | .vfill w v slot => Sys2Proof.Machine.execVfill w v slot s
  | .nop w => Sys2Proof.Machine.execNop w s
  | .safe w id => Sys2Proof.Machine.execSafe w id s
  | .halt w => Sys2Proof.Machine.execHalt w s
  | .rdv w => Sys2Proof.Machine.execRdv w s
  | .mark w eng scope => Sys2Proof.Machine.execMark w eng scope s
  | .join w => Sys2Proof.Machine.execJoin w s
  | .bar w scope => Sys2Proof.Machine.execBar w scope s
  | .waitc w d cc => Sys2Proof.Machine.execWaitc w d cc s
  | .disc w cc => Sys2Proof.Machine.execDisc w cc s
  | .trap w d a => Sys2Proof.Machine.execTrap w d a s
  | .uret w => Sys2Proof.Machine.execUret w s
  | .csrr w d csr => Sys2Proof.Machine.execCsrr w d csr s
  | .csrw w a csr => Sys2Proof.Machine.execCsrw w a csr s
  | .fqack w d a endJob => Sys2Proof.Machine.execFqack w d a endJob s
  | .sret w d a r => Sys2Proof.Machine.execSret w d a r s
  | .launch w cc a => Sys2Proof.Machine.execLaunch w cc a s
  | .loop w a off => Sys2Proof.Machine.execLoop w a off s
  | .endl w off => Sys2Proof.Machine.execEndl w off s
  | .jr w a => Sys2Proof.Machine.execJr w a s
  | .ldb w d a off => Sys2Proof.Machine.execLdb w d a off s
  | .ldbn w d a off => Sys2Proof.Machine.execLdbn w d a off s
  | .ldh w d a off => Sys2Proof.Machine.execLdh w d a off s
  | .ldhn w d a off => Sys2Proof.Machine.execLdhn w d a off s
  | .ldw w d a off => Sys2Proof.Machine.execLdw w d a off s
  | .ldwn w d a off => Sys2Proof.Machine.execLdwn w d a off s
  | .ldd w d a off => Sys2Proof.Machine.execLdd w d a off s
  | .stb w r a off => Sys2Proof.Machine.execStb w r a off s
  | .sth w r a off => Sys2Proof.Machine.execSth w r a off s
  | .stw w r a off => Sys2Proof.Machine.execStw w r a off s
  | .std w r a off => Sys2Proof.Machine.execStd w r a off s
  | .amoadd w o d a b => Sys2Proof.Machine.execAmoadd w o d a b s
  | .amoand w o d a b => Sys2Proof.Machine.execAmoand w o d a b s
  | .amoor w o d a b => Sys2Proof.Machine.execAmoor w o d a b s
  | .amoxor w o d a b => Sys2Proof.Machine.execAmoxor w o d a b s
  | .amomin w o d a b => Sys2Proof.Machine.execAmomin w o d a b s
  | .amomax w o d a b => Sys2Proof.Machine.execAmomax w o d a b s
  | .amominn w o d a b => Sys2Proof.Machine.execAmominn w o d a b s
  | .amomaxn w o d a b => Sys2Proof.Machine.execAmomaxn w o d a b s
  | .amoxchg w o d a b => Sys2Proof.Machine.execAmoxchg w o d a b s
  | .amocas w o d a b => Sys2Proof.Machine.execAmocas w o d a b s
  | .amoincb w o d a b => Sys2Proof.Machine.execAmoincb w o d a b s
  | .amofadd w o d a b => Sys2Proof.Machine.execAmofadd w o d a b s
  | .obopen w cc a b id => Sys2Proof.Machine.execObopen w cc a b id s
  | .obclose w cc a b => Sys2Proof.Machine.execObclose w cc a b s
  | .tld w a b r cc uint => Sys2Proof.Machine.execTld w a b r cc uint s
  | .tldas w a b r cc uint scope => Sys2Proof.Machine.execTldas w a b r cc uint scope s
  | .tpref w a r cc uint => Sys2Proof.Machine.execTpref w a r cc uint s
  | .tgath w a b r cc uint => Sys2Proof.Machine.execTgath w a b r cc uint s
  | .tst w a b r cc uint => Sys2Proof.Machine.execTst w a b r cc uint s
  | .tstash w a b r cc uint => Sys2Proof.Machine.execTstash w a b r cc uint s
  | .tscat w a b r cc uint => Sys2Proof.Machine.execTscat w a b r cc uint s
  | .tredst w a b r cc uint => Sys2Proof.Machine.execTredst w a b r cc uint s
  | .tcommit w a b r cc uint scope => Sys2Proof.Machine.execTcommit w a b r cc uint scope s
  | .tcopy w a b r cc uint => Sys2Proof.Machine.execTcopy w a b r cc uint s
  | .tfill w a r cc uint kind => Sys2Proof.Machine.execTfill w a r cc uint kind s
  | .tdedup w a b r cc uint => Sys2Proof.Machine.execTdedup w a b r cc uint s
  | .tpromo w a r cc uint => Sys2Proof.Machine.execTpromo w a r cc uint s
  | .talias w a b r cc uint => Sys2Proof.Machine.execTalias w a b r cc uint s
  | .tinfo w a r word => Sys2Proof.Machine.execTinfo w a r word s
  | .cnarrow w d a b => Sys2Proof.Machine.execCnarrow w d a b s
  | .cperm w d a b => Sys2Proof.Machine.execCperm w d a b s
  | .cget w d a sel => Sys2Proof.Machine.execCget w d a sel s
  | .ctag w d a => Sys2Proof.Machine.execCtag w d a s
  | .mma w acc a b c cc uint tb ta hold ovr => Sys2Proof.Machine.execMma w acc a b c cc uint tb ta hold ovr s
  | .macc w acc c cc uint ovr => Sys2Proof.Machine.execMacc w acc c cc uint ovr s
  | .mzero w acc cc uint => Sys2Proof.Machine.execMzero w acc cc uint s
  | .mdrain w acc d cc uint mode q int => Sys2Proof.Machine.execMdrain w acc d cc uint mode q int s
  | .mstat w acc d clrs clrf => Sys2Proof.Machine.execMstat w acc d clrs clrf s
  | .mmov w acc src cc uint swap => Sys2Proof.Machine.execMmov w acc src cc uint swap s
  | .mmat w acc a b c cc uint tb ta hold ovr mask lower diag => Sys2Proof.Machine.execMmat w acc a b c cc uint tb ta hold ovr mask lower diag s
  | .vadd w d a b k => Sys2Proof.Machine.execVadd w d a b k s
  | .vsub w d a b k => Sys2Proof.Machine.execVsub w d a b k s
  | .vmul w d a b k => Sys2Proof.Machine.execVmul w d a b k s
  | .vfma w d a b k => Sys2Proof.Machine.execVfma w d a b k s
  | .vfms w d a b k => Sys2Proof.Machine.execVfms w d a b k s
  | .vfnma w d a b k => Sys2Proof.Machine.execVfnma w d a b k s
  | .vmin w d a b k => Sys2Proof.Machine.execVmin w d a b k s
  | .vmax w d a b k => Sys2Proof.Machine.execVmax w d a b k s
  | .vabs w d a k => Sys2Proof.Machine.execVabs w d a k s
  | .vneg w d a k => Sys2Proof.Machine.execVneg w d a k s
  | .vdiv w d a b k => Sys2Proof.Machine.execVdiv w d a b k s
  | .vsqrt w d a k => Sys2Proof.Machine.execVsqrt w d a k s
  | .vrsq w d a k => Sys2Proof.Machine.execVrsq w d a k s
  | .vrcp w d a k => Sys2Proof.Machine.execVrcp w d a k s
  | .vexp2 w d a k => Sys2Proof.Machine.execVexp2 w d a k s
  | .vlog2 w d a k => Sys2Proof.Machine.execVlog2 w d a k s
  | .vtanh w d a k => Sys2Proof.Machine.execVtanh w d a k s
  | .vsigm w d a k => Sys2Proof.Machine.execVsigm w d a k s
  | .vceq w d a b k => Sys2Proof.Machine.execVceq w d a b k s
  | .vcne w d a b k => Sys2Proof.Machine.execVcne w d a b k s
  | .vclt w d a b k => Sys2Proof.Machine.execVclt w d a b k s
  | .vcle w d a b k => Sys2Proof.Machine.execVcle w d a b k s
  | .vcun w d a b k => Sys2Proof.Machine.execVcun w d a b k s
  | .viadd w d a b k => Sys2Proof.Machine.execViadd w d a b k s
  | .visub w d a b k => Sys2Proof.Machine.execVisub w d a b k s
  | .vimul w d a b k => Sys2Proof.Machine.execVimul w d a b k s
  | .vand w d a b k => Sys2Proof.Machine.execVand w d a b k s
  | .vor w d a b k => Sys2Proof.Machine.execVor w d a b k s
  | .vxor w d a b k => Sys2Proof.Machine.execVxor w d a b k s
  | .vshl w d a b k => Sys2Proof.Machine.execVshl w d a b k s
  | .vshr w d a b k => Sys2Proof.Machine.execVshr w d a b k s
  | .vsra w d a b k => Sys2Proof.Machine.execVsra w d a b k s
  | .vimin w d a b k => Sys2Proof.Machine.execVimin w d a b k s
  | .vimax w d a b k => Sys2Proof.Machine.execVimax w d a b k s
  | .vrsum w a r k => Sys2Proof.Machine.execVrsum w a r k s
  | .vrmax w a r k => Sys2Proof.Machine.execVrmax w a r k s
  | .vrmin w a r k => Sys2Proof.Machine.execVrmin w a r k s
  | .vrargmx w a r k => Sys2Proof.Machine.execVrargmx w a r k s
  | .kand w d a b k => Sys2Proof.Machine.execKand w d a b k s
  | .kor w d a b k => Sys2Proof.Machine.execKor w d a b k s
  | .kxor w d a b k => Sys2Proof.Machine.execKxor w d a b k s
  | .knot w d a k => Sys2Proof.Machine.execKnot w d a k s
  | .kpop w a r k => Sys2Proof.Machine.execKpop w a r k s
  | .kfirst w a r k => Sys2Proof.Machine.execKfirst w a r k s
  | .kset w d r k => Sys2Proof.Machine.execKset w d r k s
  | .vcvt w d a r k => Sys2Proof.Machine.execVcvt w d a r k s
  | .vquant w d a r k => Sys2Proof.Machine.execVquant w d a r k s
  | .vdeq w d a r k => Sys2Proof.Machine.execVdeq w d a r k s
  | .vcfg w et rm => Sys2Proof.Machine.execVcfg w et rm s
  | .vcomp w d a k => Sys2Proof.Machine.execVcomp w d a k s
  | .vexpd w d a k => Sys2Proof.Machine.execVexpd w d a k s
  | .vperm w d a b k => Sys2Proof.Machine.execVperm w d a b k s
  | .vslide w d a r k => Sys2Proof.Machine.execVslide w d a r k s
  | .vbcast w d r k => Sys2Proof.Machine.execVbcast w d r k s
  | .viota w d r k => Sys2Proof.Machine.execViota w d r k s
  | .vsel w d a b k => Sys2Proof.Machine.execVsel w d a b k s
  | .vmov w d a k => Sys2Proof.Machine.execVmov w d a k s
  | .vext w a r => Sys2Proof.Machine.execVext w a r s
  | .vins w d a r k => Sys2Proof.Machine.execVins w d a r k s
  | .vld w v a imm k tile queue => Sys2Proof.Machine.execVld w v a imm k tile queue s
  | .vldg w v a vi k queue => Sys2Proof.Machine.execVldg w v a vi k queue s
  | .vst w v a imm k tile queue => Sys2Proof.Machine.execVst w v a imm k tile queue s
  | .vsts w v a vi k queue => Sys2Proof.Machine.execVsts w v a vi k queue s
  | .qrn w d a r k => Sys2Proof.Machine.execQrn w d a r k s
  | .qcfg w set => Sys2Proof.Machine.execQcfg w set s
  | .qldt w a dim => Sys2Proof.Machine.execQldt w a dim s
  | .vtok w d a r k => Sys2Proof.Machine.execVtok w d a r k s
  | .pvset w a => Sys2Proof.Machine.execPvset w a s
  | .tokbnd w => Sys2Proof.Machine.execTokbnd w s
  | .publ w cc a v scope => Sys2Proof.Machine.execPubl w cc a v scope s
  | .clkr w d => Sys2Proof.Machine.execClkr w d s
  | .cwait w => Sys2Proof.Machine.execCwait w s
  | .qselWrite v => Sys2Proof.Machine.execQselWrite v s
  | .rcfgWrite v => Sys2Proof.Machine.execRcfgWrite v s
  | .fqheadWrite v => Sys2Proof.Machine.execFqheadWrite v s
  | .submit v => Sys2Proof.Machine.execSubmit v s
  | .tapselWrite v => Sys2Proof.Machine.execTapselWrite v s
  | .inval v => Sys2Proof.Machine.execInval v s
  | .invalComplete => Sys2Proof.Machine.execInvalComplete s
  | .mgmtRegisterWrite acc v => Sys2Proof.Machine.execMgmtRegisterWrite acc v s
  | .ownerNew => Sys2Proof.Machine.execOwnerNew s
  | .ownerDel => Sys2Proof.Machine.execOwnerDel s
  | .setRoot => Sys2Proof.Machine.execSetRoot s
  | .setTtb => Sys2Proof.Machine.execSetTtb s
  | .keyLoad => Sys2Proof.Machine.execKeyLoad s
  | .keyUse => Sys2Proof.Machine.execKeyUse s
  | .keyRetire => Sys2Proof.Machine.execKeyRetire s
  | .exportWin => Sys2Proof.Machine.execExportWin s
  | .revoke => Sys2Proof.Machine.execRevoke s
  | .importWin => Sys2Proof.Machine.execImportWin s
  | .unimport => Sys2Proof.Machine.execUnimport s
  | .sigPolicy => Sys2Proof.Machine.execSigPolicy s
  | .errRead => Sys2Proof.Machine.execErrRead s
  | .quote => Sys2Proof.Machine.execQuote s
  | .mailboxResult => Sys2Proof.Machine.execMailboxResult s
  | .hostRawAccess write tier pa bytes => Sys2Proof.Machine.execHostRawAccess write tier pa bytes s
  | .tileApertureRead off len => Sys2Proof.Machine.execTileApertureRead off len s
  | .tileApertureWrite off bytes => Sys2Proof.Machine.execTileApertureWrite off bytes s
  | .outsideAgentRead port owner index => Sys2Proof.Machine.execOutsideAgentRead port owner index s
  | .peerRequest owner window op => Sys2Proof.Machine.execPeerRequest owner window op s
  | .dispatch => Sys2Proof.Machine.execDispatch s
  | .probeAck launch => Sys2Proof.Machine.execProbeAck launch s
  | .probeTimeout launch => Sys2Proof.Machine.execProbeTimeout launch s
  | .gangStart launch => Sys2Proof.Machine.execGangStart launch s
  | .grantRelease note => Sys2Proof.Machine.execGrantRelease note s
  | .launchAgeing launch => Sys2Proof.Machine.execLaunchAgeing launch s
  | .preemptSave => Sys2Proof.Machine.execPreemptSave s
  | .safeHoldRelease => Sys2Proof.Machine.execSafeHoldRelease s
  | .resume uid => Sys2Proof.Machine.execResume uid s
  | .faultEntryWrite die => Sys2Proof.Machine.execFaultEntryWrite die s
  | .faultResume seq => Sys2Proof.Machine.execFaultResume seq s
  | .wheelStall => Sys2Proof.Machine.execWheelStall s
  | .uintDelivery => Sys2Proof.Machine.execUintDelivery s
  | .machineError => Sys2Proof.Machine.execMachineError s
  | .copyEngineCompletion n => Sys2Proof.Machine.execCopyEngineCompletion n s
  | .matrixCommandCompletion => Sys2Proof.Machine.execMatrixCommandCompletion s
  | .orderedRequestArrival n => Sys2Proof.Machine.execOrderedRequestArrival n s
  | .aonWriteHold n => Sys2Proof.Machine.execAonWriteHold n s
  | .queueSlotFill q slot => Sys2Proof.Machine.execQueueSlotFill q slot s
  | .barrierComplete arrivals => Sys2Proof.Machine.execBarrierComplete arrivals s
  | .markerHead n => Sys2Proof.Machine.execMarkerHead n s
  | .beacon die now earliest latest => Sys2Proof.Machine.execBeacon die now earliest latest s
  | .floorReport die package known => Sys2Proof.Machine.execFloorReport die package known s
  | .versionCurrent entry => Sys2Proof.Machine.execVersionCurrent entry s
  | .flitReceived port rec => Sys2Proof.Machine.execFlitReceived port rec s
  | .linkDown loss => Sys2Proof.Machine.execLinkDown loss s
  | .linkTraining port pressCap symCap => Sys2Proof.Machine.execLinkTraining port pressCap symCap s
  | .tagFlit port owner ksel tag => Sys2Proof.Machine.execTagFlit port owner ksel tag s
  | .transferRevoked n => Sys2Proof.Machine.execTransferRevoked n s
  | .throttle mhz => Sys2Proof.Machine.execThrottle mhz s
  | .thermalShutdown die => Sys2Proof.Machine.execThermalShutdown die s
  | .boot rec => Sys2Proof.Machine.execBoot rec s
  | .dieReset die => Sys2Proof.Machine.execDieReset die s
  | .clockWide => Sys2Proof.Machine.execClockWide s
  | .knownFloorPassesStamp die now => Sys2Proof.Machine.execKnownFloorPassesStamp die now s

end Sys2Proof.Machine
end

