-- ==== Sys2Proof/Machine/Turn.lean ====
section
/-!
DEFINITION. Machine/Turn.lean: what one turn does, and the turn that is taken where the agenda gives none
(spec/06_streams_and_words.md R119 and R124; notes/assumptions 3).
-/
namespace Sys2Proof.Machine

/-- Fetch, decode and run the next instruction of the stream in focus; a fetch that traps is the instruction's trap, and one that
is dropped is counted and made again at the stream's next turn (R394; log 42). -/
def runNext (s : State) : Out :=
  match fetch s with
  | .ok (i, s) => exec i s
  | .error (.trap t) => .next (takeTrap t s)
  | .error (.fault f) => .fault f
  | .error (.post _) => .next s.dropped
  | .error (.stall _) => .next s

/-- The stream in focus issues its next instruction (R119): owed signals first, also of a stream that has halted, then an
interrupt, then the instruction. -/
def issueTurn (s : State) : Out :=
  if !s.canIssue then .next (if s.st.phase = .halted then s.flush else s)
  else
    let s := s.flush
    if s.owes then .next (s.block .token)
    else if s.job.wantsInterrupt s.cur then .next (s.interrupt s.cur)
    else runNext s

/-- One turn of the agenda. -/
def runTurn (t : Turn) (s : State) : Out :=
  match t.what with
  | .issue x => issueTurn { s.focus t.core with cur := x }
  | .event i => exec i (s.focus t.core)
  | .entry m => .next ((s.focus t.core).moveEntry m)

/-! ## The turn where the agenda gives none (log 3) -/

/-- The core that comes next: the lowest one above the core in focus that holds a job, or the lowest of all. -/
def State.nextCore (s : State) : Nat :=
  let cs := (s.onCores.filter (·.uid != 0)).map (·.core)
  (((cs.filter (fun c => decide (s.job.core < c))).min?) <|> cs.min?).getD s.job.core

/-- The record that a package boots from where the agenda gives none: a GZ960-192 alone in its torus (log 33). -/
def defaultBoot : BootRecord := ⟨false, 0, 1, 1, 1, 1, 0, 0, 0, 0, [], true⟩

/-- The controller carries out the mailbox command in progress, or writes its result. -/
def mailboxStep (s : State) : Out :=
  if s.host.mbResult.isSome then execMailboxResult s
  else
    match bits (s.mb 0) 0 16 with
    | 0x01 => execOwnerNew s | 0x02 => execOwnerDel s | 0x03 => execSetRoot s | 0x04 => execSetTtb s
    | 0x10 => execKeyLoad s | 0x11 => execKeyUse s | 0x12 => execKeyRetire s | 0x20 => execExportWin s
    | 0x21 => execRevoke s | 0x22 => execImportWin s | 0x23 => execUnimport s | 0x30 => execSigPolicy s
    | 0x31 => execErrRead s | 0x40 => execQuote s | _ => execMailboxResult s

/-- The launch that a condition picks first; 0 is no launch. -/
def State.firstLaunch (s : State) (p : Launch → Bool) : Nat := ((s.launches.find? p).map (·.id)).getD 0

/-- The fault of a die that resumes next; an arbitrary SEQ of the die where there is none. -/
def State.resumeSeq (s : State) (die : BitVec 2) : BitVec 32 :=
  ((nextResumable s.parked die).map (·.seq)).getD (die ++ (0 : BitVec 30))

/-- The scope of a number. -/
def scopeOf (n : Nat) : Scope :=
  match n % 4 with
  | 0 => .cluster | 1 => .die | 2 => .pkg | _ => .grant

/-- The event of a slot in round n of the default order. -/
def slotEvent (slot n : Nat) (s : State) : Out :=
  let die := BitVec.ofNat 2 n
  match slot with
  | 0 => execCopyEngineCompletion (n % 64) s
  | 1 => execMatrixCommandCompletion s
  | 2 => execOrderedRequestArrival (n % 64) s
  | 3 => execBarrierComplete ⟨scopeOf n, false⟩ s
  | 4 => execMarkerHead (n % 64) s
  | 5 => execQueueSlotFill (BitVec.ofNat 3 n) (n / 8 % 16) s
  | 6 => execFaultEntryWrite die s
  | 7 => execFaultResume (s.resumeSeq die) s
  | 8 => execDispatch s
  | 9 => execGangStart (s.firstLaunch Launch.hasLoaded) s
  | 10 => execGrantRelease ⟨s.firstLaunch (fun l => l.hasLoaded && l.state == .loading), .loaded⟩ s
  | 11 => execPreemptSave s
  | 12 => execSafeHoldRelease s
  | 13 => mailboxStep s
  | 14 => execInvalComplete s
  | 15 => execBeacon die (s.now + 100) (s.now + 100) ⟨s.now + 110, 0, []⟩ s
  | 16 => execKnownFloorPassesStamp die s.now s
  | _ => execVersionCurrent (((s.tileVers.find? (·.state == .pending)).map (·.entry)).getD 0) s

/-- The slots of a round: the four streams and the events. -/
def roundSlots : Nat := 22

/-- Stream x of a core issues. -/
def issueOn (core : Nat) (x : StreamId) (s : State) : Out := issueTurn { s.focus core with cur := x }

/-- The turn where the agenda gives none: boot first, after a boot that stopped too (log 33); then in each round the streams
A, M, V and E of the next core and the events of `slotEvent` for it. -/
def defaultTurn (s : State) : Out :=
  let n := s.turns / roundSlots
  let slot := s.turns % roundSlots
  let s := { s with turns := s.turns + 1, bad := [] }
  if !s.booted then execBoot defaultBoot s
  else
    match slot with
    | 0 => issueOn s.nextCore .A s
    | 1 => issueOn s.job.core .M s
    | 2 => issueOn s.job.core .V s
    | 3 => issueOn s.job.core .E s
    | k => slotEvent (k - 4) n s

end Sys2Proof.Machine
end

