-- ==== Sys2Proof/Machine/Step.lean ====
section
/-!
DEFINITION. Machine/Step.lean: one step of the package: the next turn is taken, and what it names moves
(notes/assumptions 3); and placing an instruction where the next step fetches it (notes/assumptions 14).
-/
namespace Sys2Proof.Machine

/-- One step: the first turn of the agenda, or the turn that is taken where it gives none. -/
def step (s : State) : Host.Outcome State Fault Refusal :=
  match s.agenda with
  | t :: rest => runTurn t { s with agenda := rest, bad := t.bad }
  | [] => defaultTurn s

/-- The state with an instruction where the machine fetches its next one. -/
def State.withFetchWord (s : State) (nbits w : Nat) : State :=
  placeCode s (((decodeTableWord nbits w).map Instr.home).getD .A) (leBytes 8 (w % 2 ^ nbits))

end Sys2Proof.Machine
end

