-- ==== Sys2Proof/Safety.lean ====
section
/-!
DEFINITION. Safety.lean: the words that the statements use: when an instruction acts at once, the state in which it acts, the
state that it leaves, and what is left when the parts of a state that every instruction may move are set aside
(spec/06_streams_and_words.md R120 to R125, spec/09_memory_and_engines.md R216).
-/
namespace Sys2Proof.Machine

/-! ## Acting -/

/-- The focus is on a job that has not halted: one that has only holds its core (R94). -/
abbrev State.hasJob (s : State) : Prop := s.job.uid ≠ 0 ∧ s.job.phase ≠ .halted

/-- The stream in focus holds what an instruction waits for: no pending register among those it uses (R216), and a token for
each of its waits (R123). -/
def State.canStart (s : State) (w : Wheel) (uses : BitVec 16) : Bool :=
  s.st.pendMask &&& uses == 0 && (!w.wp || s.job.tokens[wpOf s.cur] != 0) && (!w.ws || s.job.tokens[wsOf s.cur] != 0)

/-- A job with one token taken for each wait of a stream's instruction (R123). -/
def Job.afterWaits (j : Job) (x : StreamId) (w : Wheel) : Job :=
  let j := if w.wp then j.take x (wpOf x) else j
  if w.ws then j.take x (wsOf x) else j

/-- The state in which an instruction of n words acts: its tokens are taken and the pc stands at the next instruction. -/
def State.started (s : State) (w : Wheel) (n : Nat) : State := (s.setJob (s.job.afterWaits s.cur w)).advance n

/-- The outcome of an instruction of n words whose effect is `f`: the effect on the state in which it acts, and then its
signals (R121, R124). -/
def State.does (s : State) (w : Wheel) (n : Nat) (f : State → State) : Out :=
  .next ((f (s.started w n)).complete s.job.uid w)

/-- The outcome of an instruction whose effect, in the state in which it acted, has given `t`. -/
def State.ends (s : State) (w : Wheel) (t : State) : Out := .next (t.complete s.job.uid w)

/-- The outcome of an instruction that traps: the trap is taken in the state before it, tokens included (R125). -/
def State.traps (s : State) (e : Stop) : Out :=
  match e with
  | .trap t => .next (takeTrap t s)
  | _ => .next s

/-! ## Setting aside what every instruction may move -/

/-- A stream without its pc, what it waits on, its retries and the signals that it owes. -/
def Stream.shade (t : Stream) : Stream :=
  { t with pc := 0, blocked := none, attempt := 0, laterAttempt := 0, oweP := false, oweS := false }

/-- A job without its tokens, the commits that go with them (R347) and what the streams' shades leave out. -/
def Job.shade (j : Job) : Job :=
  { j with a := j.a.shade, m := j.m.shade, v := j.v.shade, e := j.e.shade, tokens := Vector.replicate 8 0, flow := Flow.reset }

/-- A state without what every instruction may move: pc, tokens, the commits that go with them, waits and signals of the job
in focus. -/
def State.shade (s : State) : State := s.setJob s.job.shade

/-- What is left when scalar register d of the stream in focus, and the tag of its pair, are set aside too. -/
def State.exceptReg (s : State) (d : SReg) : State := (s.setReg d 0).shade

/-- A job without one vector register: its contents, whether its slot is live, and the counts of dead accesses
(R136). -/
def Job.exceptVreg (j : Job) (v : VReg) : Job :=
  { j with
    vregs := j.vregs.set (j.physical v) 0
    slotLive := match j.distance v with
      | some d => putBit j.slotLive ((d + j.rbase.toNat) % j.rot) false
      | none => j.slotLive
    deadrd := 0 }

/-- What is left when vector register v, the liveness of its slot and the counts of dead accesses are set aside too. -/
def State.exceptVreg (s : State) (v : VReg) : State := (s.onJob (·.exceptVreg v)).shade

/-- What is left when predicate register k is set aside too. -/
def State.exceptPred (s : State) (k : KReg) : State := (s.setPred k 0).shade

/-- What is left when the FPCTL of the stream in focus is set aside too. -/
def State.exceptFpctl (s : State) : State := (s.onSt (fun t => { t with fpctl := 0 })).shade

/-! ## Memory as statements name it -/

/-- The number in n bytes of memory from a key on, the lowest byte first (R1). -/
def leAt (m : List Host.Cell) (k n : Nat) : Nat :=
  ((List.range n).map (fun i => (memByte m (k + i)).toNat * 256 ^ i)).sum

/-- A TLB holds the translation of an address of the job in focus for an access that is no retry, and the place that it gives
has n bytes (R199, R200). -/
def State.sees (s : State) (va n : Nat) (access : BitVec 2) (p : Phys) : Prop :=
  s.st.attempt = 0 ∧ p.pa + n ≤ tierSize p.tier ∧
    ∃ e, tlbHit s s.job.owner va = some e ∧ pteTier e.pte = some p.tier ∧ leafAllows e.pte access = true ∧
      p.pa = pteFrame e.pte + va % 2 ^ e.bits ∧ p.room = 2 ^ e.bits - va % 2 ^ e.bits

/-- The key of a physical place. -/
def Phys.key (p : Phys) : Nat := cellKey p.tier p.pa

/-- What is left when memory is set aside as well. -/
def State.exceptMem (s : State) : State := { s.shade with mem := [] }

/-- What is left when memory and a scalar register are set aside. -/
def State.exceptMemReg (s : State) (d : SReg) : State := { s.exceptReg d with mem := [] }

/-! ## Lanes as statements name them -/

/-- The union of the flags of the lanes below n that are active (R270, R271). -/
def laneFlags (act : Nat → Bool) (n : Nat) (f : Nat → FFlags) : FFlags :=
  (List.range n).foldl (fun a m => if act m then a.or (f m) else a) .none

/-- The element types of floating-point and of integer lane arithmetic (R264, R269). -/
def floatTypes : List Fmt := [.fp32, .bf16, .f16, .e4m3, .e5m2]
/-- The integer types. -/
def intTypes : List Fmt := [.i8, .i16, .i32, .n8, .n16, .n32]

/-- A lane as an integer (R25). -/
def laneInt (f : Fmt) (x : Nat) : Int :=
  if f = .i8 ∨ f = .i16 ∨ f = .i32 then (BitVec.ofNat (fmtWidth f) x).toInt else x

/-! ## Commands as statements name them -/

/-- Steps 1 to 4 of R70 pass: the pair is tagged, its owner is the job's, the tile lies in its rectangle, and the permissions
and the class are there. -/
def State.mayUse (s : State) (p : Pair) (perms : Nat) (cls : Nat → Bool) (ab : Nat × Nat) : Prop :=
  s.st.tag p = true ∧ Cap.owner (s.st.cap p) = s.job.owner ∧ ab.1 < Cap.rowt (s.st.cap p) ∧ ab.2 < Cap.colt (s.st.cap p) ∧
    Cap.perms (s.st.cap p) &&& perms = perms ∧ cls (Cap.tclass (s.st.cap p)) = true

/-- The code of the first of the checks 1 to 4 of R70 that fails. -/
def State.capFailure (s : State) (p : Pair) (perms : Nat) (cls : Nat → Bool) (ab : Nat × Nat) : Option (BitVec 8) :=
  if s.st.tag p = false then some 0x04
  else if Cap.owner (s.st.cap p) ≠ s.job.owner then some 0x06
  else if ¬ (ab.1 < Cap.rowt (s.st.cap p) ∧ ab.2 < Cap.colt (s.st.cap p)) then some 0x05
  else if Cap.perms (s.st.cap p) &&& perms = perms ∧ cls (Cap.tclass (s.st.cap p)) = true then none
  else some 0x06

/-- An entry that a thread reads or writes without waiting, a trap or a race: stored, neither AON nor versioned, and without
access records (R310, R329, R341). -/
def State.plainEntry (s : State) (k : Nat) (t : Tte) : Prop :=
  t.kind = 0 ∧ t.aon = false ∧ t.versioned = false ∧ (∀ r : RecSlot, t.record r / 2 ^ 18 = 0x3FFF) ∧ ∀ g ∈ s.recs, g.entry ≠ k

/-- What a command holds that the stream in focus issues from s (R121, R31, R219). -/
def Cmd.capturedBy (c : Cmd) (s : State) (i : Instr) (cc : Cc) (uint : Bool) : Prop :=
  c.id = s.nextCmd ∧ c.instr = i ∧ c.stream = s.cur ∧ c.pc = s.st.pc ∧ c.cc = cc ∧ c.uint = uint ∧ c.fpctl = s.st.fpctl ∧
    c.seed = s.job.seed ∧ c.cur = s.job.pvrCur ∧ c.parked = false ∧ c.attempt = 0

/-- A counter word after one posting of a status (R204, R205, R206). -/
def postedWord (x : Word) (st : Nat) : Word :=
  let err := if 3 ≤ st ∧ st ≤ 8 then 1 else 0
  BitVec.ofNat 64 (st % 2 ^ 16 * 2 ^ 48 + min 65535 (x.toNat / 2 ^ 32 % 2 ^ 16 + err) * 2 ^ 32 + (x.toNat % 2 ^ 32 + 1) % 2 ^ 32)

/-- What the posting of a command leaves in its job: the command is out of its queue, its counter word has taken the posting, an
error is counted in ERRCNT, UINT requests the interrupt of the issuing stream, and the party's epoch rises (R205, R208, R306). -/
def Job.tookPosting (j k : Job) (e : Engine) (c : Cmd) (st : Nat) : Prop :=
  k.cmds e = (j.cmds e).filter (·.id != c.id) ∧ k.cc = j.cc.set c.cc.toNat (postedWord (j.cc[c.cc.toNat]'c.cc.isLt) st) c.cc.isLt ∧
    k.errcnt = j.errcnt + (if 3 ≤ st ∧ st ≤ 8 then 1 else 0) ∧
    (∀ n : Nat, (k.stream c.stream).upend.getLsbD n =
      ((j.stream c.stream).upend.getLsbD n || (c.uint && decide (n = c.cc.toNat)))) ∧
    k.posts (threadSub e c.cc) = j.posts (threadSub e c.cc) + 1

/-- The state in which a command stands at the end of its queue and its party has forked (R208, R305). -/
def State.accepts (s : State) (e : Engine) (c : Cmd) : State :=
  { s with nextCmd := s.nextCmd + 1 }.onJob (fun j => (j.setCmds e (j.cmds e ++ [c])).fork (threadSub e c.cc))

end Sys2Proof.Machine

namespace Sys2Proof

/-! ## The table of R144 -/

/-- The Wheel bits of an encoded instruction (R141); a step without an encoding has none. -/
def Instr.wheel? : Instr → Option Wheel
  | .add w .. | .sub w .. | .mul w .. | .mulh w .. | .mulhn w .. | .div w .. | .divn w .. | .rem w .. | .remn w ..
  | .and w .. | .or w .. | .xor w .. | .shl w .. | .shr w .. | .sra w .. | .slt w .. | .sltn w .. | .min w ..
  | .max w .. | .minn w .. | .maxn w .. | .clz w .. | .popc w .. | .addi w .. | .andi w .. | .ori w .. | .xori w ..
  | .shli w .. | .shri w .. | .srai w .. | .slti w .. | .sltni w .. | .lui w .. | .li64 w .. | .beq w .. | .bne w ..
  | .blt w .. | .bge w .. | .bltn w .. | .bgen w .. | .jmp w .. | .jal w .. | .spush w .. | .spop w .. | .qcnt w ..
  | .sspill w .. | .sfill w .. | .bqz w .. | .bqnz w .. | .vpush w .. | .vpop w .. | .vspill w .. | .vfill w ..
  | .nop w | .safe w .. | .halt w | .rdv w | .mark w .. | .join w | .bar w .. | .waitc w .. | .disc w .. | .trap w ..
  | .uret w | .csrr w .. | .csrw w .. | .fqack w .. | .sret w .. | .launch w .. | .loop w .. | .endl w .. | .jr w ..
  | .ldb w .. | .ldbn w .. | .ldh w .. | .ldhn w .. | .ldw w .. | .ldwn w .. | .ldd w .. | .stb w .. | .sth w ..
  | .stw w .. | .std w .. | .amoadd w .. | .amoand w .. | .amoor w .. | .amoxor w .. | .amomin w .. | .amomax w ..
  | .amominn w .. | .amomaxn w .. | .amoxchg w .. | .amocas w .. | .amoincb w .. | .amofadd w .. | .obopen w ..
  | .obclose w .. | .tld w .. | .tldas w .. | .tpref w .. | .tgath w .. | .tst w .. | .tstash w .. | .tscat w ..
  | .tredst w .. | .tcommit w .. | .tcopy w .. | .tfill w .. | .tdedup w .. | .tpromo w .. | .talias w ..
  | .tinfo w .. | .cnarrow w .. | .cperm w .. | .cget w .. | .ctag w .. | .mma w .. | .macc w .. | .mzero w ..
  | .mdrain w .. | .mstat w .. | .mmov w .. | .mmat w .. | .vadd w .. | .vsub w .. | .vmul w .. | .vfma w ..
  | .vfms w .. | .vfnma w .. | .vmin w .. | .vmax w .. | .vabs w .. | .vneg w .. | .vdiv w .. | .vsqrt w ..
  | .vrsq w .. | .vrcp w .. | .vexp2 w .. | .vlog2 w .. | .vtanh w .. | .vsigm w .. | .vceq w .. | .vcne w ..
  | .vclt w .. | .vcle w .. | .vcun w .. | .viadd w .. | .visub w .. | .vimul w .. | .vand w .. | .vor w ..
  | .vxor w .. | .vshl w .. | .vshr w .. | .vsra w .. | .vimin w .. | .vimax w .. | .vrsum w .. | .vrmax w ..
  | .vrmin w .. | .vrargmx w .. | .kand w .. | .kor w .. | .kxor w .. | .knot w .. | .kpop w .. | .kfirst w ..
  | .kset w .. | .vcvt w .. | .vquant w .. | .vdeq w .. | .vcfg w .. | .vcomp w .. | .vexpd w .. | .vperm w ..
  | .vslide w .. | .vbcast w .. | .viota w .. | .vsel w .. | .vmov w .. | .vext w .. | .vins w .. | .vld w ..
  | .vldg w .. | .vst w .. | .vsts w .. | .qrn w .. | .qcfg w .. | .qldt w .. | .vtok w .. | .pvset w .. | .tokbnd w
  | .publ w .. | .clkr w .. | .cwait w => some w
  | _ => none

/-- Whether the map of R144 and R145 lets a stream issue the instruction; where it says "by binding", every stream may try. -/
def Instr.allowedIn (x : StreamId) : Instr → Bool
  | .launch .. | .ldb .. | .ldbn .. | .ldh .. | .ldhn .. | .ldw .. | .ldwn .. | .ldd .. | .stb ..
  | .sth .. | .stw .. | .std .. | .amoadd .. | .amoand .. | .amoor .. | .amoxor .. | .amomin ..
  | .amomax .. | .amominn .. | .amomaxn .. | .amoxchg .. | .amocas .. | .amoincb .. | .amofadd ..
  | .obopen .. | .obclose .. | .tld .. | .tldas .. | .tpref .. | .tgath .. | .tst .. | .tstash ..
  | .tscat .. | .tredst .. | .tcommit .. | .tcopy .. | .tfill .. | .tdedup .. | .tpromo ..
  | .talias .. | .tinfo .. => x == .A || x == .E
  | .mma .. | .macc .. | .mzero .. | .mdrain .. | .mstat .. | .mmov .. | .mmat .. => x == .M
  | .vpush .. | .vpop .. | .vspill .. | .vfill .. | .vadd .. | .vsub .. | .vmul .. | .vfma ..
  | .vfms .. | .vfnma .. | .vmin .. | .vmax .. | .vabs .. | .vneg .. | .vdiv .. | .vsqrt ..
  | .vrsq .. | .vrcp .. | .vexp2 .. | .vlog2 .. | .vtanh .. | .vsigm .. | .vceq .. | .vcne ..
  | .vclt .. | .vcle .. | .vcun .. | .viadd .. | .visub .. | .vimul .. | .vand .. | .vor ..
  | .vxor .. | .vshl .. | .vshr .. | .vsra .. | .vimin .. | .vimax .. | .vrsum .. | .vrmax ..
  | .vrmin .. | .vrargmx .. | .kand .. | .kor .. | .kxor .. | .knot .. | .kpop .. | .kfirst ..
  | .kset .. | .vcvt .. | .vquant .. | .vdeq .. | .vcfg .. | .vcomp .. | .vexpd .. | .vperm ..
  | .vslide .. | .vbcast .. | .viota .. | .vsel .. | .vmov .. | .vext .. | .vins .. | .vldg ..
  | .vsts .. | .qrn .. | .qcfg .. | .qldt .. | .vtok .. | .pvset .. | .tokbnd _ => x == .V
  | .vld .. => x == .A || x == .V
  | .vst .. => x == .V || x == .E
  | .publ .. => x == .E
  | _ => true

/-- The number of ACC0, ACC1 or ACC2; none for ACCV (R142). -/
def AccId.index? : AccId → Option (Fin 3)
  | .acc0 => some 0 | .acc1 => some 1 | .acc2 => some 2 | .accv => none

end Sys2Proof

namespace Sys2Proof.Machine

/-! ## Invariants -/

/-- Memory stands in its canonical form. -/
def State.memOk (s : State) : Prop := Memory.wf s.mem = true

/-- The numbers of the launches rise, and stand below the number of the next one. -/
def State.launchesOk (s : State) : Prop :=
  s.launches.Pairwise (fun a b => a.id < b.id) ∧ ∀ l ∈ s.launches, l.id < s.nextLaunch

end Sys2Proof.Machine
end

