-- ==== Sys2Proof/Laws/Encoding.lean ====
section
/-!
SUPPORT. Laws/Encoding.lean: the fields of a word that the encoder puts together, and the dispatch of the decoder by major
opcode (spec/06_streams_and_words.md R141, R142, R144).
-/
namespace Sys2Proof.Laws

open Sys2Proof.Enc

/-- A field above the lower part of an append. -/
theorem extract_high {n m : Nat} (x : BitVec n) (y : BitVec m) (lo len : Nat) (h : m ≤ lo) :
    (x ++ y).extractLsb' lo len = x.extractLsb' (lo - m) len := by
  apply BitVec.eq_of_getLsbD_eq
  intro i hi
  have h1 : ¬ lo + i < m := by omega
  have h2 : lo + i - m = lo - m + i := by omega
  simp [BitVec.getLsbD_append, hi, h1, h2]

/-- A field within the lower part of an append. -/
theorem extract_low {n m : Nat} (x : BitVec n) (y : BitVec m) (lo len : Nat) (h : lo + len ≤ m) :
    (x ++ y).extractLsb' lo len = y.extractLsb' lo len := by
  apply BitVec.eq_of_getLsbD_eq
  intro i hi
  have h1 : lo + i < m := by omega
  simp [BitVec.getLsbD_append, hi, h1]

/-- A field that is the whole. -/
theorem extract_all {n : Nat} (x : BitVec n) : x.extractLsb' 0 n = x := by
  apply BitVec.eq_of_getLsbD_eq
  intro i hi
  simp [hi]

/-- A field that spans both parts of an append is 0 where both parts of it are. -/
theorem zero_span {n m : Nat} (x : BitVec n) (y : BitVec m) (lo len : Nat) (h : lo < m ∧ m < lo + len) :
    ((x ++ y).extractLsb' lo len == 0) = (y.extractLsb' lo (m - lo) == 0 && x.extractLsb' 0 (lo + len - m) == 0) := by
  rw [Bool.eq_iff_iff]
  simp only [beq_iff_eq, Bool.and_eq_true]
  constructor
  · intro e
    constructor
    · apply BitVec.eq_of_getLsbD_eq
      intro i hi
      have g := congrArg (fun z => z.getLsbD i) e
      have h1 : lo + i < m := by omega
      have h2 : i < len := by omega
      simpa [BitVec.getLsbD_append, h1, h2, hi] using g
    · apply BitVec.eq_of_getLsbD_eq
      intro i hi
      have g := congrArg (fun z => z.getLsbD (m - lo + i)) e
      have h1 : ¬ lo + (m - lo + i) < m := by omega
      have h2 : m - lo + i < len := by omega
      have h3 : lo + (m - lo + i) - m = i := by omega
      simpa [BitVec.getLsbD_append, h1, h2, h3, hi] using g
  · rintro ⟨e, f⟩
    apply BitVec.eq_of_getLsbD_eq
    intro i hi
    by_cases h1 : lo + i < m
    · have g := congrArg (fun z => z.getLsbD i) e
      have h2 : i < m - lo := by omega
      simpa [BitVec.getLsbD_append, h1, h2, hi] using g
    · have g := congrArg (fun z => z.getLsbD (lo + i - m)) f
      have h2 : lo + i - m < lo + len - m := by omega
      simpa [BitVec.getLsbD_append, h1, h2, hi] using g

/-- A field of 0. -/
theorem extract_zero {n : Nat} (lo len : Nat) : (0 : BitVec n).extractLsb' lo len = 0 := by
  apply BitVec.eq_of_getLsbD_eq
  intro i hi
  simp

/-- The value of a widened field. -/
theorem extract_widened {m : Nat} (x : BitVec m) (n : Nat) (h : m ≤ n) : (x.setWidth n).extractLsb' 0 m = x := by
  apply BitVec.eq_of_getLsbD_eq
  intro i hi
  simp [hi, Nat.lt_of_lt_of_le hi h]

/-- A field above a widened field. -/
theorem extract_above {m : Nat} (x : BitVec m) (n lo len : Nat) (h : m ≤ lo) : (x.setWidth n).extractLsb' lo len = 0 := by
  apply BitVec.eq_of_getLsbD_eq
  intro i hi
  have h1 : x.getLsbD (lo + i) = false := BitVec.getLsbD_of_ge x _ (by omega)
  simp [h1]

/-- A scope in a wider field. -/
theorem scope_field6 (x : Scope) : (BitVec.ofNat 6 x.code).extractLsb' 0 3 = BitVec.ofNat 3 x.code := by cases x <;> rfl
theorem scope_above6 (x : Scope) : (BitVec.ofNat 6 x.code).extractLsb' 3 3 = 0 := by cases x <;> rfl
theorem scope_field10 (x : Scope) : (BitVec.ofNat 10 x.code).extractLsb' 0 3 = BitVec.ofNat 3 x.code := by cases x <;> rfl
theorem scope_above10 (x : Scope) : (BitVec.ofNat 10 x.code).extractLsb' 3 7 = 0 := by cases x <;> rfl

/-- A field of the body of a word. -/
theorem fld_body (w : Wheel) (m : BitVec 6) (b : BitVec 22) (lo len : Nat) (h : lo + len ≤ 22) :
    fld (mkWord w m b) lo len = b.extractLsb' lo len := by
  unfold fld mkWord
  rw [BitVec.extractLsb'_cast]
  exact extract_low _ _ _ _ h

/-- The major opcode of a word. -/
theorem fld_major (w : Wheel) (m : BitVec 6) (b : BitVec 22) : fld (mkWord w m b) 22 6 = m := by
  unfold fld mkWord
  rw [BitVec.extractLsb'_cast, extract_high _ _ _ _ (Nat.le_refl _), extract_low _ _ _ _ (by decide)]
  exact extract_all m

/-- A bit of the body of a word. -/
theorem bit_body (w : Wheel) (m : BitVec 6) (b : BitVec 22) (i : Nat) (h : i < 22) :
    (mkWord w m b).getLsbD i = b.getLsbD i := by
  unfold mkWord
  rw [BitVec.getLsbD_cast, BitVec.getLsbD_append]
  simp [h]

/-- The Wheel bits of a word. -/
theorem wheel_mk (w : Wheel) (m : BitVec 6) (b : BitVec 22) : wheelOf (mkWord w m b) = w := by
  unfold wheelOf mkWord
  simp only [BitVec.getLsbD_cast, BitVec.getLsbD_append]
  simp

/-- The second word of a long form: its Wheel nibble, long opcode, and the fields and bits of its payload. -/
theorem second_wheel (lop : BitVec 6) (p : BitVec 22) : fld (second lop p) 28 4 = 0 := by
  unfold fld second
  rw [extract_high _ _ _ _ (by decide)]
  exact (extract_high (0 : BitVec 4) lop 6 4 (Nat.le_refl _)).trans (extract_all _)
theorem second_lop (lop : BitVec 6) (p : BitVec 22) : fld (second lop p) 22 6 = lop := by
  unfold fld second
  rw [extract_high _ _ _ _ (Nat.le_refl _)]
  exact (extract_low (0 : BitVec 4) lop 0 6 (by decide)).trans (extract_all _)
theorem second_fld (lop : BitVec 6) (p : BitVec 22) (lo len : Nat) (h : lo + len ≤ 22) :
    fld (second lop p) lo len = p.extractLsb' lo len := extract_low _ _ _ _ h
theorem second_bit (lop : BitVec 6) (p : BitVec 22) (i : Nat) (h : i < 22) : (second lop p).getLsbD i = p.getLsbD i := by
  unfold second
  rw [BitVec.getLsbD_append]
  simp [h]

/-- The two parts of a 40-bit immediate. -/
theorem split40 (x : BitVec 40) : x.extractLsb' 18 22 ++ x.extractLsb' 0 18 = x := by
  apply BitVec.eq_of_getLsbD_eq
  intro i hi
  rw [BitVec.getLsbD_append, BitVec.getLsbD_extractLsb', BitVec.getLsbD_extractLsb']
  by_cases h : i < 18
  · simp [h]
  · have h1 : i - 18 < 22 := by omega
    have h2 : 18 + (i - 18) = i := by omega
    simp [h, h1, h2]

/-- A field that its own entry allows. -/
theorem needWf_ok {i : Instr} (h : i.wf = true) : needWf i = .ok i := by simp [needWf, need, h]

/-- Fields that hold a code give what the code stands for. -/
theorem scope_code (x : Scope) : scopeOfCode (BitVec.ofNat 3 x.code).toNat = some x := by cases x <;> rfl
theorem ord_code (x : AmoOrd) : ordOfCode x.code = x := by cases x <;> rfl
theorem acc_code (x : AccId) : accOfCode x.code = x := by cases x <;> rfl
theorem fill_code (x : FillKind) : fillOfCode x.code.toNat = some x := by cases x <;> rfl
theorem mask_code (x : MaskKind) : maskOfCode x.code = some x := by cases x <;> rfl
theorem quant_code (x : QuantKind) : quantOfCode x.code = some x := by cases x <;> rfl
theorem mode_code3 (x : Option RMode) : modeOfCode (BitVec.ofNat 3 (modeCode x)).toNat = some x := by
  rcases x with _ | x
  · rfl
  · cases x <;> rfl
theorem mode_code5 (x : Option RMode) : modeOfCode (BitVec.ofNat 5 (modeCode x)).toNat = some x := by
  rcases x with _ | x
  · rfl
  · cases x <;> rfl
theorem fmt_code5 (x : Fmt) : fmtOfCode (BitVec.ofNat 5 x.code).toNat = some x := by cases x <;> rfl
theorem queue_field (q : QNum) : queueOfField (q.setWidth 4) = some q := by revert q; decide
theorem pred_field (k : KReg) : predOfField (k.setWidth 5) = some k := by revert k; decide
theorem pair_field {p : Pair} (h : pairOk p = true) : pairOfField (p.setWidth 4) = some p := by revert p; decide

/-- The decoder of each major opcode. -/
theorem short_Alu (w : IWord) (h : fld w 22 6 = 0x01) : decodeShort w = decodeAlu w := by
  unfold decodeShort; rw [h]; rfl
theorem short_Queue (w : IWord) (h : fld w 22 6 = 0x18) : decodeShort w = decodeQueue w := by
  unfold decodeShort; rw [h]; rfl
theorem short_Spill (w : IWord) (h : fld w 22 6 = 0x19) : decodeShort w = decodeSpill w := by
  unfold decodeShort; rw [h]; rfl
theorem short_QueueBranch (w : IWord) (h : fld w 22 6 = 0x1A) : decodeShort w = decodeQueueBranch w := by
  unfold decodeShort; rw [h]; rfl
theorem short_VecQueue (w : IWord) (h : fld w 22 6 = 0x1B) : decodeShort w = decodeVecQueue w := by
  unfold decodeShort; rw [h]; rfl
theorem short_Sync (w : IWord) (h : fld w 22 6 = 0x1C) : decodeShort w = decodeSync w := by
  unfold decodeShort; rw [h]; rfl
theorem short_System (w : IWord) (h : fld w 22 6 = 0x1D) : decodeShort w = decodeSystem w := by
  unfold decodeShort; rw [h]; rfl
theorem short_Loop (w : IWord) (h : fld w 22 6 = 0x1E) : decodeShort w = decodeLoop w := by
  unfold decodeShort; rw [h]; rfl
theorem short_Load (w : IWord) (h : fld w 22 6 = 0x20) : decodeShort w = decodeLoad w := by
  unfold decodeShort; rw [h]; rfl
theorem short_Store (w : IWord) (h : fld w 22 6 = 0x21) : decodeShort w = decodeStore w := by
  unfold decodeShort; rw [h]; rfl
theorem short_Atomic (w : IWord) (h : fld w 22 6 = 0x22) : decodeShort w = decodeAtomic w := by
  unfold decodeShort; rw [h]; rfl
theorem short_TileLoad (w : IWord) (h : fld w 22 6 = 0x28) : decodeShort w = decodeTileLoad w := by
  unfold decodeShort; rw [h]; rfl
theorem short_TileStore (w : IWord) (h : fld w 22 6 = 0x29) : decodeShort w = decodeTileStore w := by
  unfold decodeShort; rw [h]; rfl
theorem short_TileCopy (w : IWord) (h : fld w 22 6 = 0x2A) : decodeShort w = decodeTileCopy w := by
  unfold decodeShort; rw [h]; rfl
theorem short_TileInfo (w : IWord) (h : fld w 22 6 = 0x2B) : decodeShort w = decodeTileInfo w := by
  unfold decodeShort; rw [h]; rfl
theorem short_Cap (w : IWord) (h : fld w 22 6 = 0x2C) : decodeShort w = decodeCap w := by
  unfold decodeShort; rw [h]; rfl
theorem short_Mma (w : IWord) (h : fld w 22 6 = 0x30) : decodeShort w = decodeMma w := by
  unfold decodeShort; rw [h]; rfl
theorem short_Macc (w : IWord) (h : fld w 22 6 = 0x31) : decodeShort w = decodeMacc w := by
  unfold decodeShort; rw [h]; rfl
theorem short_Mzero (w : IWord) (h : fld w 22 6 = 0x32) : decodeShort w = decodeMzero w := by
  unfold decodeShort; rw [h]; rfl
theorem short_Mdrain (w : IWord) (h : fld w 22 6 = 0x33) : decodeShort w = decodeMdrain w := by
  unfold decodeShort; rw [h]; rfl
theorem short_Mstat (w : IWord) (h : fld w 22 6 = 0x34) : decodeShort w = decodeMstat w := by
  unfold decodeShort; rw [h]; rfl
theorem short_Mmov (w : IWord) (h : fld w 22 6 = 0x35) : decodeShort w = decodeMmov w := by
  unfold decodeShort; rw [h]; rfl
theorem short_VecFloat (w : IWord) (h : fld w 22 6 = 0x38) : decodeShort w = decodeVecFloat w := by
  unfold decodeShort; rw [h]; rfl
theorem short_VecSpecial (w : IWord) (h : fld w 22 6 = 0x39) : decodeShort w = decodeVecSpecial w := by
  unfold decodeShort; rw [h]; rfl
theorem short_VecInt (w : IWord) (h : fld w 22 6 = 0x3A) : decodeShort w = decodeVecInt w := by
  unfold decodeShort; rw [h]; rfl
theorem short_VecPred (w : IWord) (h : fld w 22 6 = 0x3B) : decodeShort w = decodeVecPred w := by
  unfold decodeShort; rw [h]; rfl
theorem short_VecPerm (w : IWord) (h : fld w 22 6 = 0x3C) : decodeShort w = decodeVecPerm w := by
  unfold decodeShort; rw [h]; rfl
theorem short_VecMem (w : IWord) (h : fld w 22 6 = 0x3D) : decodeShort w = decodeVecMem w := by
  unfold decodeShort; rw [h]; rfl
theorem short_Misc (w : IWord) (h : fld w 22 6 = 0x3E) : decodeShort w = decodeMisc w := by
  unfold decodeShort; rw [h]; rfl
theorem short_addi (w : IWord) (h : fld w 22 6 = 0x02) :
    decodeShort w = .ok (.addi (wheelOf w) (fld w 18 4) (fld w 14 4) (fld w 0 14)) := by
  unfold decodeShort; rw [h]; rfl
theorem short_andi (w : IWord) (h : fld w 22 6 = 0x03) :
    decodeShort w = .ok (.andi (wheelOf w) (fld w 18 4) (fld w 14 4) (fld w 0 14)) := by
  unfold decodeShort; rw [h]; rfl
theorem short_ori (w : IWord) (h : fld w 22 6 = 0x04) :
    decodeShort w = .ok (.ori (wheelOf w) (fld w 18 4) (fld w 14 4) (fld w 0 14)) := by
  unfold decodeShort; rw [h]; rfl
theorem short_xori (w : IWord) (h : fld w 22 6 = 0x05) :
    decodeShort w = .ok (.xori (wheelOf w) (fld w 18 4) (fld w 14 4) (fld w 0 14)) := by
  unfold decodeShort; rw [h]; rfl
theorem short_shli (w : IWord) (h : fld w 22 6 = 0x06) :
    decodeShort w = needZero w 6 8 (.ok (.shli (wheelOf w) (fld w 18 4) (fld w 14 4) (fld w 0 6))) := by
  unfold decodeShort; rw [h]; rfl
theorem short_shri (w : IWord) (h : fld w 22 6 = 0x07) :
    decodeShort w = needZero w 6 8 (.ok (.shri (wheelOf w) (fld w 18 4) (fld w 14 4) (fld w 0 6))) := by
  unfold decodeShort; rw [h]; rfl
theorem short_srai (w : IWord) (h : fld w 22 6 = 0x08) :
    decodeShort w = needZero w 6 8 (.ok (.srai (wheelOf w) (fld w 18 4) (fld w 14 4) (fld w 0 6))) := by
  unfold decodeShort; rw [h]; rfl
theorem short_slti (w : IWord) (h : fld w 22 6 = 0x09) :
    decodeShort w = .ok (.slti (wheelOf w) (fld w 18 4) (fld w 14 4) (fld w 0 14)) := by
  unfold decodeShort; rw [h]; rfl
theorem short_sltni (w : IWord) (h : fld w 22 6 = 0x0A) :
    decodeShort w = .ok (.sltni (wheelOf w) (fld w 18 4) (fld w 14 4) (fld w 0 14)) := by
  unfold decodeShort; rw [h]; rfl
theorem short_lui (w : IWord) (h : fld w 22 6 = 0x0B) :
    decodeShort w = .ok (.lui (wheelOf w) (fld w 18 4) (fld w 0 18)) := by
  unfold decodeShort; rw [h]; rfl
theorem short_beq (w : IWord) (h : fld w 22 6 = 0x10) :
    decodeShort w = .ok (.beq (wheelOf w) (fld w 18 4) (fld w 14 4) (fld w 0 14)) := by
  unfold decodeShort; rw [h]; rfl
theorem short_bne (w : IWord) (h : fld w 22 6 = 0x11) :
    decodeShort w = .ok (.bne (wheelOf w) (fld w 18 4) (fld w 14 4) (fld w 0 14)) := by
  unfold decodeShort; rw [h]; rfl
theorem short_blt (w : IWord) (h : fld w 22 6 = 0x12) :
    decodeShort w = .ok (.blt (wheelOf w) (fld w 18 4) (fld w 14 4) (fld w 0 14)) := by
  unfold decodeShort; rw [h]; rfl
theorem short_bge (w : IWord) (h : fld w 22 6 = 0x13) :
    decodeShort w = .ok (.bge (wheelOf w) (fld w 18 4) (fld w 14 4) (fld w 0 14)) := by
  unfold decodeShort; rw [h]; rfl
theorem short_bltn (w : IWord) (h : fld w 22 6 = 0x14) :
    decodeShort w = .ok (.bltn (wheelOf w) (fld w 18 4) (fld w 14 4) (fld w 0 14)) := by
  unfold decodeShort; rw [h]; rfl
theorem short_bgen (w : IWord) (h : fld w 22 6 = 0x15) :
    decodeShort w = .ok (.bgen (wheelOf w) (fld w 18 4) (fld w 14 4) (fld w 0 14)) := by
  unfold decodeShort; rw [h]; rfl
theorem short_jmp (w : IWord) (h : fld w 22 6 = 0x16) :
    decodeShort w = .ok (.jmp (wheelOf w) (fld w 0 22)) := by
  unfold decodeShort; rw [h]; rfl
theorem short_jal (w : IWord) (h : fld w 22 6 = 0x17) :
    decodeShort w = .ok (.jal (wheelOf w) (fld w 0 22)) := by
  unfold decodeShort; rw [h]; rfl
theorem short_obclose (w : IWord) (h : fld w 22 6 = 0x23) :
    decodeShort w = needZero w 0 10 (.ok (.obclose (wheelOf w) (fld w 18 4) (fld w 14 4) (fld w 10 4))) := by
  unfold decodeShort; rw [h]; rfl

/-! The bits of an appended word, and the flags of MMAT (R245). -/
theorem append_bit_low {n m : Nat} (x : BitVec n) (y : BitVec m) (i : Nat) (h : i < m) :
    (x ++ y).getLsbD i = y.getLsbD i := by
  rw [BitVec.getLsbD_append]
  simp [h]
theorem append_bit_high {n m : Nat} (x : BitVec n) (y : BitVec m) (i : Nat) (h : ¬ i < m) :
    (x ++ y).getLsbD i = x.getLsbD (i - m) := by
  rw [BitVec.getLsbD_append]
  simp [h]
theorem mmaFlags_span (u tb ta hold ovr : Bool) : (mmaFlags u tb ta hold ovr).extractLsb' 4 2 = 0 := by
  cases u <;> cases tb <;> cases ta <;> cases hold <;> cases ovr <;> rfl
theorem mmaFlags_bits (u tb ta hold ovr : Bool) : (mmaFlags u tb ta hold ovr).getLsbD 6 = u ∧
    (mmaFlags u tb ta hold ovr).getLsbD 3 = tb ∧ (mmaFlags u tb ta hold ovr).getLsbD 2 = ta ∧
    (mmaFlags u tb ta hold ovr).getLsbD 1 = hold ∧ (mmaFlags u tb ta hold ovr).getLsbD 0 = ovr := by
  cases u <;> cases tb <;> cases ta <;> cases hold <;> cases ovr <;> refine ⟨rfl, rfl, rfl, rfl, rfl⟩
theorem ofBool_bit (b : Bool) : (BitVec.ofBool b).getLsbD 0 = b := by cases b <;> rfl

end Sys2Proof.Laws
end

