-- ==== Sys2Proof/Laws/PerInstr.lean ====
section
/-!
SUPPORT. Laws/PerInstr.lean: what is said of each constructor: RoundTrip, that the words of a well-formed instruction decode
to it (spec/06_streams_and_words.md R141 to R145).
-/
namespace Sys2Proof.Laws.RoundTrip

open Sys2Proof.Enc

/-- The words that the encoder gives for a well-formed instruction decode to it, and the first says how many there are. -/
def Statement (i : Instr) : Prop :=
  i.wf = true → ∀ w w2, encode i = some (w, w2) → isLong w = w2.isSome ∧ decodeWords w (w2.getD 0) = .ok i

end Sys2Proof.Laws.RoundTrip

namespace Sys2Proof.Laws

/-- A step that has no encoding. -/
theorem noWords {i : Instr} (h : encode i = none) : RoundTrip.Statement i := by
  intro _ w w2 he
  rw [h] at he
  cases he

/-- An instruction of one word. -/
theorem oneWord {i : Instr} {w : Wheel} {m : BitVec 6} {b : BitVec 22} (h : encode i = some (Enc.mkWord w m b, none))
    (hm : (m == 0x3F) = false) (hd : i.wf = true → decodeShort (Enc.mkWord w m b) = .ok i) : RoundTrip.Statement i := by
  intro hw x x2 he
  rw [h] at he
  cases he
  have hl : isLong (Enc.mkWord w m b) = false := by rw [isLong, fld_major, hm]
  exact ⟨hl, by rw [decodeWords, hl]; exact hd hw⟩

/-- An instruction of two words. -/
theorem twoWords {i : Instr} {w : Wheel} {b : BitVec 22} {x2 : IWord} (h : encode i = some (Enc.mkWord w 0x3F b, some x2))
    (hd : i.wf = true → decodeLong (Enc.mkWord w 0x3F b) x2 = .ok i) : RoundTrip.Statement i := by
  intro hw y y2 he
  rw [h] at he
  cases he
  have hl : isLong (Enc.mkWord w 0x3F b) = true := by rw [isLong, fld_major]; rfl
  exact ⟨hl, by rw [decodeWords, hl]; exact hd hw⟩

end Sys2Proof.Laws

namespace Sys2Proof.Laws.RoundTrip

open Sys2Proof.Enc

theorem add (w : Wheel) (d : SReg) (a : SReg) (b : SReg) : Statement (.add w d a b) := by
  refine oneWord rfl rfl fun h => ?_
  rw [short_Alu _ (fld_major _ _ _)]
  simp (disch := decide) only [decodeAlu, needZero, need, fld_body, wheel_mk, extract_high, extract_low, extract_all, extract_zero, Nat.sub_self, Nat.reduceSub]
  rfl
theorem sub (w : Wheel) (d : SReg) (a : SReg) (b : SReg) : Statement (.sub w d a b) := by
  refine oneWord rfl rfl fun h => ?_
  rw [short_Alu _ (fld_major _ _ _)]
  simp (disch := decide) only [decodeAlu, needZero, need, fld_body, wheel_mk, extract_high, extract_low, extract_all, extract_zero, Nat.sub_self, Nat.reduceSub]
  rfl
theorem mul (w : Wheel) (d : SReg) (a : SReg) (b : SReg) : Statement (.mul w d a b) := by
  refine oneWord rfl rfl fun h => ?_
  rw [short_Alu _ (fld_major _ _ _)]
  simp (disch := decide) only [decodeAlu, needZero, need, fld_body, wheel_mk, extract_high, extract_low, extract_all, extract_zero, Nat.sub_self, Nat.reduceSub]
  rfl
theorem mulh (w : Wheel) (d : SReg) (a : SReg) (b : SReg) : Statement (.mulh w d a b) := by
  refine oneWord rfl rfl fun h => ?_
  rw [short_Alu _ (fld_major _ _ _)]
  simp (disch := decide) only [decodeAlu, needZero, need, fld_body, wheel_mk, extract_high, extract_low, extract_all, extract_zero, Nat.sub_self, Nat.reduceSub]
  rfl
theorem mulhn (w : Wheel) (d : SReg) (a : SReg) (b : SReg) : Statement (.mulhn w d a b) := by
  refine oneWord rfl rfl fun h => ?_
  rw [short_Alu _ (fld_major _ _ _)]
  simp (disch := decide) only [decodeAlu, needZero, need, fld_body, wheel_mk, extract_high, extract_low, extract_all, extract_zero, Nat.sub_self, Nat.reduceSub]
  rfl
theorem div (w : Wheel) (d : SReg) (a : SReg) (b : SReg) : Statement (.div w d a b) := by
  refine oneWord rfl rfl fun h => ?_
  rw [short_Alu _ (fld_major _ _ _)]
  simp (disch := decide) only [decodeAlu, needZero, need, fld_body, wheel_mk, extract_high, extract_low, extract_all, extract_zero, Nat.sub_self, Nat.reduceSub]
  rfl
theorem divn (w : Wheel) (d : SReg) (a : SReg) (b : SReg) : Statement (.divn w d a b) := by
  refine oneWord rfl rfl fun h => ?_
  rw [short_Alu _ (fld_major _ _ _)]
  simp (disch := decide) only [decodeAlu, needZero, need, fld_body, wheel_mk, extract_high, extract_low, extract_all, extract_zero, Nat.sub_self, Nat.reduceSub]
  rfl
theorem rem (w : Wheel) (d : SReg) (a : SReg) (b : SReg) : Statement (.rem w d a b) := by
  refine oneWord rfl rfl fun h => ?_
  rw [short_Alu _ (fld_major _ _ _)]
  simp (disch := decide) only [decodeAlu, needZero, need, fld_body, wheel_mk, extract_high, extract_low, extract_all, extract_zero, Nat.sub_self, Nat.reduceSub]
  rfl
theorem remn (w : Wheel) (d : SReg) (a : SReg) (b : SReg) : Statement (.remn w d a b) := by
  refine oneWord rfl rfl fun h => ?_
  rw [short_Alu _ (fld_major _ _ _)]
  simp (disch := decide) only [decodeAlu, needZero, need, fld_body, wheel_mk, extract_high, extract_low, extract_all, extract_zero, Nat.sub_self, Nat.reduceSub]
  rfl
theorem and (w : Wheel) (d : SReg) (a : SReg) (b : SReg) : Statement (.and w d a b) := by
  refine oneWord rfl rfl fun h => ?_
  rw [short_Alu _ (fld_major _ _ _)]
  simp (disch := decide) only [decodeAlu, needZero, need, fld_body, wheel_mk, extract_high, extract_low, extract_all, extract_zero, Nat.sub_self, Nat.reduceSub]
  rfl
theorem or (w : Wheel) (d : SReg) (a : SReg) (b : SReg) : Statement (.or w d a b) := by
  refine oneWord rfl rfl fun h => ?_
  rw [short_Alu _ (fld_major _ _ _)]
  simp (disch := decide) only [decodeAlu, needZero, need, fld_body, wheel_mk, extract_high, extract_low, extract_all, extract_zero, Nat.sub_self, Nat.reduceSub]
  rfl
theorem xor (w : Wheel) (d : SReg) (a : SReg) (b : SReg) : Statement (.xor w d a b) := by
  refine oneWord rfl rfl fun h => ?_
  rw [short_Alu _ (fld_major _ _ _)]
  simp (disch := decide) only [decodeAlu, needZero, need, fld_body, wheel_mk, extract_high, extract_low, extract_all, extract_zero, Nat.sub_self, Nat.reduceSub]
  rfl
theorem shl (w : Wheel) (d : SReg) (a : SReg) (b : SReg) : Statement (.shl w d a b) := by
  refine oneWord rfl rfl fun h => ?_
  rw [short_Alu _ (fld_major _ _ _)]
  simp (disch := decide) only [decodeAlu, needZero, need, fld_body, wheel_mk, extract_high, extract_low, extract_all, extract_zero, Nat.sub_self, Nat.reduceSub]
  rfl
theorem shr (w : Wheel) (d : SReg) (a : SReg) (b : SReg) : Statement (.shr w d a b) := by
  refine oneWord rfl rfl fun h => ?_
  rw [short_Alu _ (fld_major _ _ _)]
  simp (disch := decide) only [decodeAlu, needZero, need, fld_body, wheel_mk, extract_high, extract_low, extract_all, extract_zero, Nat.sub_self, Nat.reduceSub]
  rfl
theorem sra (w : Wheel) (d : SReg) (a : SReg) (b : SReg) : Statement (.sra w d a b) := by
  refine oneWord rfl rfl fun h => ?_
  rw [short_Alu _ (fld_major _ _ _)]
  simp (disch := decide) only [decodeAlu, needZero, need, fld_body, wheel_mk, extract_high, extract_low, extract_all, extract_zero, Nat.sub_self, Nat.reduceSub]
  rfl
theorem slt (w : Wheel) (d : SReg) (a : SReg) (b : SReg) : Statement (.slt w d a b) := by
  refine oneWord rfl rfl fun h => ?_
  rw [short_Alu _ (fld_major _ _ _)]
  simp (disch := decide) only [decodeAlu, needZero, need, fld_body, wheel_mk, extract_high, extract_low, extract_all, extract_zero, Nat.sub_self, Nat.reduceSub]
  rfl
theorem sltn (w : Wheel) (d : SReg) (a : SReg) (b : SReg) : Statement (.sltn w d a b) := by
  refine oneWord rfl rfl fun h => ?_
  rw [short_Alu _ (fld_major _ _ _)]
  simp (disch := decide) only [decodeAlu, needZero, need, fld_body, wheel_mk, extract_high, extract_low, extract_all, extract_zero, Nat.sub_self, Nat.reduceSub]
  rfl
theorem min (w : Wheel) (d : SReg) (a : SReg) (b : SReg) : Statement (.min w d a b) := by
  refine oneWord rfl rfl fun h => ?_
  rw [short_Alu _ (fld_major _ _ _)]
  simp (disch := decide) only [decodeAlu, needZero, need, fld_body, wheel_mk, extract_high, extract_low, extract_all, extract_zero, Nat.sub_self, Nat.reduceSub]
  rfl
theorem max (w : Wheel) (d : SReg) (a : SReg) (b : SReg) : Statement (.max w d a b) := by
  refine oneWord rfl rfl fun h => ?_
  rw [short_Alu _ (fld_major _ _ _)]
  simp (disch := decide) only [decodeAlu, needZero, need, fld_body, wheel_mk, extract_high, extract_low, extract_all, extract_zero, Nat.sub_self, Nat.reduceSub]
  rfl
theorem minn (w : Wheel) (d : SReg) (a : SReg) (b : SReg) : Statement (.minn w d a b) := by
  refine oneWord rfl rfl fun h => ?_
  rw [short_Alu _ (fld_major _ _ _)]
  simp (disch := decide) only [decodeAlu, needZero, need, fld_body, wheel_mk, extract_high, extract_low, extract_all, extract_zero, Nat.sub_self, Nat.reduceSub]
  rfl
theorem maxn (w : Wheel) (d : SReg) (a : SReg) (b : SReg) : Statement (.maxn w d a b) := by
  refine oneWord rfl rfl fun h => ?_
  rw [short_Alu _ (fld_major _ _ _)]
  simp (disch := decide) only [decodeAlu, needZero, need, fld_body, wheel_mk, extract_high, extract_low, extract_all, extract_zero, Nat.sub_self, Nat.reduceSub]
  rfl
theorem clz (w : Wheel) (d : SReg) (a : SReg) : Statement (.clz w d a) := by
  refine oneWord rfl rfl fun h => ?_
  rw [short_Alu _ (fld_major _ _ _)]
  simp (disch := decide) only [decodeAlu, needZero, need, fld_body, wheel_mk, extract_high, extract_low, extract_all, extract_zero, Nat.sub_self, Nat.reduceSub]
  rfl
theorem popc (w : Wheel) (d : SReg) (a : SReg) : Statement (.popc w d a) := by
  refine oneWord rfl rfl fun h => ?_
  rw [short_Alu _ (fld_major _ _ _)]
  simp (disch := decide) only [decodeAlu, needZero, need, fld_body, wheel_mk, extract_high, extract_low, extract_all, extract_zero, Nat.sub_self, Nat.reduceSub]
  rfl
theorem addi (w : Wheel) (d : SReg) (a : SReg) (imm : BitVec 14) : Statement (.addi w d a imm) := by
  refine oneWord rfl rfl fun h => ?_
  rw [short_addi _ (fld_major _ _ _)]
  simp (disch := decide) only [fld_body, wheel_mk, extract_high, extract_low, extract_all, Nat.sub_self, Nat.reduceSub]
theorem andi (w : Wheel) (d : SReg) (a : SReg) (imm : BitVec 14) : Statement (.andi w d a imm) := by
  refine oneWord rfl rfl fun h => ?_
  rw [short_andi _ (fld_major _ _ _)]
  simp (disch := decide) only [fld_body, wheel_mk, extract_high, extract_low, extract_all, Nat.sub_self, Nat.reduceSub]
theorem ori (w : Wheel) (d : SReg) (a : SReg) (imm : BitVec 14) : Statement (.ori w d a imm) := by
  refine oneWord rfl rfl fun h => ?_
  rw [short_ori _ (fld_major _ _ _)]
  simp (disch := decide) only [fld_body, wheel_mk, extract_high, extract_low, extract_all, Nat.sub_self, Nat.reduceSub]
theorem xori (w : Wheel) (d : SReg) (a : SReg) (imm : BitVec 14) : Statement (.xori w d a imm) := by
  refine oneWord rfl rfl fun h => ?_
  rw [short_xori _ (fld_major _ _ _)]
  simp (disch := decide) only [fld_body, wheel_mk, extract_high, extract_low, extract_all, Nat.sub_self, Nat.reduceSub]
theorem shli (w : Wheel) (d : SReg) (a : SReg) (imm : BitVec 6) : Statement (.shli w d a imm) := by
  refine oneWord rfl rfl fun h => ?_
  rw [short_shli _ (fld_major _ _ _)]
  simp (disch := decide) only [needZero, need, fld_body, wheel_mk, extract_high, extract_low, extract_all, extract_zero, Nat.sub_self, Nat.reduceSub]
  rfl
theorem shri (w : Wheel) (d : SReg) (a : SReg) (imm : BitVec 6) : Statement (.shri w d a imm) := by
  refine oneWord rfl rfl fun h => ?_
  rw [short_shri _ (fld_major _ _ _)]
  simp (disch := decide) only [needZero, need, fld_body, wheel_mk, extract_high, extract_low, extract_all, extract_zero, Nat.sub_self, Nat.reduceSub]
  rfl
theorem srai (w : Wheel) (d : SReg) (a : SReg) (imm : BitVec 6) : Statement (.srai w d a imm) := by
  refine oneWord rfl rfl fun h => ?_
  rw [short_srai _ (fld_major _ _ _)]
  simp (disch := decide) only [needZero, need, fld_body, wheel_mk, extract_high, extract_low, extract_all, extract_zero, Nat.sub_self, Nat.reduceSub]
  rfl
theorem slti (w : Wheel) (d : SReg) (a : SReg) (imm : BitVec 14) : Statement (.slti w d a imm) := by
  refine oneWord rfl rfl fun h => ?_
  rw [short_slti _ (fld_major _ _ _)]
  simp (disch := decide) only [fld_body, wheel_mk, extract_high, extract_low, extract_all, Nat.sub_self, Nat.reduceSub]
theorem sltni (w : Wheel) (d : SReg) (a : SReg) (imm : BitVec 14) : Statement (.sltni w d a imm) := by
  refine oneWord rfl rfl fun h => ?_
  rw [short_sltni _ (fld_major _ _ _)]
  simp (disch := decide) only [fld_body, wheel_mk, extract_high, extract_low, extract_all, Nat.sub_self, Nat.reduceSub]
theorem lui (w : Wheel) (d : SReg) (imm : BitVec 18) : Statement (.lui w d imm) := by
  refine oneWord rfl rfl fun h => ?_
  rw [short_lui _ (fld_major _ _ _)]
  simp (disch := decide) only [fld_body, wheel_mk, extract_high, extract_low, extract_all, Nat.sub_self]
theorem li64 (w : Wheel) (d : SReg) (imm : BitVec 40) : Statement (.li64 w d imm) := by
  refine twoWords rfl fun h => ?_
  simp (disch := decide) only [decodeLong, second_wheel, second_lop, second_fld, second_bit, split40, needZero, need, fld_body, bit_body, wheel_mk, extract_high, extract_low, extract_all, Nat.sub_self, Nat.reduceSub, withField, BitVec.getLsbD_append]
  rfl
theorem beq (w : Wheel) (a : SReg) (b : SReg) (off : BitVec 14) : Statement (.beq w a b off) := by
  refine oneWord rfl rfl fun h => ?_
  rw [short_beq _ (fld_major _ _ _)]
  simp (disch := decide) only [fld_body, wheel_mk, extract_high, extract_low, extract_all, Nat.sub_self, Nat.reduceSub]
theorem bne (w : Wheel) (a : SReg) (b : SReg) (off : BitVec 14) : Statement (.bne w a b off) := by
  refine oneWord rfl rfl fun h => ?_
  rw [short_bne _ (fld_major _ _ _)]
  simp (disch := decide) only [fld_body, wheel_mk, extract_high, extract_low, extract_all, Nat.sub_self, Nat.reduceSub]
theorem blt (w : Wheel) (a : SReg) (b : SReg) (off : BitVec 14) : Statement (.blt w a b off) := by
  refine oneWord rfl rfl fun h => ?_
  rw [short_blt _ (fld_major _ _ _)]
  simp (disch := decide) only [fld_body, wheel_mk, extract_high, extract_low, extract_all, Nat.sub_self, Nat.reduceSub]
theorem bge (w : Wheel) (a : SReg) (b : SReg) (off : BitVec 14) : Statement (.bge w a b off) := by
  refine oneWord rfl rfl fun h => ?_
  rw [short_bge _ (fld_major _ _ _)]
  simp (disch := decide) only [fld_body, wheel_mk, extract_high, extract_low, extract_all, Nat.sub_self, Nat.reduceSub]
theorem bltn (w : Wheel) (a : SReg) (b : SReg) (off : BitVec 14) : Statement (.bltn w a b off) := by
  refine oneWord rfl rfl fun h => ?_
  rw [short_bltn _ (fld_major _ _ _)]
  simp (disch := decide) only [fld_body, wheel_mk, extract_high, extract_low, extract_all, Nat.sub_self, Nat.reduceSub]
theorem bgen (w : Wheel) (a : SReg) (b : SReg) (off : BitVec 14) : Statement (.bgen w a b off) := by
  refine oneWord rfl rfl fun h => ?_
  rw [short_bgen _ (fld_major _ _ _)]
  simp (disch := decide) only [fld_body, wheel_mk, extract_high, extract_low, extract_all, Nat.sub_self, Nat.reduceSub]
theorem jmp (w : Wheel) (off : BitVec 22) : Statement (.jmp w off) := by
  refine oneWord rfl rfl fun h => ?_
  rw [short_jmp _ (fld_major _ _ _)]
  simp (disch := decide) only [fld_body, wheel_mk, extract_all]
theorem jal (w : Wheel) (off : BitVec 22) : Statement (.jal w off) := by
  refine oneWord rfl rfl fun h => ?_
  rw [short_jal _ (fld_major _ _ _)]
  simp (disch := decide) only [fld_body, wheel_mk, extract_all]
theorem spush (w : Wheel) (q : QNum) (a : SReg) : Statement (.spush w q a) := by
  refine oneWord rfl rfl fun h => ?_
  rw [short_Queue _ (fld_major _ _ _)]
  simp (disch := decide) only [decodeQueue, needZero, need, fld_body, wheel_mk, extract_high, extract_low, extract_all, extract_zero, Nat.sub_self, Nat.reduceSub, needWf_ok h, withField, queue_field]
  rfl
theorem spop (w : Wheel) (d : SReg) (q : QNum) : Statement (.spop w d q) := by
  refine oneWord rfl rfl fun h => ?_
  rw [short_Queue _ (fld_major _ _ _)]
  simp (disch := decide) only [decodeQueue, needZero, need, fld_body, wheel_mk, extract_high, extract_low, extract_all, extract_zero, Nat.sub_self, Nat.reduceSub, needWf_ok h, withField, queue_field]
  rfl
theorem qcnt (w : Wheel) (d : SReg) (q : QNum) : Statement (.qcnt w d q) := by
  refine oneWord rfl rfl fun h => ?_
  rw [short_Queue _ (fld_major _ _ _)]
  simp (disch := decide) only [decodeQueue, needZero, need, fld_body, wheel_mk, extract_high, extract_low, extract_all, extract_zero, Nat.sub_self, Nat.reduceSub, withField, queue_field]
  rfl
theorem sspill (w : Wheel) (s : SReg) (slot : BitVec 6) : Statement (.sspill w s slot) := by
  refine oneWord rfl rfl fun h => ?_
  rw [short_Spill _ (fld_major _ _ _)]
  simp (disch := decide) only [decodeSpill, needZero, need, fld_body, wheel_mk, extract_high, extract_low, extract_all, extract_zero, Nat.sub_self, Nat.reduceSub]
  rfl
theorem sfill (w : Wheel) (d : SReg) (slot : BitVec 6) : Statement (.sfill w d slot) := by
  refine oneWord rfl rfl fun h => ?_
  rw [short_Spill _ (fld_major _ _ _)]
  simp (disch := decide) only [decodeSpill, needZero, need, fld_body, wheel_mk, extract_high, extract_low, extract_all, extract_zero, Nat.sub_self, Nat.reduceSub]
  rfl
theorem bqz (w : Wheel) (q : QNum) (off : BitVec 14) : Statement (.bqz w q off) := by
  refine oneWord rfl rfl fun h => ?_
  rw [short_QueueBranch _ (fld_major _ _ _)]
  simp (disch := decide) only [decodeQueueBranch, fld_body, wheel_mk, extract_high, extract_low, extract_all, extract_zero, Nat.sub_self, Nat.reduceSub, needWf_ok h, withField, queue_field]
  rfl
theorem bqnz (w : Wheel) (q : QNum) (off : BitVec 14) : Statement (.bqnz w q off) := by
  refine oneWord rfl rfl fun h => ?_
  rw [short_QueueBranch _ (fld_major _ _ _)]
  simp (disch := decide) only [decodeQueueBranch, fld_body, wheel_mk, extract_high, extract_low, extract_all, Nat.sub_self, Nat.reduceSub, needWf_ok h, withField, queue_field]
  rfl
theorem vpush (w : Wheel) (v : VReg) (q : QNum) (k : KReg) : Statement (.vpush w v q k) := by
  refine oneWord rfl rfl fun h => ?_
  rw [short_VecQueue _ (fld_major _ _ _)]
  simp (disch := decide) only [decodeVecQueue, needZero, need, fld_body, bit_body, wheel_mk, extract_high, extract_low, extract_all, extract_zero, Nat.sub_self, Nat.reduceSub, needWf_ok h, withField, queue_field, BitVec.getLsbD_append]
  rfl
theorem vpop (w : Wheel) (v : VReg) (q : QNum) (k : KReg) : Statement (.vpop w v q k) := by
  refine oneWord rfl rfl fun h => ?_
  rw [short_VecQueue _ (fld_major _ _ _)]
  simp (disch := decide) only [decodeVecQueue, needZero, need, fld_body, bit_body, wheel_mk, extract_high, extract_low, extract_all, extract_zero, Nat.sub_self, Nat.reduceSub, needWf_ok h, withField, queue_field, BitVec.getLsbD_append]
  rfl
theorem vspill (w : Wheel) (v : VReg) (slot : BitVec 5) : Statement (.vspill w v slot) := by
  refine oneWord rfl rfl fun h => ?_
  rw [short_VecQueue _ (fld_major _ _ _)]
  simp (disch := decide) only [decodeVecQueue, needZero, need, fld_body, bit_body, wheel_mk, extract_high, extract_low, extract_all, extract_zero, extract_widened, Nat.sub_self, Nat.reduceSub, withField, BitVec.getLsbD_append]
  simp []
theorem vfill (w : Wheel) (v : VReg) (slot : BitVec 5) : Statement (.vfill w v slot) := by
  refine oneWord rfl rfl fun h => ?_
  rw [short_VecQueue _ (fld_major _ _ _)]
  simp (disch := decide) only [decodeVecQueue, needZero, need, fld_body, bit_body, wheel_mk, extract_high, extract_low, extract_all, extract_zero, extract_widened, Nat.sub_self, Nat.reduceSub, withField, BitVec.getLsbD_append]
  simp []
theorem nop (w : Wheel) : Statement (.nop w) := by
  refine oneWord rfl rfl fun h => ?_
  rw [short_Sync _ (fld_major _ _ _)]
  simp (disch := decide) only [decodeSync, needZero, need, fld_body, wheel_mk, extract_high, extract_low, extract_all, zero_span, extract_zero, Nat.sub_self, Nat.reduceSub, withField]
  rfl
theorem safe (w : Wheel) (id : BitVec 10) : Statement (.safe w id) := by
  refine oneWord rfl rfl fun h => ?_
  rw [short_Sync _ (fld_major _ _ _)]
  simp (disch := decide) only [decodeSync, needZero, need, fld_body, wheel_mk, extract_high, extract_low, extract_all, zero_span, extract_zero, Nat.sub_self, Nat.reduceSub, withField]
  rfl
theorem halt (w : Wheel) : Statement (.halt w) := by
  refine oneWord rfl rfl fun h => ?_
  rw [short_Sync _ (fld_major _ _ _)]
  simp (disch := decide) only [decodeSync, needZero, need, fld_body, wheel_mk, extract_high, extract_low, extract_all, zero_span, extract_zero, Nat.sub_self, Nat.reduceSub, withField]
  rfl
theorem rdv (w : Wheel) : Statement (.rdv w) := by
  refine oneWord rfl rfl fun h => ?_
  rw [short_Sync _ (fld_major _ _ _)]
  simp (disch := decide) only [decodeSync, needZero, need, fld_body, wheel_mk, extract_high, extract_low, extract_all, zero_span, extract_zero, Nat.sub_self, Nat.reduceSub, withField]
  rfl
theorem mark (w : Wheel) (eng : BitVec 4) (scope : Scope) : Statement (.mark w eng scope) := by
  refine oneWord rfl rfl fun h => ?_
  rw [short_Sync _ (fld_major _ _ _)]
  simp (disch := decide) only [decodeSync, needZero, need, fld_body, wheel_mk, extract_high, extract_low, extract_all, zero_span, extract_zero, Nat.sub_self, Nat.reduceSub, needWf_ok h, withField, scope_field6, scope_code]
  simp []
  exact scope_above6 scope
theorem join (w : Wheel) : Statement (.join w) := by
  refine oneWord rfl rfl fun h => ?_
  rw [short_Sync _ (fld_major _ _ _)]
  simp (disch := decide) only [decodeSync, needZero, need, fld_body, wheel_mk, extract_high, extract_low, extract_all, zero_span, extract_zero, Nat.sub_self, Nat.reduceSub, withField]
  rfl
theorem bar (w : Wheel) (scope : Scope) : Statement (.bar w scope) := by
  refine oneWord rfl rfl fun h => ?_
  rw [short_Sync _ (fld_major _ _ _)]
  simp (disch := decide) only [decodeSync, needZero, need, fld_body, wheel_mk, extract_high, extract_low, extract_all, zero_span, extract_zero, Nat.sub_self, Nat.reduceSub, needWf_ok h, withField, scope_field10, scope_above10, scope_code]
  rfl
theorem waitc (w : Wheel) (d : SReg) (cc : Cc) : Statement (.waitc w d cc) := by
  refine oneWord rfl rfl fun h => ?_
  rw [short_Sync _ (fld_major _ _ _)]
  simp (disch := decide) only [decodeSync, needZero, need, fld_body, wheel_mk, extract_high, extract_low, extract_all, zero_span, extract_zero, Nat.sub_self, Nat.reduceSub, withField]
  rfl
theorem disc (w : Wheel) (cc : Cc) : Statement (.disc w cc) := by
  refine oneWord rfl rfl fun h => ?_
  rw [short_Sync _ (fld_major _ _ _)]
  simp (disch := decide) only [decodeSync, needZero, need, fld_body, wheel_mk, extract_high, extract_low, extract_all, zero_span, extract_zero, Nat.sub_self, Nat.reduceSub, withField]
  rfl
theorem trap (w : Wheel) (d : SReg) (a : SReg) : Statement (.trap w d a) := by
  refine oneWord rfl rfl fun h => ?_
  rw [short_System _ (fld_major _ _ _)]
  simp (disch := decide) only [decodeSystem, needZero, need, fld_body, bit_body, wheel_mk, extract_high, extract_low, extract_all, extract_zero, Nat.sub_self, Nat.reduceSub, BitVec.getLsbD_append]
  rfl
theorem uret (w : Wheel) : Statement (.uret w) := by
  refine oneWord rfl rfl fun h => ?_
  rw [short_System _ (fld_major _ _ _)]
  simp (disch := decide) only [decodeSystem, needZero, need, fld_body, bit_body, wheel_mk, extract_high, extract_low, extract_all, extract_zero, Nat.sub_self, Nat.reduceSub, BitVec.getLsbD_append]
  rfl
theorem csrr (w : Wheel) (d : SReg) (csr : BitVec 10) : Statement (.csrr w d csr) := by
  refine oneWord rfl rfl fun h => ?_
  rw [short_System _ (fld_major _ _ _)]
  simp (disch := decide) only [decodeSystem, needZero, need, fld_body, bit_body, wheel_mk, extract_high, extract_low, extract_all, extract_zero, Nat.sub_self, Nat.reduceSub, needWf_ok h, BitVec.getLsbD_append]
  rfl
theorem csrw (w : Wheel) (a : SReg) (csr : BitVec 10) : Statement (.csrw w a csr) := by
  refine oneWord rfl rfl fun h => ?_
  rw [short_System _ (fld_major _ _ _)]
  simp (disch := decide) only [decodeSystem, needZero, need, fld_body, bit_body, wheel_mk, extract_high, extract_low, extract_all, extract_zero, Nat.sub_self, Nat.reduceSub, needWf_ok h, BitVec.getLsbD_append]
  rfl
theorem fqack (w : Wheel) (d : SReg) (a : SReg) (endJob : Bool) : Statement (.fqack w d a endJob) := by
  refine oneWord rfl rfl fun h => ?_
  rw [short_System _ (fld_major _ _ _)]
  simp (disch := decide) only [decodeSystem, needZero, need, fld_body, bit_body, wheel_mk, extract_high, extract_low, extract_all, extract_above, Nat.sub_self, Nat.reduceSub, BitVec.getLsbD_append]
  simp []
theorem sret (w : Wheel) (d : SReg) (a : SReg) (r : SReg) : Statement (.sret w d a r) := by
  refine oneWord rfl rfl fun h => ?_
  rw [short_System _ (fld_major _ _ _)]
  simp (disch := decide) only [decodeSystem, needZero, need, fld_body, bit_body, wheel_mk, extract_high, extract_low, extract_all, extract_widened, extract_above, Nat.sub_self, Nat.reduceSub, BitVec.getLsbD_append]
  rfl
theorem launch (w : Wheel) (cc : Cc) (a : SReg) : Statement (.launch w cc a) := by
  refine oneWord rfl rfl fun h => ?_
  rw [short_System _ (fld_major _ _ _)]
  simp (disch := decide) only [decodeSystem, needZero, need, fld_body, bit_body, wheel_mk, extract_high, extract_low, extract_all, extract_zero, Nat.sub_self, Nat.reduceSub, BitVec.getLsbD_append]
  rfl
theorem loop (w : Wheel) (a : SReg) (off : BitVec 14) : Statement (.loop w a off) := by
  refine oneWord rfl rfl fun h => ?_
  rw [short_Loop _ (fld_major _ _ _)]
  simp (disch := decide) only [decodeLoop, needZero, need, fld_body, wheel_mk, extract_high, extract_low, extract_all, extract_zero, Nat.sub_self, Nat.reduceSub]
  rfl
theorem endl (w : Wheel) (off : BitVec 14) : Statement (.endl w off) := by
  refine oneWord rfl rfl fun h => ?_
  rw [short_Loop _ (fld_major _ _ _)]
  simp (disch := decide) only [decodeLoop, needZero, need, fld_body, wheel_mk, extract_high, extract_low, extract_all, extract_zero, Nat.sub_self, Nat.reduceSub]
  rfl
theorem jr (w : Wheel) (a : SReg) : Statement (.jr w a) := by
  refine oneWord rfl rfl fun h => ?_
  rw [short_Loop _ (fld_major _ _ _)]
  simp (disch := decide) only [decodeLoop, needZero, need, fld_body, wheel_mk, extract_high, extract_low, extract_all, extract_zero, Nat.sub_self, Nat.reduceSub]
  rfl
theorem ldb (w : Wheel) (d : SReg) (a : SReg) (off : BitVec 11) : Statement (.ldb w d a off) := by
  refine oneWord rfl rfl fun h => ?_
  rw [short_Load _ (fld_major _ _ _)]
  simp (disch := decide) only [decodeLoad, fld_body, wheel_mk, extract_high, extract_low, extract_all, extract_zero, Nat.sub_self, Nat.reduceSub]
  rfl
theorem ldbn (w : Wheel) (d : SReg) (a : SReg) (off : BitVec 11) : Statement (.ldbn w d a off) := by
  refine oneWord rfl rfl fun h => ?_
  rw [short_Load _ (fld_major _ _ _)]
  simp (disch := decide) only [decodeLoad, fld_body, wheel_mk, extract_high, extract_low, extract_all, Nat.sub_self, Nat.reduceSub]
  rfl
theorem ldh (w : Wheel) (d : SReg) (a : SReg) (off : BitVec 11) : Statement (.ldh w d a off) := by
  refine oneWord rfl rfl fun h => ?_
  rw [short_Load _ (fld_major _ _ _)]
  simp (disch := decide) only [decodeLoad, fld_body, wheel_mk, extract_high, extract_low, extract_all, Nat.sub_self, Nat.reduceSub]
  rfl
theorem ldhn (w : Wheel) (d : SReg) (a : SReg) (off : BitVec 11) : Statement (.ldhn w d a off) := by
  refine oneWord rfl rfl fun h => ?_
  rw [short_Load _ (fld_major _ _ _)]
  simp (disch := decide) only [decodeLoad, fld_body, wheel_mk, extract_high, extract_low, extract_all, Nat.sub_self, Nat.reduceSub]
  rfl
theorem ldw (w : Wheel) (d : SReg) (a : SReg) (off : BitVec 11) : Statement (.ldw w d a off) := by
  refine oneWord rfl rfl fun h => ?_
  rw [short_Load _ (fld_major _ _ _)]
  simp (disch := decide) only [decodeLoad, fld_body, wheel_mk, extract_high, extract_low, extract_all, Nat.sub_self, Nat.reduceSub]
  rfl
theorem ldwn (w : Wheel) (d : SReg) (a : SReg) (off : BitVec 11) : Statement (.ldwn w d a off) := by
  refine oneWord rfl rfl fun h => ?_
  rw [short_Load _ (fld_major _ _ _)]
  simp (disch := decide) only [decodeLoad, fld_body, wheel_mk, extract_high, extract_low, extract_all, Nat.sub_self, Nat.reduceSub]
  rfl
theorem ldd (w : Wheel) (d : SReg) (a : SReg) (off : BitVec 11) : Statement (.ldd w d a off) := by
  refine oneWord rfl rfl fun h => ?_
  rw [short_Load _ (fld_major _ _ _)]
  simp (disch := decide) only [decodeLoad, fld_body, wheel_mk, extract_high, extract_low, extract_all, Nat.sub_self, Nat.reduceSub]
  rfl
theorem stb (w : Wheel) (s : SReg) (a : SReg) (off : BitVec 11) : Statement (.stb w s a off) := by
  refine oneWord rfl rfl fun h => ?_
  rw [short_Store _ (fld_major _ _ _)]
  simp (disch := decide) only [decodeStore, fld_body, wheel_mk, extract_high, extract_low, extract_all, extract_zero, Nat.sub_self, Nat.reduceSub]
  rfl
theorem sth (w : Wheel) (s : SReg) (a : SReg) (off : BitVec 11) : Statement (.sth w s a off) := by
  refine oneWord rfl rfl fun h => ?_
  rw [short_Store _ (fld_major _ _ _)]
  simp (disch := decide) only [decodeStore, fld_body, wheel_mk, extract_high, extract_low, extract_all, Nat.sub_self, Nat.reduceSub]
  rfl
theorem stw (w : Wheel) (s : SReg) (a : SReg) (off : BitVec 11) : Statement (.stw w s a off) := by
  refine oneWord rfl rfl fun h => ?_
  rw [short_Store _ (fld_major _ _ _)]
  simp (disch := decide) only [decodeStore, fld_body, wheel_mk, extract_high, extract_low, extract_all, Nat.sub_self, Nat.reduceSub]
  rfl
theorem std (w : Wheel) (s : SReg) (a : SReg) (off : BitVec 11) : Statement (.std w s a off) := by
  refine oneWord rfl rfl fun h => ?_
  rw [short_Store _ (fld_major _ _ _)]
  simp (disch := decide) only [decodeStore, fld_body, wheel_mk, extract_high, extract_low, extract_all, Nat.sub_self, Nat.reduceSub]
  rfl
theorem amoadd (w : Wheel) (o : AmoOrd) (d : SReg) (a : SReg) (b : SReg) : Statement (.amoadd w o d a b) := by
  refine oneWord rfl rfl fun h => ?_
  rw [short_Atomic _ (fld_major _ _ _)]
  simp (disch := decide) only [decodeAtomic, needZero, need, fld_body, wheel_mk, extract_high, extract_low, extract_all, extract_zero, Nat.sub_self, Nat.reduceSub, needWf_ok h, ord_code]
  rfl
theorem amoand (w : Wheel) (o : AmoOrd) (d : SReg) (a : SReg) (b : SReg) : Statement (.amoand w o d a b) := by
  refine oneWord rfl rfl fun h => ?_
  rw [short_Atomic _ (fld_major _ _ _)]
  simp (disch := decide) only [decodeAtomic, needZero, need, fld_body, wheel_mk, extract_high, extract_low, extract_all, extract_zero, Nat.sub_self, Nat.reduceSub, needWf_ok h, ord_code]
  rfl
theorem amoor (w : Wheel) (o : AmoOrd) (d : SReg) (a : SReg) (b : SReg) : Statement (.amoor w o d a b) := by
  refine oneWord rfl rfl fun h => ?_
  rw [short_Atomic _ (fld_major _ _ _)]
  simp (disch := decide) only [decodeAtomic, needZero, need, fld_body, wheel_mk, extract_high, extract_low, extract_all, extract_zero, Nat.sub_self, Nat.reduceSub, needWf_ok h, ord_code]
  rfl
theorem amoxor (w : Wheel) (o : AmoOrd) (d : SReg) (a : SReg) (b : SReg) : Statement (.amoxor w o d a b) := by
  refine oneWord rfl rfl fun h => ?_
  rw [short_Atomic _ (fld_major _ _ _)]
  simp (disch := decide) only [decodeAtomic, needZero, need, fld_body, wheel_mk, extract_high, extract_low, extract_all, extract_zero, Nat.sub_self, Nat.reduceSub, needWf_ok h, ord_code]
  rfl
theorem amomin (w : Wheel) (o : AmoOrd) (d : SReg) (a : SReg) (b : SReg) : Statement (.amomin w o d a b) := by
  refine oneWord rfl rfl fun h => ?_
  rw [short_Atomic _ (fld_major _ _ _)]
  simp (disch := decide) only [decodeAtomic, needZero, need, fld_body, wheel_mk, extract_high, extract_low, extract_all, extract_zero, Nat.sub_self, Nat.reduceSub, needWf_ok h, ord_code]
  rfl
theorem amomax (w : Wheel) (o : AmoOrd) (d : SReg) (a : SReg) (b : SReg) : Statement (.amomax w o d a b) := by
  refine oneWord rfl rfl fun h => ?_
  rw [short_Atomic _ (fld_major _ _ _)]
  simp (disch := decide) only [decodeAtomic, needZero, need, fld_body, wheel_mk, extract_high, extract_low, extract_all, extract_zero, Nat.sub_self, Nat.reduceSub, needWf_ok h, ord_code]
  rfl
theorem amominn (w : Wheel) (o : AmoOrd) (d : SReg) (a : SReg) (b : SReg) : Statement (.amominn w o d a b) := by
  refine oneWord rfl rfl fun h => ?_
  rw [short_Atomic _ (fld_major _ _ _)]
  simp (disch := decide) only [decodeAtomic, needZero, need, fld_body, wheel_mk, extract_high, extract_low, extract_all, extract_zero, Nat.sub_self, Nat.reduceSub, needWf_ok h, ord_code]
  rfl
theorem amomaxn (w : Wheel) (o : AmoOrd) (d : SReg) (a : SReg) (b : SReg) : Statement (.amomaxn w o d a b) := by
  refine oneWord rfl rfl fun h => ?_
  rw [short_Atomic _ (fld_major _ _ _)]
  simp (disch := decide) only [decodeAtomic, needZero, need, fld_body, wheel_mk, extract_high, extract_low, extract_all, extract_zero, Nat.sub_self, Nat.reduceSub, needWf_ok h, ord_code]
  rfl
theorem amoxchg (w : Wheel) (o : AmoOrd) (d : SReg) (a : SReg) (b : SReg) : Statement (.amoxchg w o d a b) := by
  refine oneWord rfl rfl fun h => ?_
  rw [short_Atomic _ (fld_major _ _ _)]
  simp (disch := decide) only [decodeAtomic, needZero, need, fld_body, wheel_mk, extract_high, extract_low, extract_all, extract_zero, Nat.sub_self, Nat.reduceSub, needWf_ok h, ord_code]
  rfl
theorem amocas (w : Wheel) (o : AmoOrd) (d : SReg) (a : SReg) (b : SReg) : Statement (.amocas w o d a b) := by
  refine oneWord rfl rfl fun h => ?_
  rw [short_Atomic _ (fld_major _ _ _)]
  simp (disch := decide) only [decodeAtomic, needZero, need, fld_body, wheel_mk, extract_high, extract_low, extract_all, extract_zero, Nat.sub_self, Nat.reduceSub, needWf_ok h, ord_code]
  rfl
theorem amoincb (w : Wheel) (o : AmoOrd) (d : SReg) (a : SReg) (b : SReg) : Statement (.amoincb w o d a b) := by
  refine oneWord rfl rfl fun h => ?_
  rw [short_Atomic _ (fld_major _ _ _)]
  simp (disch := decide) only [decodeAtomic, needZero, need, fld_body, wheel_mk, extract_high, extract_low, extract_all, extract_zero, Nat.sub_self, Nat.reduceSub, needWf_ok h, ord_code]
  rfl
theorem amofadd (w : Wheel) (o : AmoOrd) (d : SReg) (a : SReg) (b : SReg) : Statement (.amofadd w o d a b) := by
  refine oneWord rfl rfl fun h => ?_
  rw [short_Atomic _ (fld_major _ _ _)]
  simp (disch := decide) only [decodeAtomic, needZero, need, fld_body, wheel_mk, extract_high, extract_low, extract_all, extract_zero, Nat.sub_self, Nat.reduceSub, needWf_ok h, ord_code]
  rfl
theorem obopen (w : Wheel) (cc : Cc) (a : SReg) (b : SReg) (id : BitVec 16) : Statement (.obopen w cc a b id) := by
  refine twoWords rfl fun h => ?_
  simp (disch := decide) only [decodeLong, second_wheel, second_lop, second_fld, second_bit, needZero, need, fld_body, bit_body, wheel_mk, extract_high, extract_low, extract_all, zero_span, extract_zero, extract_widened, extract_above, Nat.sub_self, Nat.reduceSub, withField, BitVec.getLsbD_append]
  rfl
theorem obclose (w : Wheel) (cc : Cc) (a : SReg) (b : SReg) : Statement (.obclose w cc a b) := by
  refine oneWord rfl rfl fun h => ?_
  rw [short_obclose _ (fld_major _ _ _)]
  simp (disch := decide) only [needZero, need, fld_body, wheel_mk, extract_high, extract_low, extract_all, zero_span, extract_zero, Nat.sub_self, Nat.reduceSub]
  rfl
theorem tld (w : Wheel) (a : Pair) (b : Pair) (s : SReg) (cc : Cc) (uint : Bool) : Statement (.tld w a b s cc uint) := by
  refine oneWord rfl rfl fun h => ?_
  rw [short_TileLoad _ (fld_major _ _ _)]
  simp (disch := decide) only [decodeTileLoad, needZero, need, fld_body, bit_body, wheel_mk, extract_high, extract_low, extract_all, extract_zero, Nat.sub_self, Nat.reduceSub, withField, BitVec.getLsbD_append]
  simp [needWf_ok h]
theorem tldas (w : Wheel) (a : Pair) (b : Pair) (s : SReg) (cc : Cc) (uint : Bool) (scope : Scope) : Statement (.tldas w a b s cc uint scope) := by
  refine oneWord rfl rfl fun h => ?_
  rw [short_TileLoad _ (fld_major _ _ _)]
  simp (disch := decide) only [decodeTileLoad, needZero, need, fld_body, bit_body, wheel_mk, extract_high, extract_low, extract_all, Nat.sub_self, Nat.reduceSub, withField, scope_code, BitVec.getLsbD_append]
  simp [needWf_ok h]
theorem tpref (w : Wheel) (a : Pair) (s : SReg) (cc : Cc) (uint : Bool) : Statement (.tpref w a s cc uint) := by
  refine oneWord rfl rfl fun h => ?_
  rw [short_TileLoad _ (fld_major _ _ _)]
  simp (disch := decide) only [decodeTileLoad, needZero, need, fld_body, bit_body, wheel_mk, extract_high, extract_low, extract_all, extract_zero, Nat.sub_self, Nat.reduceSub, withField, BitVec.getLsbD_append]
  simp [needWf_ok h]
theorem tgath (w : Wheel) (a : Pair) (b : Pair) (s : SReg) (cc : Cc) (uint : Bool) : Statement (.tgath w a b s cc uint) := by
  refine oneWord rfl rfl fun h => ?_
  rw [short_TileLoad _ (fld_major _ _ _)]
  simp (disch := decide) only [decodeTileLoad, needZero, need, fld_body, bit_body, wheel_mk, extract_high, extract_low, extract_all, extract_zero, Nat.sub_self, Nat.reduceSub, withField, BitVec.getLsbD_append]
  simp [needWf_ok h]
theorem tst (w : Wheel) (a : Pair) (b : Pair) (s : SReg) (cc : Cc) (uint : Bool) : Statement (.tst w a b s cc uint) := by
  refine oneWord rfl rfl fun h => ?_
  rw [short_TileStore _ (fld_major _ _ _)]
  simp (disch := decide) only [decodeTileStore, needZero, need, fld_body, bit_body, wheel_mk, extract_high, extract_low, extract_all, extract_zero, Nat.sub_self, Nat.reduceSub, withField, BitVec.getLsbD_append]
  simp [needWf_ok h]
theorem tstash (w : Wheel) (a : Pair) (b : Pair) (s : SReg) (cc : Cc) (uint : Bool) : Statement (.tstash w a b s cc uint) := by
  refine oneWord rfl rfl fun h => ?_
  rw [short_TileStore _ (fld_major _ _ _)]
  simp (disch := decide) only [decodeTileStore, needZero, need, fld_body, bit_body, wheel_mk, extract_high, extract_low, extract_all, extract_zero, Nat.sub_self, Nat.reduceSub, withField, BitVec.getLsbD_append]
  simp [needWf_ok h]
theorem tscat (w : Wheel) (a : Pair) (b : Pair) (s : SReg) (cc : Cc) (uint : Bool) : Statement (.tscat w a b s cc uint) := by
  refine oneWord rfl rfl fun h => ?_
  rw [short_TileStore _ (fld_major _ _ _)]
  simp (disch := decide) only [decodeTileStore, needZero, need, fld_body, bit_body, wheel_mk, extract_high, extract_low, extract_all, extract_zero, Nat.sub_self, Nat.reduceSub, withField, BitVec.getLsbD_append]
  simp [needWf_ok h]
theorem tredst (w : Wheel) (a : Pair) (b : Pair) (s : SReg) (cc : Cc) (uint : Bool) : Statement (.tredst w a b s cc uint) := by
  refine oneWord rfl rfl fun h => ?_
  rw [short_TileStore _ (fld_major _ _ _)]
  simp (disch := decide) only [decodeTileStore, needZero, need, fld_body, bit_body, wheel_mk, extract_high, extract_low, extract_all, extract_zero, Nat.sub_self, Nat.reduceSub, withField, BitVec.getLsbD_append]
  simp [needWf_ok h]
theorem tcommit (w : Wheel) (a : Pair) (b : Pair) (s : SReg) (cc : Cc) (uint : Bool) (scope : Scope) : Statement (.tcommit w a b s cc uint scope) := by
  refine oneWord rfl rfl fun h => ?_
  rw [short_TileStore _ (fld_major _ _ _)]
  simp (disch := decide) only [decodeTileStore, needZero, need, fld_body, bit_body, wheel_mk, extract_high, extract_low, extract_all, Nat.sub_self, Nat.reduceSub, withField, scope_code, BitVec.getLsbD_append]
  simp [needWf_ok h]
theorem tcopy (w : Wheel) (a : Pair) (b : Pair) (s : SReg) (cc : Cc) (uint : Bool) : Statement (.tcopy w a b s cc uint) := by
  refine oneWord rfl rfl fun h => ?_
  rw [short_TileCopy _ (fld_major _ _ _)]
  simp (disch := decide) only [decodeTileCopy, needZero, need, fld_body, bit_body, wheel_mk, extract_high, extract_low, extract_all, extract_zero, Nat.sub_self, Nat.reduceSub, withField, BitVec.getLsbD_append]
  simp [needWf_ok h]
theorem tfill (w : Wheel) (a : Pair) (s : SReg) (cc : Cc) (uint : Bool) (kind : FillKind) : Statement (.tfill w a s cc uint kind) := by
  refine oneWord rfl rfl fun h => ?_
  rw [short_TileCopy _ (fld_major _ _ _)]
  simp (disch := decide) only [decodeTileCopy, needZero, need, fld_body, bit_body, wheel_mk, extract_high, extract_low, extract_all, extract_zero, Nat.sub_self, Nat.reduceSub, withField, fill_code, BitVec.getLsbD_append]
  simp [needWf_ok h]
theorem tdedup (w : Wheel) (a : Pair) (b : Pair) (s : SReg) (cc : Cc) (uint : Bool) : Statement (.tdedup w a b s cc uint) := by
  refine oneWord rfl rfl fun h => ?_
  rw [short_TileCopy _ (fld_major _ _ _)]
  simp (disch := decide) only [decodeTileCopy, needZero, need, fld_body, bit_body, wheel_mk, extract_high, extract_low, extract_all, extract_zero, Nat.sub_self, Nat.reduceSub, withField, BitVec.getLsbD_append]
  simp [needWf_ok h]
theorem tpromo (w : Wheel) (a : Pair) (s : SReg) (cc : Cc) (uint : Bool) : Statement (.tpromo w a s cc uint) := by
  refine oneWord rfl rfl fun h => ?_
  rw [short_TileCopy _ (fld_major _ _ _)]
  simp (disch := decide) only [decodeTileCopy, needZero, need, fld_body, bit_body, wheel_mk, extract_high, extract_low, extract_all, extract_zero, Nat.sub_self, Nat.reduceSub, withField, BitVec.getLsbD_append]
  simp [needWf_ok h]
theorem talias (w : Wheel) (a : Pair) (b : Pair) (s : SReg) (cc : Cc) (uint : Bool) : Statement (.talias w a b s cc uint) := by
  refine oneWord rfl rfl fun h => ?_
  rw [short_TileCopy _ (fld_major _ _ _)]
  simp (disch := decide) only [decodeTileCopy, needZero, need, fld_body, bit_body, wheel_mk, extract_high, extract_low, extract_all, extract_zero, Nat.sub_self, Nat.reduceSub, withField, BitVec.getLsbD_append]
  simp [needWf_ok h]
theorem tinfo (w : Wheel) (a : Pair) (s : SReg) (word : BitVec 3) : Statement (.tinfo w a s word) := by
  refine oneWord rfl rfl fun h => ?_
  rw [short_TileInfo _ (fld_major _ _ _)]
  simp (disch := decide) only [decodeTileInfo, needZero, need, fld_body, wheel_mk, extract_high, extract_low, extract_all, extract_zero, Nat.sub_self, Nat.reduceSub, needWf_ok h]
  rfl
theorem cnarrow (w : Wheel) (d : Pair) (a : Pair) (b : SReg) : Statement (.cnarrow w d a b) := by
  refine oneWord rfl rfl fun h => ?_
  have hp : (pairOk d && pairOk a) = true := h
  rw [Bool.and_eq_true] at hp
  rw [short_Cap _ (fld_major _ _ _)]
  simp (disch := decide) only [decodeCap, needZero, need, fld_body, wheel_mk, extract_high, extract_low, extract_all, extract_zero, Nat.sub_self, Nat.reduceSub, withField, pair_field hp.1, pair_field hp.2]
  rfl
theorem cperm (w : Wheel) (d : Pair) (a : Pair) (b : SReg) : Statement (.cperm w d a b) := by
  refine oneWord rfl rfl fun h => ?_
  have hp : (pairOk d && pairOk a) = true := h
  rw [Bool.and_eq_true] at hp
  rw [short_Cap _ (fld_major _ _ _)]
  simp (disch := decide) only [decodeCap, needZero, need, fld_body, wheel_mk, extract_high, extract_low, extract_all, extract_zero, Nat.sub_self, Nat.reduceSub, withField, pair_field hp.1, pair_field hp.2]
  rfl
theorem cget (w : Wheel) (d : SReg) (a : Pair) (sel : BitVec 4) : Statement (.cget w d a sel) := by
  refine oneWord rfl rfl fun h => ?_
  have hp : (pairOk a && decide (sel.toNat ≤ 6)) = true := h
  rw [Bool.and_eq_true] at hp
  rw [short_Cap _ (fld_major _ _ _)]
  simp (disch := decide) only [decodeCap, needZero, need, fld_body, wheel_mk, extract_high, extract_low, extract_all, extract_zero, Nat.sub_self, Nat.reduceSub, needWf_ok h, withField, pair_field hp.1]
  rfl
theorem ctag (w : Wheel) (d : SReg) (a : Pair) : Statement (.ctag w d a) := by
  refine oneWord rfl rfl fun h => ?_
  have hp : pairOk a = true := h
  rw [short_Cap _ (fld_major _ _ _)]
  simp (disch := decide) only [decodeCap, needZero, need, fld_body, wheel_mk, extract_high, extract_low, extract_all, extract_zero, Nat.sub_self, Nat.reduceSub, withField, pair_field hp]
  rfl
theorem mma (w : Wheel) (acc : AccId) (a : Pair) (b : Pair) (c : Pair) (cc : Cc) (uint : Bool) (tb : Bool) (ta : Bool) (hold : Bool) (ovr : Bool) : Statement (.mma w acc a b c cc uint tb ta hold ovr) := by
  refine oneWord rfl rfl fun h => ?_
  rw [short_Mma _ (fld_major _ _ _)]
  simp (disch := decide) only [decodeMma, needZero, need, fld_body, bit_body, wheel_mk, extract_high, extract_low, extract_all, extract_zero, Nat.sub_self, Nat.reduceSub, acc_code, mmaFlags, BitVec.getLsbD_append]
  simp [needWf_ok h]
theorem macc (w : Wheel) (acc : AccId) (c : Pair) (cc : Cc) (uint : Bool) (ovr : Bool) : Statement (.macc w acc c cc uint ovr) := by
  refine oneWord rfl rfl fun h => ?_
  rw [short_Macc _ (fld_major _ _ _)]
  simp (disch := decide) only [decodeMacc, needZero, need, fld_body, bit_body, wheel_mk, extract_high, extract_low, extract_all, zero_span, extract_zero, Nat.sub_self, Nat.reduceSub, acc_code, mmaFlags, BitVec.getLsbD_append]
  simp [needWf_ok h]
theorem mzero (w : Wheel) (acc : AccId) (cc : Cc) (uint : Bool) : Statement (.mzero w acc cc uint) := by
  refine oneWord rfl rfl fun h => ?_
  rw [short_Mzero _ (fld_major _ _ _)]
  simp (disch := decide) only [decodeMzero, needZero, need, fld_body, bit_body, wheel_mk, extract_high, extract_low, extract_all, zero_span, extract_zero, Nat.sub_self, Nat.reduceSub, acc_code, mmaFlags, BitVec.getLsbD_append]
  simp []
theorem mdrain (w : Wheel) (acc : AccId) (d : Pair) (cc : Cc) (uint : Bool) (mode : Option RMode) (q : QuantKind) (int : Bool) : Statement (.mdrain w acc d cc uint mode q int) := by
  refine oneWord rfl rfl fun h => ?_
  rw [short_Mdrain _ (fld_major _ _ _)]
  simp (disch := decide) only [decodeMdrain, needZero, need, fld_body, bit_body, wheel_mk, extract_high, extract_low, extract_all, zero_span, extract_zero, Nat.sub_self, Nat.reduceSub, withField, acc_code, quant_code, mode_code3, BitVec.getLsbD_append]
  simp [needWf_ok h]
theorem mstat (w : Wheel) (acc : AccId) (d : SReg) (clrs : Bool) (clrf : Bool) : Statement (.mstat w acc d clrs clrf) := by
  refine oneWord rfl rfl fun h => ?_
  rw [short_Mstat _ (fld_major _ _ _)]
  simp (disch := decide) only [decodeMstat, needZero, need, fld_body, bit_body, wheel_mk, extract_high, extract_low, extract_all, zero_span, extract_zero, Nat.sub_self, Nat.reduceSub, acc_code, BitVec.getLsbD_append]
  simp []
theorem mmov (w : Wheel) (acc : AccId) (src : AccId) (cc : Cc) (uint : Bool) (swap : Bool) : Statement (.mmov w acc src cc uint swap) := by
  refine oneWord rfl rfl fun h => ?_
  rw [short_Mmov _ (fld_major _ _ _)]
  simp (disch := decide) only [decodeMmov, needZero, need, fld_body, bit_body, wheel_mk, extract_high, extract_low, extract_all, zero_span, extract_zero, Nat.sub_self, Nat.reduceSub, acc_code, BitVec.getLsbD_append]
  simp []
theorem vadd (w : Wheel) (d : VReg) (a : VReg) (b : VReg) (k : KReg) : Statement (.vadd w d a b k) := by
  refine oneWord rfl rfl fun h => ?_
  rw [short_VecFloat _ (fld_major _ _ _)]
  simp (disch := decide) only [decodeVecFloat, needZero, need, fld_body, wheel_mk, extract_high, extract_low, extract_all, extract_zero, Nat.sub_self, Nat.reduceSub]
  simp []
theorem vsub (w : Wheel) (d : VReg) (a : VReg) (b : VReg) (k : KReg) : Statement (.vsub w d a b k) := by
  refine oneWord rfl rfl fun h => ?_
  rw [short_VecFloat _ (fld_major _ _ _)]
  simp (disch := decide) only [decodeVecFloat, needZero, need, fld_body, wheel_mk, extract_high, extract_low, extract_all, Nat.sub_self, Nat.reduceSub]
  simp []
theorem vmul (w : Wheel) (d : VReg) (a : VReg) (b : VReg) (k : KReg) : Statement (.vmul w d a b k) := by
  refine oneWord rfl rfl fun h => ?_
  rw [short_VecFloat _ (fld_major _ _ _)]
  simp (disch := decide) only [decodeVecFloat, needZero, need, fld_body, wheel_mk, extract_high, extract_low, extract_all, Nat.sub_self, Nat.reduceSub]
  simp []
theorem vfma (w : Wheel) (d : VReg) (a : VReg) (b : VReg) (k : KReg) : Statement (.vfma w d a b k) := by
  refine oneWord rfl rfl fun h => ?_
  rw [short_VecFloat _ (fld_major _ _ _)]
  simp (disch := decide) only [decodeVecFloat, needZero, need, fld_body, wheel_mk, extract_high, extract_low, extract_all, Nat.sub_self, Nat.reduceSub]
  simp []
theorem vfms (w : Wheel) (d : VReg) (a : VReg) (b : VReg) (k : KReg) : Statement (.vfms w d a b k) := by
  refine oneWord rfl rfl fun h => ?_
  rw [short_VecFloat _ (fld_major _ _ _)]
  simp (disch := decide) only [decodeVecFloat, needZero, need, fld_body, wheel_mk, extract_high, extract_low, extract_all, Nat.sub_self, Nat.reduceSub]
  simp []
theorem vfnma (w : Wheel) (d : VReg) (a : VReg) (b : VReg) (k : KReg) : Statement (.vfnma w d a b k) := by
  refine oneWord rfl rfl fun h => ?_
  rw [short_VecFloat _ (fld_major _ _ _)]
  simp (disch := decide) only [decodeVecFloat, needZero, need, fld_body, wheel_mk, extract_high, extract_low, extract_all, Nat.sub_self, Nat.reduceSub]
  simp []
theorem vmin (w : Wheel) (d : VReg) (a : VReg) (b : VReg) (k : KReg) : Statement (.vmin w d a b k) := by
  refine oneWord rfl rfl fun h => ?_
  rw [short_VecFloat _ (fld_major _ _ _)]
  simp (disch := decide) only [decodeVecFloat, needZero, need, fld_body, wheel_mk, extract_high, extract_low, extract_all, Nat.sub_self, Nat.reduceSub]
  simp []
theorem vmax (w : Wheel) (d : VReg) (a : VReg) (b : VReg) (k : KReg) : Statement (.vmax w d a b k) := by
  refine oneWord rfl rfl fun h => ?_
  rw [short_VecFloat _ (fld_major _ _ _)]
  simp (disch := decide) only [decodeVecFloat, needZero, need, fld_body, wheel_mk, extract_high, extract_low, extract_all, Nat.sub_self, Nat.reduceSub]
  simp []
theorem vabs (w : Wheel) (d : VReg) (a : VReg) (k : KReg) : Statement (.vabs w d a k) := by
  refine oneWord rfl rfl fun h => ?_
  rw [short_VecFloat _ (fld_major _ _ _)]
  simp (disch := decide) only [decodeVecFloat, needZero, need, fld_body, wheel_mk, extract_high, extract_low, extract_all, extract_zero, Nat.sub_self, Nat.reduceSub]
  simp []
theorem vneg (w : Wheel) (d : VReg) (a : VReg) (k : KReg) : Statement (.vneg w d a k) := by
  refine oneWord rfl rfl fun h => ?_
  rw [short_VecFloat _ (fld_major _ _ _)]
  simp (disch := decide) only [decodeVecFloat, needZero, need, fld_body, wheel_mk, extract_high, extract_low, extract_all, extract_zero, Nat.sub_self, Nat.reduceSub]
  simp []
theorem vdiv (w : Wheel) (d : VReg) (a : VReg) (b : VReg) (k : KReg) : Statement (.vdiv w d a b k) := by
  refine oneWord rfl rfl fun h => ?_
  rw [short_VecFloat _ (fld_major _ _ _)]
  simp (disch := decide) only [decodeVecFloat, needZero, need, fld_body, wheel_mk, extract_high, extract_low, extract_all, Nat.sub_self, Nat.reduceSub]
  simp []
theorem vsqrt (w : Wheel) (d : VReg) (a : VReg) (k : KReg) : Statement (.vsqrt w d a k) := by
  refine oneWord rfl rfl fun h => ?_
  rw [short_VecSpecial _ (fld_major _ _ _)]
  simp (disch := decide) only [decodeVecSpecial, needZero, need, fld_body, wheel_mk, extract_high, extract_low, extract_all, extract_zero, Nat.sub_self, Nat.reduceSub, withField]
  simp []
theorem vrsq (w : Wheel) (d : VReg) (a : VReg) (k : KReg) : Statement (.vrsq w d a k) := by
  refine oneWord rfl rfl fun h => ?_
  rw [short_VecSpecial _ (fld_major _ _ _)]
  simp (disch := decide) only [decodeVecSpecial, needZero, need, fld_body, wheel_mk, extract_high, extract_low, extract_all, extract_zero, Nat.sub_self, Nat.reduceSub, withField]
  simp []
theorem vrcp (w : Wheel) (d : VReg) (a : VReg) (k : KReg) : Statement (.vrcp w d a k) := by
  refine oneWord rfl rfl fun h => ?_
  rw [short_VecSpecial _ (fld_major _ _ _)]
  simp (disch := decide) only [decodeVecSpecial, needZero, need, fld_body, wheel_mk, extract_high, extract_low, extract_all, extract_zero, Nat.sub_self, Nat.reduceSub, withField]
  simp []
theorem vexp2 (w : Wheel) (d : VReg) (a : VReg) (k : KReg) : Statement (.vexp2 w d a k) := by
  refine oneWord rfl rfl fun h => ?_
  rw [short_VecSpecial _ (fld_major _ _ _)]
  simp (disch := decide) only [decodeVecSpecial, needZero, need, fld_body, wheel_mk, extract_high, extract_low, extract_all, extract_zero, Nat.sub_self, Nat.reduceSub, withField]
  simp []
theorem vlog2 (w : Wheel) (d : VReg) (a : VReg) (k : KReg) : Statement (.vlog2 w d a k) := by
  refine oneWord rfl rfl fun h => ?_
  rw [short_VecSpecial _ (fld_major _ _ _)]
  simp (disch := decide) only [decodeVecSpecial, needZero, need, fld_body, wheel_mk, extract_high, extract_low, extract_all, extract_zero, Nat.sub_self, Nat.reduceSub, withField]
  simp []
theorem vtanh (w : Wheel) (d : VReg) (a : VReg) (k : KReg) : Statement (.vtanh w d a k) := by
  refine oneWord rfl rfl fun h => ?_
  rw [short_VecSpecial _ (fld_major _ _ _)]
  simp (disch := decide) only [decodeVecSpecial, needZero, need, fld_body, wheel_mk, extract_high, extract_low, extract_all, extract_zero, Nat.sub_self, Nat.reduceSub, withField]
  simp []
theorem vsigm (w : Wheel) (d : VReg) (a : VReg) (k : KReg) : Statement (.vsigm w d a k) := by
  refine oneWord rfl rfl fun h => ?_
  rw [short_VecSpecial _ (fld_major _ _ _)]
  simp (disch := decide) only [decodeVecSpecial, needZero, need, fld_body, wheel_mk, extract_high, extract_low, extract_all, extract_zero, Nat.sub_self, Nat.reduceSub, withField]
  simp []
theorem vceq (w : Wheel) (d : KReg) (a : VReg) (b : VReg) (k : KReg) : Statement (.vceq w d a b k) := by
  refine oneWord rfl rfl fun h => ?_
  rw [short_VecSpecial _ (fld_major _ _ _)]
  simp (disch := decide) only [decodeVecSpecial, needZero, need, fld_body, wheel_mk, extract_high, extract_low, extract_all, Nat.sub_self, Nat.reduceSub, withField, pred_field]
  simp []
theorem vcne (w : Wheel) (d : KReg) (a : VReg) (b : VReg) (k : KReg) : Statement (.vcne w d a b k) := by
  refine oneWord rfl rfl fun h => ?_
  rw [short_VecSpecial _ (fld_major _ _ _)]
  simp (disch := decide) only [decodeVecSpecial, needZero, need, fld_body, wheel_mk, extract_high, extract_low, extract_all, Nat.sub_self, Nat.reduceSub, withField, pred_field]
  simp []
theorem vclt (w : Wheel) (d : KReg) (a : VReg) (b : VReg) (k : KReg) : Statement (.vclt w d a b k) := by
  refine oneWord rfl rfl fun h => ?_
  rw [short_VecSpecial _ (fld_major _ _ _)]
  simp (disch := decide) only [decodeVecSpecial, needZero, need, fld_body, wheel_mk, extract_high, extract_low, extract_all, Nat.sub_self, Nat.reduceSub, withField, pred_field]
  simp []
theorem vcle (w : Wheel) (d : KReg) (a : VReg) (b : VReg) (k : KReg) : Statement (.vcle w d a b k) := by
  refine oneWord rfl rfl fun h => ?_
  rw [short_VecSpecial _ (fld_major _ _ _)]
  simp (disch := decide) only [decodeVecSpecial, needZero, need, fld_body, wheel_mk, extract_high, extract_low, extract_all, Nat.sub_self, Nat.reduceSub, withField, pred_field]
  simp []
theorem vcun (w : Wheel) (d : KReg) (a : VReg) (b : VReg) (k : KReg) : Statement (.vcun w d a b k) := by
  refine oneWord rfl rfl fun h => ?_
  rw [short_VecSpecial _ (fld_major _ _ _)]
  simp (disch := decide) only [decodeVecSpecial, needZero, need, fld_body, wheel_mk, extract_high, extract_low, extract_all, Nat.sub_self, Nat.reduceSub, withField, pred_field]
  simp []
theorem viadd (w : Wheel) (d : VReg) (a : VReg) (b : VReg) (k : KReg) : Statement (.viadd w d a b k) := by
  refine oneWord rfl rfl fun h => ?_
  rw [short_VecInt _ (fld_major _ _ _)]
  simp (disch := decide) only [decodeVecInt, needZero, need, fld_body, wheel_mk, extract_high, extract_low, extract_all, extract_zero, Nat.sub_self, Nat.reduceSub]
  simp []
theorem visub (w : Wheel) (d : VReg) (a : VReg) (b : VReg) (k : KReg) : Statement (.visub w d a b k) := by
  refine oneWord rfl rfl fun h => ?_
  rw [short_VecInt _ (fld_major _ _ _)]
  simp (disch := decide) only [decodeVecInt, needZero, need, fld_body, wheel_mk, extract_high, extract_low, extract_all, Nat.sub_self, Nat.reduceSub]
  simp []
theorem vimul (w : Wheel) (d : VReg) (a : VReg) (b : VReg) (k : KReg) : Statement (.vimul w d a b k) := by
  refine oneWord rfl rfl fun h => ?_
  rw [short_VecInt _ (fld_major _ _ _)]
  simp (disch := decide) only [decodeVecInt, needZero, need, fld_body, wheel_mk, extract_high, extract_low, extract_all, Nat.sub_self, Nat.reduceSub]
  simp []
theorem vand (w : Wheel) (d : VReg) (a : VReg) (b : VReg) (k : KReg) : Statement (.vand w d a b k) := by
  refine oneWord rfl rfl fun h => ?_
  rw [short_VecInt _ (fld_major _ _ _)]
  simp (disch := decide) only [decodeVecInt, needZero, need, fld_body, wheel_mk, extract_high, extract_low, extract_all, Nat.sub_self, Nat.reduceSub]
  simp []
theorem vor (w : Wheel) (d : VReg) (a : VReg) (b : VReg) (k : KReg) : Statement (.vor w d a b k) := by
  refine oneWord rfl rfl fun h => ?_
  rw [short_VecInt _ (fld_major _ _ _)]
  simp (disch := decide) only [decodeVecInt, needZero, need, fld_body, wheel_mk, extract_high, extract_low, extract_all, Nat.sub_self, Nat.reduceSub]
  simp []
theorem vxor (w : Wheel) (d : VReg) (a : VReg) (b : VReg) (k : KReg) : Statement (.vxor w d a b k) := by
  refine oneWord rfl rfl fun h => ?_
  rw [short_VecInt _ (fld_major _ _ _)]
  simp (disch := decide) only [decodeVecInt, needZero, need, fld_body, wheel_mk, extract_high, extract_low, extract_all, Nat.sub_self, Nat.reduceSub]
  simp []
theorem vshl (w : Wheel) (d : VReg) (a : VReg) (b : VReg) (k : KReg) : Statement (.vshl w d a b k) := by
  refine oneWord rfl rfl fun h => ?_
  rw [short_VecInt _ (fld_major _ _ _)]
  simp (disch := decide) only [decodeVecInt, needZero, need, fld_body, wheel_mk, extract_high, extract_low, extract_all, Nat.sub_self, Nat.reduceSub]
  simp []
theorem vshr (w : Wheel) (d : VReg) (a : VReg) (b : VReg) (k : KReg) : Statement (.vshr w d a b k) := by
  refine oneWord rfl rfl fun h => ?_
  rw [short_VecInt _ (fld_major _ _ _)]
  simp (disch := decide) only [decodeVecInt, needZero, need, fld_body, wheel_mk, extract_high, extract_low, extract_all, Nat.sub_self, Nat.reduceSub]
  simp []
theorem vsra (w : Wheel) (d : VReg) (a : VReg) (b : VReg) (k : KReg) : Statement (.vsra w d a b k) := by
  refine oneWord rfl rfl fun h => ?_
  rw [short_VecInt _ (fld_major _ _ _)]
  simp (disch := decide) only [decodeVecInt, needZero, need, fld_body, wheel_mk, extract_high, extract_low, extract_all, Nat.sub_self, Nat.reduceSub]
  simp []
theorem vimin (w : Wheel) (d : VReg) (a : VReg) (b : VReg) (k : KReg) : Statement (.vimin w d a b k) := by
  refine oneWord rfl rfl fun h => ?_
  rw [short_VecInt _ (fld_major _ _ _)]
  simp (disch := decide) only [decodeVecInt, needZero, need, fld_body, wheel_mk, extract_high, extract_low, extract_all, Nat.sub_self, Nat.reduceSub]
  simp []
theorem vimax (w : Wheel) (d : VReg) (a : VReg) (b : VReg) (k : KReg) : Statement (.vimax w d a b k) := by
  refine oneWord rfl rfl fun h => ?_
  rw [short_VecInt _ (fld_major _ _ _)]
  simp (disch := decide) only [decodeVecInt, needZero, need, fld_body, wheel_mk, extract_high, extract_low, extract_all, Nat.sub_self, Nat.reduceSub]
  simp []
theorem vrsum (w : Wheel) (a : VReg) (s : SReg) (k : KReg) : Statement (.vrsum w a s k) := by
  refine oneWord rfl rfl fun h => ?_
  rw [short_VecInt _ (fld_major _ _ _)]
  simp (disch := decide) only [decodeVecInt, needZero, need, fld_body, wheel_mk, extract_high, extract_low, extract_all, extract_zero, Nat.sub_self, Nat.reduceSub]
  simp []
theorem vrmax (w : Wheel) (a : VReg) (s : SReg) (k : KReg) : Statement (.vrmax w a s k) := by
  refine oneWord rfl rfl fun h => ?_
  rw [short_VecInt _ (fld_major _ _ _)]
  simp (disch := decide) only [decodeVecInt, needZero, need, fld_body, wheel_mk, extract_high, extract_low, extract_all, extract_zero, Nat.sub_self, Nat.reduceSub]
  simp []
theorem vrmin (w : Wheel) (a : VReg) (s : SReg) (k : KReg) : Statement (.vrmin w a s k) := by
  refine oneWord rfl rfl fun h => ?_
  rw [short_VecInt _ (fld_major _ _ _)]
  simp (disch := decide) only [decodeVecInt, needZero, need, fld_body, wheel_mk, extract_high, extract_low, extract_all, extract_zero, Nat.sub_self, Nat.reduceSub]
  simp []
theorem vrargmx (w : Wheel) (a : VReg) (s : SReg) (k : KReg) : Statement (.vrargmx w a s k) := by
  refine oneWord rfl rfl fun h => ?_
  rw [short_VecInt _ (fld_major _ _ _)]
  simp (disch := decide) only [decodeVecInt, needZero, need, fld_body, wheel_mk, extract_high, extract_low, extract_all, extract_zero, Nat.sub_self, Nat.reduceSub]
  simp []
theorem kand (w : Wheel) (d : KReg) (a : KReg) (b : KReg) (k : KReg) : Statement (.kand w d a b k) := by
  refine oneWord rfl rfl fun h => ?_
  rw [short_VecPred _ (fld_major _ _ _)]
  simp (disch := decide) only [decodeVecPred, needZero, need, fld_body, wheel_mk, extract_high, extract_low, extract_all, zero_span, extract_zero, Nat.sub_self, Nat.reduceSub, withField, pred_field]
  simp []
theorem kor (w : Wheel) (d : KReg) (a : KReg) (b : KReg) (k : KReg) : Statement (.kor w d a b k) := by
  refine oneWord rfl rfl fun h => ?_
  rw [short_VecPred _ (fld_major _ _ _)]
  simp (disch := decide) only [decodeVecPred, needZero, need, fld_body, wheel_mk, extract_high, extract_low, extract_all, zero_span, Nat.sub_self, Nat.reduceSub, withField, pred_field]
  simp []
theorem kxor (w : Wheel) (d : KReg) (a : KReg) (b : KReg) (k : KReg) : Statement (.kxor w d a b k) := by
  refine oneWord rfl rfl fun h => ?_
  rw [short_VecPred _ (fld_major _ _ _)]
  simp (disch := decide) only [decodeVecPred, needZero, need, fld_body, wheel_mk, extract_high, extract_low, extract_all, zero_span, Nat.sub_self, Nat.reduceSub, withField, pred_field]
  simp []
theorem knot (w : Wheel) (d : KReg) (a : KReg) (k : KReg) : Statement (.knot w d a k) := by
  refine oneWord rfl rfl fun h => ?_
  rw [short_VecPred _ (fld_major _ _ _)]
  simp (disch := decide) only [decodeVecPred, needZero, need, fld_body, wheel_mk, extract_high, extract_low, extract_all, zero_span, extract_zero, Nat.sub_self, Nat.reduceSub, withField, pred_field]
  simp []
theorem kpop (w : Wheel) (a : KReg) (s : SReg) (k : KReg) : Statement (.kpop w a s k) := by
  refine oneWord rfl rfl fun h => ?_
  rw [short_VecPred _ (fld_major _ _ _)]
  simp (disch := decide) only [decodeVecPred, needZero, need, fld_body, wheel_mk, extract_high, extract_low, extract_all, zero_span, extract_zero, Nat.sub_self, Nat.reduceSub, withField, pred_field]
  simp []
theorem kfirst (w : Wheel) (a : KReg) (s : SReg) (k : KReg) : Statement (.kfirst w a s k) := by
  refine oneWord rfl rfl fun h => ?_
  rw [short_VecPred _ (fld_major _ _ _)]
  simp (disch := decide) only [decodeVecPred, needZero, need, fld_body, wheel_mk, extract_high, extract_low, extract_all, zero_span, extract_zero, Nat.sub_self, Nat.reduceSub, withField, pred_field]
  simp []
theorem kset (w : Wheel) (d : KReg) (s : SReg) (k : KReg) : Statement (.kset w d s k) := by
  refine oneWord rfl rfl fun h => ?_
  rw [short_VecPred _ (fld_major _ _ _)]
  simp (disch := decide) only [decodeVecPred, needZero, need, fld_body, wheel_mk, extract_high, extract_low, extract_all, zero_span, extract_zero, Nat.sub_self, Nat.reduceSub, withField, pred_field]
  simp []
theorem vcvt (w : Wheel) (d : VReg) (a : VReg) (s : SReg) (k : KReg) : Statement (.vcvt w d a s k) := by
  refine oneWord rfl rfl fun h => ?_
  rw [short_VecPred _ (fld_major _ _ _)]
  simp (disch := decide) only [decodeVecPred, needZero, need, fld_body, wheel_mk, extract_high, extract_low, extract_all, zero_span, extract_zero, Nat.sub_self, Nat.reduceSub, withField]
  simp []
theorem vquant (w : Wheel) (d : VReg) (a : VReg) (s : SReg) (k : KReg) : Statement (.vquant w d a s k) := by
  refine oneWord rfl rfl fun h => ?_
  rw [short_VecPred _ (fld_major _ _ _)]
  simp (disch := decide) only [decodeVecPred, needZero, need, fld_body, wheel_mk, extract_high, extract_low, extract_all, zero_span, extract_zero, Nat.sub_self, Nat.reduceSub, needWf_ok h, withField]
  simp []
theorem vdeq (w : Wheel) (d : VReg) (a : VReg) (s : SReg) (k : KReg) : Statement (.vdeq w d a s k) := by
  refine oneWord rfl rfl fun h => ?_
  rw [short_VecPred _ (fld_major _ _ _)]
  simp (disch := decide) only [decodeVecPred, needZero, need, fld_body, wheel_mk, extract_high, extract_low, extract_all, zero_span, extract_zero, Nat.sub_self, Nat.reduceSub, needWf_ok h, withField]
  simp []
theorem vcfg (w : Wheel) (et : Fmt) (rm : Option RMode) : Statement (.vcfg w et rm) := by
  refine oneWord rfl rfl fun h => ?_
  rw [short_VecPred _ (fld_major _ _ _)]
  simp (disch := decide) only [decodeVecPred, needZero, need, fld_body, wheel_mk, extract_high, extract_low, extract_all, zero_span, extract_zero, Nat.sub_self, Nat.reduceSub, needWf_ok h, withField, mode_code5, fmt_code5]
  simp []
theorem vcomp (w : Wheel) (d : VReg) (a : VReg) (k : KReg) : Statement (.vcomp w d a k) := by
  refine oneWord rfl rfl fun h => ?_
  rw [short_VecPerm _ (fld_major _ _ _)]
  simp (disch := decide) only [decodeVecPerm, needZero, need, fld_body, wheel_mk, extract_high, extract_low, extract_all, extract_zero, Nat.sub_self, Nat.reduceSub]
  simp []
theorem vexpd (w : Wheel) (d : VReg) (a : VReg) (k : KReg) : Statement (.vexpd w d a k) := by
  refine oneWord rfl rfl fun h => ?_
  rw [short_VecPerm _ (fld_major _ _ _)]
  simp (disch := decide) only [decodeVecPerm, needZero, need, fld_body, wheel_mk, extract_high, extract_low, extract_all, extract_zero, Nat.sub_self, Nat.reduceSub]
  simp []
theorem vperm (w : Wheel) (d : VReg) (a : VReg) (b : VReg) (k : KReg) : Statement (.vperm w d a b k) := by
  refine oneWord rfl rfl fun h => ?_
  rw [short_VecPerm _ (fld_major _ _ _)]
  simp (disch := decide) only [decodeVecPerm, needZero, need, fld_body, wheel_mk, extract_high, extract_low, extract_all, Nat.sub_self, Nat.reduceSub]
  simp []
theorem vslide (w : Wheel) (d : VReg) (a : VReg) (s : SReg) (k : KReg) : Statement (.vslide w d a s k) := by
  refine oneWord rfl rfl fun h => ?_
  rw [short_VecPerm _ (fld_major _ _ _)]
  simp (disch := decide) only [decodeVecPerm, needZero, need, fld_body, wheel_mk, extract_high, extract_low, extract_all, zero_span, extract_zero, Nat.sub_self, Nat.reduceSub]
  simp []
theorem vbcast (w : Wheel) (d : VReg) (s : SReg) (k : KReg) : Statement (.vbcast w d s k) := by
  refine oneWord rfl rfl fun h => ?_
  rw [short_VecPerm _ (fld_major _ _ _)]
  simp (disch := decide) only [decodeVecPerm, needZero, need, fld_body, wheel_mk, extract_high, extract_low, extract_all, zero_span, extract_zero, Nat.sub_self, Nat.reduceSub]
  simp []
theorem viota (w : Wheel) (d : VReg) (s : SReg) (k : KReg) : Statement (.viota w d s k) := by
  refine oneWord rfl rfl fun h => ?_
  rw [short_VecPerm _ (fld_major _ _ _)]
  simp (disch := decide) only [decodeVecPerm, needZero, need, fld_body, wheel_mk, extract_high, extract_low, extract_all, zero_span, extract_zero, Nat.sub_self, Nat.reduceSub]
  simp []
theorem vsel (w : Wheel) (d : VReg) (a : VReg) (b : VReg) (k : KReg) : Statement (.vsel w d a b k) := by
  refine oneWord rfl rfl fun h => ?_
  rw [short_VecPerm _ (fld_major _ _ _)]
  simp (disch := decide) only [decodeVecPerm, needZero, need, fld_body, wheel_mk, extract_high, extract_low, extract_all, Nat.sub_self, Nat.reduceSub]
  simp []
theorem vmov (w : Wheel) (d : VReg) (a : VReg) (k : KReg) : Statement (.vmov w d a k) := by
  refine oneWord rfl rfl fun h => ?_
  rw [short_VecPerm _ (fld_major _ _ _)]
  simp (disch := decide) only [decodeVecPerm, needZero, need, fld_body, wheel_mk, extract_high, extract_low, extract_all, extract_zero, Nat.sub_self, Nat.reduceSub]
  simp []
theorem vext (w : Wheel) (a : VReg) (s : SReg) : Statement (.vext w a s) := by
  refine oneWord rfl rfl fun h => ?_
  rw [short_VecPerm _ (fld_major _ _ _)]
  simp (disch := decide) only [decodeVecPerm, needZero, need, fld_body, wheel_mk, extract_high, extract_low, extract_all, zero_span, extract_zero, Nat.sub_self, Nat.reduceSub]
  simp []
theorem vins (w : Wheel) (d : VReg) (a : VReg) (s : SReg) (k : KReg) : Statement (.vins w d a s k) := by
  refine oneWord rfl rfl fun h => ?_
  rw [short_VecPerm _ (fld_major _ _ _)]
  simp (disch := decide) only [decodeVecPerm, needZero, need, fld_body, wheel_mk, extract_high, extract_low, extract_all, zero_span, extract_zero, Nat.sub_self, Nat.reduceSub]
  simp []
theorem vld (w : Wheel) (v : VReg) (a : SReg) (imm : BitVec 6) (k : KReg) (tile : Bool) (queue : Bool) : Statement (.vld w v a imm k tile queue) := by
  refine oneWord rfl rfl fun h => ?_
  rw [short_VecMem _ (fld_major _ _ _)]
  simp (disch := decide) only [decodeVecMem, needZero, need, fld_body, bit_body, wheel_mk, extract_high, extract_low, extract_all, extract_zero, Nat.sub_self, Nat.reduceSub, BitVec.getLsbD_append]
  simp [needWf_ok h]
theorem vldg (w : Wheel) (v : VReg) (a : SReg) (vi : VReg) (k : KReg) (queue : Bool) : Statement (.vldg w v a vi k queue) := by
  refine oneWord rfl rfl fun h => ?_
  rw [short_VecMem _ (fld_major _ _ _)]
  simp (disch := decide) only [decodeVecMem, needZero, need, fld_body, bit_body, wheel_mk, extract_high, extract_low, extract_all, extract_widened, extract_above, Nat.sub_self, Nat.reduceSub, BitVec.getLsbD_append]
  simp [needWf_ok h]
theorem vst (w : Wheel) (v : VReg) (a : SReg) (imm : BitVec 6) (k : KReg) (tile : Bool) (queue : Bool) : Statement (.vst w v a imm k tile queue) := by
  refine oneWord rfl rfl fun h => ?_
  rw [short_VecMem _ (fld_major _ _ _)]
  simp (disch := decide) only [decodeVecMem, needZero, need, fld_body, bit_body, wheel_mk, extract_high, extract_low, extract_all, Nat.sub_self, Nat.reduceSub, BitVec.getLsbD_append]
  simp [needWf_ok h]
theorem vsts (w : Wheel) (v : VReg) (a : SReg) (vi : VReg) (k : KReg) (queue : Bool) : Statement (.vsts w v a vi k queue) := by
  refine oneWord rfl rfl fun h => ?_
  rw [short_VecMem _ (fld_major _ _ _)]
  simp (disch := decide) only [decodeVecMem, needZero, need, fld_body, bit_body, wheel_mk, extract_high, extract_low, extract_all, extract_widened, extract_above, Nat.sub_self, Nat.reduceSub, BitVec.getLsbD_append]
  simp [needWf_ok h]
theorem qrn (w : Wheel) (d : VReg) (a : VReg) (s : SReg) (k : KReg) : Statement (.qrn w d a s k) := by
  refine oneWord rfl rfl fun h => ?_
  rw [short_Misc _ (fld_major _ _ _)]
  simp (disch := decide) only [decodeMisc, needZero, need, fld_body, wheel_mk, extract_high, extract_low, extract_all, zero_span, extract_zero, Nat.sub_self, Nat.reduceSub, withField]
  simp []
theorem qcfg (w : Wheel) (set : BitVec 8) : Statement (.qcfg w set) := by
  refine oneWord rfl rfl fun h => ?_
  rw [short_Misc _ (fld_major _ _ _)]
  simp (disch := decide) only [decodeMisc, needZero, need, fld_body, wheel_mk, extract_high, extract_low, extract_all, zero_span, extract_zero, extract_widened, extract_above, Nat.sub_self, Nat.reduceSub, withField]
  simp []
theorem qldt (w : Wheel) (a : SReg) (dim : BitVec 6) : Statement (.qldt w a dim) := by
  refine oneWord rfl rfl fun h => ?_
  rw [short_Misc _ (fld_major _ _ _)]
  simp (disch := decide) only [decodeMisc, needZero, need, fld_body, wheel_mk, extract_high, extract_low, extract_all, zero_span, extract_zero, extract_widened, extract_above, Nat.sub_self, Nat.reduceSub, withField]
  simp []
theorem vtok (w : Wheel) (d : VReg) (a : VReg) (s : SReg) (k : KReg) : Statement (.vtok w d a s k) := by
  refine oneWord rfl rfl fun h => ?_
  rw [short_Misc _ (fld_major _ _ _)]
  simp (disch := decide) only [decodeMisc, needZero, need, fld_body, wheel_mk, extract_high, extract_low, extract_all, zero_span, extract_zero, Nat.sub_self, Nat.reduceSub, withField]
  simp []
theorem pvset (w : Wheel) (a : SReg) : Statement (.pvset w a) := by
  refine oneWord rfl rfl fun h => ?_
  rw [short_Misc _ (fld_major _ _ _)]
  simp (disch := decide) only [decodeMisc, needZero, need, fld_body, wheel_mk, extract_high, extract_low, extract_all, zero_span, extract_zero, Nat.sub_self, Nat.reduceSub, withField]
  simp []
theorem tokbnd (w : Wheel) : Statement (.tokbnd w) := by
  refine oneWord rfl rfl fun h => ?_
  rw [short_Misc _ (fld_major _ _ _)]
  simp (disch := decide) only [decodeMisc, needZero, need, fld_body, wheel_mk, extract_high, extract_low, extract_all, zero_span, extract_zero, Nat.sub_self, Nat.reduceSub, withField]
  simp []
theorem publ (w : Wheel) (cc : Cc) (a : Pair) (v : SReg) (scope : Scope) : Statement (.publ w cc a v scope) := by
  refine oneWord rfl rfl fun h => ?_
  have hp : (pairOk a && commitScopeOk scope) = true := h
  rw [Bool.and_eq_true] at hp
  rw [short_Misc _ (fld_major _ _ _)]
  simp (disch := decide) only [decodeMisc, needZero, need, fld_body, wheel_mk, extract_high, extract_low, extract_all, zero_span, Nat.sub_self, Nat.reduceSub, needWf_ok h, withField, scope_field6, scope_above6, scope_code, pair_field hp.1]
  simp []
theorem clkr (w : Wheel) (d : SReg) : Statement (.clkr w d) := by
  refine oneWord rfl rfl fun h => ?_
  rw [short_Misc _ (fld_major _ _ _)]
  simp (disch := decide) only [decodeMisc, needZero, need, fld_body, wheel_mk, extract_high, extract_low, extract_all, zero_span, extract_zero, Nat.sub_self, Nat.reduceSub, needWf_ok h, withField]
  simp []
theorem cwait (w : Wheel) : Statement (.cwait w) := by
  refine oneWord rfl rfl fun h => ?_
  rw [short_Misc _ (fld_major _ _ _)]
  simp (disch := decide) only [decodeMisc, needZero, need, fld_body, wheel_mk, extract_high, extract_low, extract_all, zero_span, extract_zero, Nat.sub_self, Nat.reduceSub, withField]
  simp []
theorem qselWrite (v : Word) : Statement (.qselWrite v) := noWords rfl
theorem rcfgWrite (v : Word) : Statement (.rcfgWrite v) := noWords rfl
theorem fqheadWrite (v : Word) : Statement (.fqheadWrite v) := noWords rfl
theorem submit (v : Word) : Statement (.submit v) := noWords rfl
theorem tapselWrite (v : Word) : Statement (.tapselWrite v) := noWords rfl
theorem inval (v : Word) : Statement (.inval v) := noWords rfl
theorem invalComplete : Statement .invalComplete := noWords rfl
theorem mgmtRegisterWrite (acc : WinAccess) (v : Word) : Statement (.mgmtRegisterWrite acc v) := noWords rfl
theorem ownerNew : Statement .ownerNew := noWords rfl
theorem ownerDel : Statement .ownerDel := noWords rfl
theorem setRoot : Statement .setRoot := noWords rfl
theorem setTtb : Statement .setTtb := noWords rfl
theorem keyLoad : Statement .keyLoad := noWords rfl
theorem keyUse : Statement .keyUse := noWords rfl
theorem keyRetire : Statement .keyRetire := noWords rfl
theorem exportWin : Statement .exportWin := noWords rfl
theorem revoke : Statement .revoke := noWords rfl
theorem importWin : Statement .importWin := noWords rfl
theorem unimport : Statement .unimport := noWords rfl
theorem sigPolicy : Statement .sigPolicy := noWords rfl
theorem errRead : Statement .errRead := noWords rfl
theorem quote : Statement .quote := noWords rfl
theorem mailboxResult : Statement .mailboxResult := noWords rfl
theorem hostRawAccess (write : Bool) (tier : Tier) (pa : Nat) (bytes : List Byte) : Statement (.hostRawAccess write tier pa bytes) := noWords rfl
theorem tileApertureRead (off : Nat) (len : Nat) : Statement (.tileApertureRead off len) := noWords rfl
theorem tileApertureWrite (off : Nat) (bytes : List Byte) : Statement (.tileApertureWrite off bytes) := noWords rfl
theorem outsideAgentRead (port : Option Nat) (owner : BitVec 16) (index : BitVec 32) : Statement (.outsideAgentRead port owner index) := noWords rfl
theorem peerRequest (owner : BitVec 16) (window : BitVec 16) (op : PeerReq) : Statement (.peerRequest owner window op) := noWords rfl
theorem dispatch : Statement .dispatch := noWords rfl
theorem probeAck (launch : Nat) : Statement (.probeAck launch) := noWords rfl
theorem probeTimeout (launch : Nat) : Statement (.probeTimeout launch) := noWords rfl
theorem gangStart (launch : Nat) : Statement (.gangStart launch) := noWords rfl
theorem grantRelease (note : GrantNote) : Statement (.grantRelease note) := noWords rfl
theorem launchAgeing (launch : Nat) : Statement (.launchAgeing launch) := noWords rfl
theorem preemptSave : Statement .preemptSave := noWords rfl
theorem safeHoldRelease : Statement .safeHoldRelease := noWords rfl
theorem resume (uid : Nat) : Statement (.resume uid) := noWords rfl
theorem faultEntryWrite (die : BitVec 2) : Statement (.faultEntryWrite die) := noWords rfl
theorem faultResume (seq : BitVec 32) : Statement (.faultResume seq) := noWords rfl
theorem wheelStall : Statement .wheelStall := noWords rfl
theorem uintDelivery : Statement .uintDelivery := noWords rfl
theorem machineError : Statement .machineError := noWords rfl
theorem copyEngineCompletion (n : Nat) : Statement (.copyEngineCompletion n) := noWords rfl
theorem matrixCommandCompletion : Statement .matrixCommandCompletion := noWords rfl
theorem orderedRequestArrival (n : Nat) : Statement (.orderedRequestArrival n) := noWords rfl
theorem aonWriteHold (n : Nat) : Statement (.aonWriteHold n) := noWords rfl
theorem queueSlotFill (q : QNum) (slot : Nat) : Statement (.queueSlotFill q slot) := noWords rfl
theorem barrierComplete (arrivals : Arrivals) : Statement (.barrierComplete arrivals) := noWords rfl
theorem markerHead (n : Nat) : Statement (.markerHead n) := noWords rfl
theorem beacon (die : BitVec 2) (now : Word) (earliest : Word) (latest : BeaconEnd) : Statement (.beacon die now earliest latest) := noWords rfl
theorem floorReport (die : BitVec 2) (package : Word) (known : GrantKnown) : Statement (.floorReport die package known) := noWords rfl
theorem versionCurrent (entry : Nat) : Statement (.versionCurrent entry) := noWords rfl
theorem flitReceived (port : Nat) (rec : Received) : Statement (.flitReceived port rec) := noWords rfl
theorem linkDown (loss : LinkLoss) : Statement (.linkDown loss) := noWords rfl
theorem linkTraining (port : Nat) (pressCap : Bool) (symCap : Bool) : Statement (.linkTraining port pressCap symCap) := noWords rfl
theorem tagFlit (port : Nat) (owner : BitVec 16) (ksel : Bool) (tag : TagEnd) : Statement (.tagFlit port owner ksel tag) := noWords rfl
theorem transferRevoked (n : Nat) : Statement (.transferRevoked n) := noWords rfl
theorem throttle (mhz : Nat) : Statement (.throttle mhz) := noWords rfl
theorem thermalShutdown (die : BitVec 2) : Statement (.thermalShutdown die) := noWords rfl
theorem boot (rec : BootRecord) : Statement (.boot rec) := noWords rfl
theorem dieReset (die : BitVec 2) : Statement (.dieReset die) := noWords rfl
theorem clockWide : Statement .clockWide := noWords rfl
theorem knownFloorPassesStamp (die : BitVec 2) (now : Word) : Statement (.knownFloorPassesStamp die now) := noWords rfl

end Sys2Proof.Laws.RoundTrip
end

