-- ==== Sys2Proof/Certificates/Slice0/Obligations.lean ====
section
/-!
DEFINITION. Certificates/Slice0/Obligations.lean: what is claimed of the model, from the numbered rules of spec/. A statement
of what an instruction does says that `exec` answers a next state, and which: `s.does w n f` is the effect f on the state in
which an instruction of n words acts (tokens taken, pc moved), and then its signals; `s.ends w t` is the same for an effect
that has given t.
-/

open Sys2Proof Sys2Proof.Machine

/-! ## Scalar registers -/

/-- R131, R69: what a write of a scalar register leaves: the register reads as the value, s0 reads as 0 whatever is written, every
other register reads as before, and the tag of the written register's pair, and no other, is cleared; a write of s0 changes
nothing. -/
def Obligations.ScalarWriteReadsBack : Prop :=
  ∀ (t : Stream) (d : SReg) (v : Word),
    (t.setReg d v).reg d = (if d = 0 then 0 else v) ∧ (t.setReg 0 v) = t ∧
    (∀ r : SReg, r ≠ d → (t.setReg d v).reg r = t.reg r) ∧
    (∀ p : Pair, p ≠ 0 → (t.setReg d v).tag p = (if d ≠ 0 ∧ d.toNat / 2 = p.toNat then false else t.tag p)) ∧
    (t.setReg d v).fpctl = t.fpctl ∧ (t.setReg d v).pc = t.pc

/-- R42, R167, R168: the arithmetic of major 0x01 on the exact integers, narrowed to 64 bits, and the corner cases of division.
Logic, shifts, compares and selections of major 0x01; shift counts are bits [5:0]. CLZ gives the number n of leading zeros: 64
of zero, and else the n with bit 63 − n the highest bit set; POPC gives the number of bits set. -/
def Obligations.ScalarResults : Prop :=
  (∀ (w : Wheel) (d a b : SReg) (s : State), s.canStart w (regBit d ||| regBit a ||| regBit b) = true →
    let x := s.reg a
    let y := s.reg b
    let gives := fun (i : Instr) (v : Word) => exec i s = s.does w 1 (·.setReg d v)
    gives (.add w d a b) (BitVec.ofNat 64 (x.toNat + y.toNat)) ∧
    gives (.sub w d a b) (BitVec.ofInt 64 (x.toInt - y.toInt)) ∧
    gives (.mul w d a b) (BitVec.ofNat 64 (x.toNat * y.toNat)) ∧
    gives (.mulh w d a b) (BitVec.ofInt 64 (x.toInt * y.toInt / 2 ^ 64)) ∧
    gives (.mulhn w d a b) (BitVec.ofNat 64 (x.toNat * y.toNat / 2 ^ 64)) ∧
    gives (.div w d a b) (if y = 0 then BitVec.ofInt 64 (-1) else BitVec.ofInt 64 (x.toInt.tdiv y.toInt)) ∧
    gives (.divn w d a b) (if y = 0 then BitVec.ofNat 64 (2 ^ 64 - 1) else BitVec.ofNat 64 (x.toNat / y.toNat)) ∧
    gives (.rem w d a b) (if y = 0 then x else BitVec.ofInt 64 (x.toInt.tmod y.toInt)) ∧
    gives (.remn w d a b) (if y = 0 then x else BitVec.ofNat 64 (x.toNat % y.toNat))) ∧
  (∀ (w : Wheel) (d a b : SReg) (s : State), s.canStart w (regBit d ||| regBit a ||| regBit b) = true →
    let x := s.reg a
    let y := s.reg b
    let n := y.toNat % 64
    let gives := fun (i : Instr) (v : Word) => exec i s = s.does w 1 (·.setReg d v)
    gives (.and w d a b) (x &&& y) ∧ gives (.or w d a b) (x ||| y) ∧ gives (.xor w d a b) (x ^^^ y) ∧
    gives (.shl w d a b) (BitVec.ofNat 64 (x.toNat * 2 ^ n)) ∧
    gives (.shr w d a b) (BitVec.ofNat 64 (x.toNat / 2 ^ n)) ∧
    gives (.sra w d a b) (BitVec.ofInt 64 (x.toInt / 2 ^ n)) ∧
    gives (.slt w d a b) (if x.toInt < y.toInt then 1 else 0) ∧
    gives (.sltn w d a b) (if x.toNat < y.toNat then 1 else 0) ∧
    gives (.min w d a b) (BitVec.ofInt 64 (min x.toInt y.toInt)) ∧
    gives (.max w d a b) (BitVec.ofInt 64 (max x.toInt y.toInt)) ∧
    gives (.minn w d a b) (BitVec.ofNat 64 (min x.toNat y.toNat)) ∧
    gives (.maxn w d a b) (BitVec.ofNat 64 (max x.toNat y.toNat))) ∧
  (∀ (w : Wheel) (d a : SReg) (s : State), s.canStart w (regBit d ||| regBit a) = true →
    let x := s.reg a
    (∃ n : Nat, n ≤ 64 ∧ exec (.clz w d a) s = s.does w 1 (·.setReg d (BitVec.ofNat 64 n)) ∧
      (x = 0 → n = 64) ∧ (x ≠ 0 → n < 64 ∧ 2 ^ (63 - n) ≤ x.toNat ∧ x.toNat < 2 ^ (64 - n))) ∧
    exec (.popc w d a) s =
      s.does w 1 (·.setReg d (BitVec.ofNat 64 ((List.range 64).filter (fun i => x.getLsbD i)).length)))

/-- R169, R170: the immediates, with the extension that each takes. -/
def Obligations.ImmediateResults : Prop :=
  ∀ (w : Wheel) (d a : SReg) (i14 : BitVec 14) (i6 : BitVec 6) (i18 : BitVec 18) (i40 : BitVec 40) (s : State),
    s.canStart w (regBit d ||| regBit a) = true →
    let x := s.reg a
    let gives := fun (i : Instr) (n : Nat) (v : Word) => exec i s = s.does w n (·.setReg d v)
    gives (.addi w d a i14) 1 (BitVec.ofInt 64 (x.toInt + i14.toInt)) ∧
    gives (.andi w d a i14) 1 (x &&& BitVec.ofNat 64 i14.toNat) ∧
    gives (.ori w d a i14) 1 (x ||| BitVec.ofNat 64 i14.toNat) ∧
    gives (.xori w d a i14) 1 (x ^^^ BitVec.ofNat 64 i14.toNat) ∧
    gives (.shli w d a i6) 1 (BitVec.ofNat 64 (x.toNat * 2 ^ i6.toNat)) ∧
    gives (.shri w d a i6) 1 (BitVec.ofNat 64 (x.toNat / 2 ^ i6.toNat)) ∧
    gives (.srai w d a i6) 1 (BitVec.ofInt 64 (x.toInt / 2 ^ i6.toNat)) ∧
    gives (.slti w d a i14) 1 (if x.toInt < i14.toInt then 1 else 0) ∧
    gives (.sltni w d a i14) 1 (if x.toNat < i14.toNat then 1 else 0) ∧
    gives (.lui w d i18) 1 (BitVec.ofInt 64 (i18.toInt * 2 ^ 14)) ∧
    gives (.li64 w d i40) 2 (BitVec.ofInt 64 i40.toInt)

/-- Frames. Of the instructions of one destination register (R168, R169, R191): when one of them gives a next state after
starting, nothing but that register, its pair's tag, the pc, the tokens and the signals has changed: no other register, no
flag, no vector register or accumulator, no byte of memory. Of branches and jumps that leave s15 alone (R174): a branch, JMP,
an aligned JR and NOP change nothing but the pc of their stream and the tokens. -/
def Obligations.ScalarAndControlFrame : Prop :=
  (∀ (i : Instr) (w : Wheel) (d a b : SReg) (p : Pair) (sel : BitVec 4) (i14 : BitVec 14) (i6 : BitVec 6) (i18 : BitVec 18)
    (i40 : BitVec 40) (uses : BitVec 16) (s t : State),
    (i, uses) ∈ ([(.add w d a b, regBit d ||| regBit a ||| regBit b), (.sub w d a b, regBit d ||| regBit a ||| regBit b),
      (.mul w d a b, regBit d ||| regBit a ||| regBit b), (.mulh w d a b, regBit d ||| regBit a ||| regBit b),
      (.mulhn w d a b, regBit d ||| regBit a ||| regBit b), (.div w d a b, regBit d ||| regBit a ||| regBit b),
      (.divn w d a b, regBit d ||| regBit a ||| regBit b), (.rem w d a b, regBit d ||| regBit a ||| regBit b),
      (.remn w d a b, regBit d ||| regBit a ||| regBit b), (.and w d a b, regBit d ||| regBit a ||| regBit b),
      (.or w d a b, regBit d ||| regBit a ||| regBit b), (.xor w d a b, regBit d ||| regBit a ||| regBit b),
      (.shl w d a b, regBit d ||| regBit a ||| regBit b), (.shr w d a b, regBit d ||| regBit a ||| regBit b),
      (.sra w d a b, regBit d ||| regBit a ||| regBit b), (.slt w d a b, regBit d ||| regBit a ||| regBit b),
      (.sltn w d a b, regBit d ||| regBit a ||| regBit b), (.min w d a b, regBit d ||| regBit a ||| regBit b),
      (.max w d a b, regBit d ||| regBit a ||| regBit b), (.minn w d a b, regBit d ||| regBit a ||| regBit b),
      (.maxn w d a b, regBit d ||| regBit a ||| regBit b), (.clz w d a, regBit d ||| regBit a),
      (.popc w d a, regBit d ||| regBit a), (.addi w d a i14, regBit d ||| regBit a), (.andi w d a i14, regBit d ||| regBit a),
      (.ori w d a i14, regBit d ||| regBit a), (.xori w d a i14, regBit d ||| regBit a),
      (.shli w d a i6, regBit d ||| regBit a), (.shri w d a i6, regBit d ||| regBit a),
      (.srai w d a i6, regBit d ||| regBit a), (.slti w d a i14, regBit d ||| regBit a),
      (.sltni w d a i14, regBit d ||| regBit a), (.lui w d i18, regBit d), (.li64 w d i40, regBit d),
      (.cget w d p sel, regBit d ||| pairBits p), (.ctag w d p, regBit d ||| pairBits p)] : List (Instr × BitVec 16)) →
    s.canStart w uses = true → exec i s = .next t →
      (∀ r : SReg, r ≠ d → t.reg r = s.reg r) ∧
      (∀ q : Pair, q.toNat ≠ d.toNat / 2 → t.st.tag q = s.st.tag q) ∧
      (∀ x : StreamId, x ≠ s.cur → (t.job.stream x).shade = (s.job.stream x).shade) ∧
      t.st.fpctl = s.st.fpctl ∧ t.job.vregs = s.job.vregs ∧ t.job.pregs = s.job.pregs ∧ t.job.acc = s.job.acc ∧
      t.job.cc = s.job.cc ∧ (∀ k : Nat, memByte t.mem k = memByte s.mem k) ∧ t.exceptReg d = s.exceptReg d) ∧
  (∀ (i : Instr) (w : Wheel) (a b : SReg) (off : BitVec 14) (off22 : BitVec 22) (s t : State),
    i ∈ ([.beq w a b off, .bne w a b off, .blt w a b off, .bge w a b off, .bltn w a b off, .bgen w a b off, .jmp w off22,
      .jr w a, .nop w] : List Instr) →
    (i = .jr w a → (s.reg a).toNat % 4 = 0) → exec i s = .next t →
      (∀ x : StreamId, (t.job.stream x).shade = (s.job.stream x).shade) ∧
      (∀ x : StreamId, x ≠ s.cur → (t.job.stream x).pc = (s.job.stream x).pc) ∧
      t.job.vregs = s.job.vregs ∧ t.job.pregs = s.job.pregs ∧ t.job.acc = s.job.acc ∧ t.job.cc = s.job.cc ∧
      (∀ k : Nat, memByte t.mem k = memByte s.mem k) ∧ t.shade = s.shade)

/-! ## Control, queues and spill memory -/

/-- R171, R172, R173: a conditional branch whose condition holds goes to its own address plus four times its offset, and otherwise
to the next word. The jumps: JAL first writes s15; JR to a misaligned address raises MISALIGN (code 0x07, with the access kind
of a fetch: log 39, DEDUCED) and has no other effect. -/
def Obligations.BranchAndJumpResults : Prop :=
  (∀ (w : Wheel) (a b : SReg) (off : BitVec 14) (s : State), s.canStart w (regBit a ||| regBit b) = true →
    let x := s.reg a
    let y := s.reg b
    let goes := fun (i : Instr) (taken : Prop) (_ : Decidable taken) =>
      exec i s = s.does w 1 (·.setPc (if taken then BitVec.ofInt 57 (s.st.pc.toNat + 4 * off.toInt) else s.st.pc + 4))
    goes (.beq w a b off) (x = y) inferInstance ∧ goes (.bne w a b off) (x ≠ y) inferInstance ∧
    goes (.blt w a b off) (x.toInt < y.toInt) inferInstance ∧ goes (.bge w a b off) (y.toInt ≤ x.toInt) inferInstance ∧
    goes (.bltn w a b off) (x.toNat < y.toNat) inferInstance ∧ goes (.bgen w a b off) (y.toNat ≤ x.toNat) inferInstance) ∧
  (∀ (w : Wheel) (a : SReg) (off : BitVec 22) (s : State),
    (s.canStart w 0 = true →
      exec (.jmp w off) s = s.does w 1 (·.setPc (BitVec.ofInt 57 (s.st.pc.toNat + 4 * off.toInt)))) ∧
    (s.canStart w (regBit 15) = true →
      exec (.jal w off) s = s.does w 1 (fun u =>
        (u.setReg 15 (BitVec.ofNat 64 (s.st.pc + 4).toNat)).setPc (BitVec.ofInt 57 (s.st.pc.toNat + 4 * off.toInt)))) ∧
    (s.canStart w (regBit a) = true →
      exec (.jr w a) s =
        if (s.reg a).toNat % 4 = 0 then s.does w 1 (·.setPc (BitVec.ofNat 57 (s.reg a).toNat))
        else .next (takeTrap ⟨0x07, 2, BitVec.ofNat 64 ((s.reg a).toNat % 2 ^ 57), none⟩ s)))

/-- R177, R178, R135, R137: LOOP and ENDL. What ENDL's rotation does to the base and the live bits: the base moves down by one
modulo the size, and a slot is live exactly if it was and its new distance is below the live depth; no byte of a register
moves. -/
def Obligations.LoopAndRotationResults : Prop :=
  (∀ (w : Wheel) (a : SReg) (off : BitVec 14) (s : State),
    let there := BitVec.ofInt 57 (s.st.pc.toNat + 4 * off.toInt)
    let rotating := s.cur = .V ∧ s.job.rsize ≠ 0
    (s.canStart w (regBit a) = true →
      exec (.loop w a off) s =
        if (s.reg a).toNat % 2 ^ 32 = 0 then s.does w 1 (·.setPc there)
        else s.does w 1 (fun u =>
          let u := u.onSt (fun t =>
            { t with kern := (s.reg a).extractLsb' 0 32, epi := (s.reg a).extractLsb' 32 6 })
          if rotating then
            (((u.setPred 4 (BitVec.allOnes 512)).setPred 5 0).setPred 6 0).setPred 7 0
          else u)) ∧
    (s.canStart w 0 = true →
      let k := s.st.kern.toNat
      let e := s.st.epi.toNat
      let k' := k - 1
      let e' := if k = 0 then e - 1 else e
      exec (.endl w off) s = s.does w 1 (fun u =>
        let u := u.onSt (fun t => { t with kern := BitVec.ofNat 32 k', epi := BitVec.ofNat 6 e' })
        let u := if rotating then
            let u := u.onJob Job.rotate
            (((u.setPred 7 (s.pred 6)).setPred 6 (s.pred 5)).setPred 5 (s.pred 4)).setPred 4
              (if 0 < k' then BitVec.allOnes 512 else 0)
          else u
        if 0 < k' + e' then u.setPc there else u))) ∧
  (∀ (j : Job) (p : Nat), j.rot ≠ 0 → p < j.rot →
    j.rotate.rbase.toNat = (j.rbase.toNat + j.rot - 1) % j.rot ∧
    (j.rotate.slotLive.getLsbD p = true ↔
      j.slotLive.getLsbD p = true ∧ (p + j.rot - j.rotate.rbase.toNat) % j.rot < j.rlive.toNat) ∧
    j.rotate.vregs = j.vregs ∧ j.rotate.pregs = j.pregs ∧ j.rotate.rlive = j.rlive ∧ j.rotate.rsize = j.rsize)

/-- R128, R180, R183, R129, R182, R186, R187: the scalar queues. A push appends at the tail and a pop takes the head, and with the
entry goes what its stream knows of commits (R347); a full queue, an empty queue and a head that is not filled leave the
stream waiting; a stream that the queue is not bound to traps. The vector queues. A VPUSH of the V stream appends one entry
with the active lanes of the register and zeros elsewhere; a VPOP takes the head and writes its active lanes; the others keep
what the register reads as, zeros where its slot is dead (log 62, DESIGN CHOICE). They wait at a full queue, and at an empty
one or a head whose data has not come, and trap where the V stream is not bound to the queue, as the scalar ones do. Spill
slots hold what was spilled: SFILL after SSPILL of the same slot gives the register's value (s0's is 0), and the instructions'
whole effects. -/
def Obligations.QueueAndSpillResults : Prop :=
  (∀ (w : Wheel) (q : QNum) (r : SReg) (off : BitVec 14) (s : State), s.canStart w (regBit r) = true →
    let es := (s.job.queue q).entries
    let illegal := (.next (takeTrap ⟨0x02, 3, 0, none⟩ s) : Out)
    let waits := (.next (s.block .queue) : Out)
    exec (.spush w q r) s =
      (if s.job.produces q s.cur = false then illegal
       else if queueDepth q ≤ es.length then waits
       else s.does w 1 (fun u => u.onJob (fun j =>
         { j.setQueue q (es ++ [⟨(s.reg r).setWidth 4096, true⟩]) with flow := j.flow.pushes s.cur q.toFin }))) ∧
    exec (.spop w r q) s =
      (if s.job.consumes q s.cur = false then illegal
       else match es with
        | [] => waits
        | e :: rest =>
          if e.ready = false then waits
          else s.does w 1 (fun u =>
            (u.onJob (fun j => { j.setQueue q rest with flow := j.flow.pops s.cur q.toFin })).setReg r (e.data.setWidth 64))) ∧
    exec (.qcnt w r q) s =
      (if s.job.produces q s.cur = false ∧ s.job.consumes q s.cur = false then illegal
       else s.does w 1 (·.setReg r (BitVec.ofNat 64 es.length))) ∧
    (∀ onZero : Bool,
      exec (if onZero then .bqz w q off else .bqnz w q off) s =
        (if s.job.consumes q s.cur = false then illegal
         else match es with
          | [] => waits
          | e :: rest =>
            if e.ready = false then waits
            else s.does w 1 (fun u =>
              let u := u.onJob (fun j => { j.setQueue q rest with flow := j.flow.pops s.cur q.toFin })
              if decide (e.data.setWidth 64 = (0 : Word)) = onZero then
                u.setPc (BitVec.ofInt 57 (s.st.pc.toNat + 4 * off.toInt)) else u)))) ∧
  (∀ (w : Wheel) (v : VReg) (q : QNum) (k : KReg) (s : State), s.canStart w 0 = true → s.cur = .V →
    let es := (s.job.queue q).entries
    let wd := fmtWidth s.job.et
    let illegal := (.next (takeTrap ⟨0x02, 3, 0, none⟩ s) : Out)
    let waits := (.next (s.block .queue) : Out)
    (s.job.produces q .V = false → exec (.vpush w v q k) s = illegal) ∧
    (s.job.consumes q .V = false → exec (.vpop w v q k) s = illegal) ∧
    (s.job.produces q .V = true → queueDepth q ≤ es.length → exec (.vpush w v q k) s = waits) ∧
    (s.job.consumes q .V = true → (∀ e ∈ es.head?, e.ready = false) → exec (.vpop w v q k) s = waits) ∧
    (s.job.produces q .V = true → es.length < queueDepth q →
      ∃ x : VecReg, exec (.vpush w v q k) s = s.does w 1 (fun u =>
          (u.countReads [v]).onJob (fun j =>
            { j.setQueue q (es ++ [⟨x, true⟩]) with flow := j.flow.pushes .V q.toFin })) ∧
        ∀ m < 4096 / wd, lane wd x m = if (s.pred k).getLsbD m then lane wd (s.vreg v) m else 0) ∧
    (∀ (e : QEntry) (rest : List QEntry), s.job.consumes q .V = true → es = e :: rest → e.ready = true →
      ∃ x : VecReg, exec (.vpop w v q k) s = s.does w 1 (fun u =>
          (u.onJob (fun j => { j.setQueue q rest with flow := j.flow.pops .V q.toFin })).setVreg v x) ∧
        ∀ m < 4096 / wd, lane wd x m = if (s.pred k).getLsbD m then lane wd e.data m else lane wd (s.vreg v) m)) ∧
  (∀ (w : Wheel) (r : SReg) (v : VReg) (n : BitVec 6) (m : BitVec 5) (s : State),
    (s.canStart w (regBit r) = true →
      exec (.sspill w r n) s =
        s.does w 1 (·.onSt (fun t => { t with spill := t.spill.set n.toNat (s.reg r) n.isLt })) ∧
      exec (.sfill w r n) s = s.does w 1 (·.setReg r (s.st.spill[n.toNat]'n.isLt))) ∧
    (s.canStart w 0 = true → s.cur = .V →
      exec (.vspill w v m) s = s.does w 1 (fun u =>
        (u.countReads [v]).onJob (fun j => { j with vspill := j.vspill.set m.toNat (s.vreg v) m.isLt })) ∧
      exec (.vfill w v m) s = s.does w 1 (·.setVreg v (s.job.vspill[m.toNat]'m.isLt))))

/-! ## Issuing, by the whole opcode table -/

/-- R123, R121, R124, R347: an instruction whose wait finds its counter at 0 does not issue: it takes no token, writes nothing and
raises nothing; its stream waits. (A SAFE at which the stream is being held, and a BAR or a TREDST that has issued, are past
this point; an RDV stands at its meeting from then on.) What completing leaves of the tokens: a signal adds one token to its
counter where the counter is below 15, and otherwise the stream owes it; no other counter changes, and nothing else of the
state but waits and retries does. A started instruction has taken one token for each of its waits and no other. With a token,
a queue entry and a passed RDV goes what the stream that adds, pushes or passes covers of the commits that the job has had
accepted: the stream that takes the token, pops the entry or passes the RDV covers those too, and no other stream does; a
stream covers a commit that it has issued (log 21, DEDUCED). Tokens and entries come out in the order in which they went in. -/
def Obligations.TokensMove : Prop :=
  (∀ (i : Instr) (w : Wheel) (s : State), i.wheel? = some w →
    ((w.wp = true ∧ s.job.tokens[wpOf s.cur] = 0) ∨ (w.ws = true ∧ s.job.tokens[wsOf s.cur] = 0)) →
    s.st.pend = 0 → s.st.shadowPend = 0 → s.st.barAt = none → s.st.redAt = none → s.job.preempt = false →
      ∃ u : State, exec i s = .next (u.block .token) ∧
        (u = s ∨ (i = .rdv w ∧ u = s.onSt (fun t => { t with atRdv := true })))) ∧
  (∀ (s : State) (w : Wheel), 
    let t := s.complete s.job.uid w
    t.shade = s.shade ∧
    (∀ c : Fin 8, t.job.tokens[c] =
      if c = spOf s.cur ∧ w.sp = true ∧ s.job.tokens[c] ≠ 15 then s.job.tokens[c] + 1
      else if c = ssOf s.cur ∧ w.ss = true ∧ s.job.tokens[c] ≠ 15 then s.job.tokens[c] + 1
      else s.job.tokens[c]) ∧
    (t.st.oweP = true ↔ w.sp = true ∧ s.job.tokens[spOf s.cur] = 15) ∧
    (t.st.oweS = true ↔ w.ss = true ∧ s.job.tokens[ssOf s.cur] = 15)) ∧
  (∀ (s : State) (w : Wheel) (n : Nat) (uses : BitVec 16), s.canStart w uses = true →
    let t := s.started w n
    (∀ c : Fin 8, (t.job.tokens[c]).toNat =
      (s.job.tokens[c]).toNat - (if c = wpOf s.cur ∧ w.wp = true ∨ c = wsOf s.cur ∧ w.ws = true then 1 else 0)) ∧
    t.st.pc = s.st.pc + BitVec.ofNat 57 (4 * n) ∧ t.shade = s.shade) ∧
  (∀ (f : Flow) (x y : StreamId) (i : Fin 8) (id n : Nat) (t : List Nat) (rest : List (List Nat)) (s : State),
    let knows := fun (g : Flow) (z : StreamId) (c : Nat) => c ∈ g.known[streamFin z]
    let gains := fun (g : Flow) (z : StreamId) (p : Nat → Prop) => (∀ c, knows g z c ↔ knows f z c ∨ p c) ∧
      ∀ u : StreamId, u ≠ z → g.known[streamFin u] = f.known[streamFin u]
    (gains (f.accepts x id) x (· = id) ∧ (f.accepts x id).commits = f.commits ++ [⟨id, none⟩]) ∧
    ((f.signals x i).known = f.known ∧ (f.signals x i).tokens[i] = f.tokens[i] ++ [f.known[streamFin x]]) ∧
    (f.tokens[i] = t :: rest → gains (f.takes x i) x (· ∈ t) ∧ (f.takes x i).tokens[i] = rest) ∧
    ((f.pushes x i).known = f.known ∧ (f.pushes x i).queues[i] = f.queues[i] ++ [f.known[streamFin x]]) ∧
    (f.queues[i] = t :: rest → gains (f.pops x i) x (· ∈ t) ∧ (f.pops x i).queues[i] = rest) ∧
    gains (f.meets x true) x (fun c => ∃ z, knows f z c) ∧
    (x ≠ y → ∀ c, knows ((f.meets x true).meets y false) y c ↔ ∃ z, knows f z c) ∧
    ((s.started ⟨true, false, false, false⟩ n).job.flow = s.job.flow.takes s.cur (wpOf s.cur) ∧
      (s.started ⟨false, true, false, false⟩ n).job.flow = s.job.flow.takes s.cur (wsOf s.cur)) ∧
    (s.job.tokens[spOf s.cur] ≠ 15 →
      (s.complete s.job.uid ⟨false, false, true, false⟩).job.flow = s.job.flow.signals s.cur (spOf s.cur)) ∧
    (s.job.tokens[ssOf s.cur] ≠ 15 →
      (s.complete s.job.uid ⟨false, false, false, true⟩).job.flow = s.job.flow.signals s.cur (ssOf s.cur)))

/-- R144, R146, R195, R362: an instruction that could issue, in a stream that the opcode map does not allow it, raises
ILLEGAL_STREAM (code 0x02), and has no other effect. A job that is no supervisor job raises ILLEGAL_STREAM at a supervisor
CSR, at FQACK and at SRET; so does a write of VTYPE, RCFG, RRB, QSEL or DEADRD outside V. None of it has another effect. -/
def Obligations.StreamAndPrivilegeTraps : Prop :=
  (∀ (i : Instr) (w : Wheel) (s : State), i.wheel? = some w → i.allowedIn s.cur = false → s.canStart w 0xFFFF = true →
    s.st.redAt = none →
    exec i s = .next (takeTrap ⟨0x02, 3, 0, none⟩ s)) ∧
  (∀ (w : Wheel) (d a r : SReg) (e : Bool) (n : BitVec 10) (s : State), s.canStart w 0xFFFF = true →
    let illegal := (.next (takeTrap ⟨0x02, 3, 0, none⟩ s) : Out)
    (s.job.owner ≠ 0 → 0x200 ≤ n.toNat →
      exec (.csrr w d n) s = illegal ∧ exec (.csrw w a n) s = illegal ∧ exec (.fqack w d a e) s = illegal ∧
      exec (.sret w d a r) s = illegal) ∧
    (s.cur ≠ .V → n ∈ ([0x00A, 0x00B, 0x00C, 0x00D, 0x028] : List (BitVec 10)) → exec (.csrw w a n) s = illegal))

/-- R119, R124: the stream in focus issues nothing while its job does not run, after it has halted, while it is held, or while it
owes a signal whose counter is full: an owed SP, an owed SS, or both. What it owes is added where there is room, also after
HALT; it still owes the rest, and its pc stays. -/
def Obligations.NothingIssues : Prop :=
  ∀ (s : State) (x : StreamId) (core : Nat) (rest : List Turn) (bad : List (Nat × Bool)), core = s.job.core →
    let u : State := { s with agenda := rest, cur := x, bad := bad }
    let st := s.job.stream x
    let turn := step { s with agenda := ⟨core, .issue x, bad⟩ :: rest }
    let room := fun (c : Fin 8) => s.job.tokens[c] ≠ 15
    let pays := fun (t : State) => t.shade = u.shade ∧ (∀ y : StreamId, (t.job.stream y).pc = (s.job.stream y).pc) ∧
      (∀ c : Fin 8, t.job.tokens[c] = s.job.tokens[c] +
        (if room c ∧ ((c = spOf x ∧ st.oweP = true) ∨ (c = ssOf x ∧ st.oweS = true)) then 1 else 0)) ∧
      (t.st.oweP = true ↔ st.oweP = true ∧ ¬ room (spOf x)) ∧ (t.st.oweS = true ↔ st.oweS = true ∧ ¬ room (ssOf x))
    ((s.job.phase ≠ .running ∧ st.phase ≠ .halted) ∨ (∃ id, st.phase = .held id) → turn = .next u) ∧
    (st.phase = .halted → ∃ t : State, turn = .next t ∧ pays t) ∧
    (s.job.phase = .running → (st.phase = .running ∨ st.phase = .released) →
      (st.oweP = true ∧ ¬ room (spOf x)) ∨ (st.oweS = true ∧ ¬ room (ssOf x)) →
      ∃ t : State, turn = .next t ∧ pays t ∧ t.st.blocked = some .token)

/-- R119, R373: an instruction runs by one step. Where it is a stream's turn, the stream may issue, owes nothing and takes no
interrupt, and the bytes at its pc decode to an instruction, the step is that instruction's `exec` (in the state in which the
fetch has left the translations that it used and the floors that it carried); a fetch that traps is a trap of the instruction
at the pc; one that is dropped is counted, and made again at the stream's next turn (log 42, DESIGN CHOICE). A step that has
no encoding runs by `exec` too, with its core in focus. -/
def Obligations.StepRunsDecoded : Prop :=
  (∀ (s u : State) (x : StreamId) (core : Nat) (rest : List Turn) (bad : List (Nat × Bool)) (i : Instr),
    let v : State := { State.focus { s with agenda := rest, bad := bad } core with cur := x }
    let turn := step { s with agenda := ⟨core, .issue x, bad⟩ :: rest }
    v.canIssue = true → v.st.oweP = false → v.st.oweS = false → v.job.wantsInterrupt x = false →
      (fetch v = .ok (i, u) → turn = exec i u ∧ u.job = v.job ∧ u.cur = x ∧ u.mem = s.mem) ∧
      (∀ e : Trap, fetch v = .error (.trap e) → turn = .next (takeTrap e v)) ∧
      (∀ st : Nat, fetch v = .error (.post st) → turn = .next v.dropped)) ∧
  (∀ (s : State) (core : Nat) (rest : List Turn) (bad : List (Nat × Bool)) (i : Instr),
    step { s with agenda := ⟨core, .event i, bad⟩ :: rest } = exec i (State.focus { s with agenda := rest, bad := bad } core))

/-- R120, R142, R143, R338, R394: what fetching gives. Outside the segment of the stream FETCH_BOUND is raised before anything
else. Where the word at the pc lies in it and a translation is held for its page, a word that decodes alone gives its
instruction, and one that opens a two-word instruction the instruction that it makes with the next word, where that lies in
the segment too, and else FETCH_BOUND; what does not decode raises ILLEGAL_ENCODING. Each word's fetch carries floors between
the core's die and the home of the code, and one that meets an uncorrectable error is dropped (log 42, DESIGN CHOICE). -/
def Obligations.FetchResults : Prop :=
  ∀ (s : State) (p q : Phys) (word second : IWord),
    let seg := s.job.segs[streamNo s.cur]'(by cases s.cur <;> decide)
    let here := s.st.pc
    let out := fun (a : VA) => a.toNat < seg.1.toNat ∨ seg.1.toNat + seg.2 < a.toNat + 4
    let reads := fun (v : State) (a : VA) (p : Phys) (w : IWord) => v.translate a.toNat 2 = .ok (p, v) ∧
      p.pa + 4 ≤ tierSize p.tier ∧ w.toNat = leNat (memRead s.mem p.key 4)
    let u := s.exchangeWith p.key
    let v := u.exchangeWith q.key
    let gives := fun (x : Except DecodeError Instr) (t : State) =>
      (∀ i : Instr, x = .ok i → fetch s = .ok (i, t)) ∧ (∀ e, x = .error e → fetch s = .error (.trap ⟨0x01, 3, 0, none⟩))
    (out here → fetch s = .error (.trap ⟨0x03, 2, 0, none⟩)) ∧
    (¬ out here → reads s here p word →
      (s.good p.key 4 = false → fetch s = .error (.post 3)) ∧
      (s.good p.key 4 = true →
        (isLong word = false → gives (decodeShort word) u) ∧
        (isLong word = true →
          (out (here + 4) → fetch s = .error (.trap ⟨0x03, 2, 0, none⟩)) ∧
          (¬ out (here + 4) → reads u (here + 4) q second →
            (s.good q.key 4 = false → fetch s = .error (.post 3)) ∧
            (s.good q.key 4 = true → gives (decodeLong word second) v)))))

/-- The instruction that withFetchWord places after reset (the model's own loader, log 14) is the one that the next step runs, in
its home stream, on a running job and on memory as it was placed. -/
def Obligations.PlacedWordRuns : Prop :=
  ∀ (nbits w : Nat) (i : Instr), nbits ≤ 64 → decodeTableWord nbits w = some i →
    ∃ u : State, step (State.reset.withFetchWord nbits w) = exec i u ∧ u.cur = Machine.Instr.home i ∧ u.job.phase = .running ∧
      u.mem = (State.reset.withFetchWord nbits w).mem

/-! ## Synchronisation -/

/-- R315, R376, R316, R322, R94: NOP has no effect; SAFE has none either, but while pre-emption of its job is requested a stream
that has not been released is held at it, before it issues. A stream's n-th RDV issues once each of the other streams has
passed its own n-th or stands at it; until then the stream stands at it and waits. The first to issue it leaves for the others
what all streams know of commits, and each that issues it knows that too (R347). HALT waits until no command of its stream is
in a queue and none of its registers is pending; then its stream halts. With the last stream the job halts: its entry in the
launch says so. Its core is free then where it belongs to no co-resident set, or every other job of its set has halted; while
another job of the set has not, the halted job holds the core (R94). That it keeps its scratchpad allocation meanwhile, the
last clause, is the model's reading (log 65, DEDUCED). -/
def Obligations.SafeRdvHaltResults : Prop :=
  (∀ (w : Wheel) (id : BitVec 10) (s : State), s.canStart w 0 = true →
    exec (.nop w) s = s.does w 1 (fun u => u) ∧
    exec (.safe w id) s =
      (if s.st.phase = .running ∧ s.job.preempt = true then
        .next (s.onSt (fun t => { t with phase := .held id, blocked := none }))
       else s.does w 1 (fun u => u.onSt (fun t => { t with phase := .running })))) ∧
  (∀ (w : Wheel) (s : State), s.canStart w 0 = true →
    let n := s.st.rdvs + 1
    let here := s.onSt (fun t => { t with atRdv := true })
    let reached := ∀ x : StreamId, x ≠ s.cur →
      n ≤ (s.job.stream x).rdvs ∨ ((s.job.stream x).atRdv = true ∧ (s.job.stream x).rdvs + 1 = n)
    let first := allStreams.all (fun x => decide ((s.job.stream x).rdvs < n))
    (reached → exec (.rdv w) s = here.does w 1 (fun u =>
      (u.onSt (fun t => { t with rdvs := n, atRdv := false })).onJob (fun j => { j with flow := j.flow.meets s.cur first }))) ∧
    (¬ reached → exec (.rdv w) s = .next (here.block .rdv))) ∧
  (∀ (w : Wheel) (s : State), s.canStart w 0 = true →
    let owes := (∃ c ∈ s.job.ceQ ++ s.job.mxQ ++ s.job.vqQ, c.stream = s.cur) ∨ s.st.pend ≠ 0 ∨ s.st.shadowPend ≠ 0
    let last := ∀ x : StreamId, x ≠ s.cur → (s.job.stream x).phase = .halted
    (owes → exec (.halt w) s = .next (s.block .haltJoin)) ∧
    (¬ owes → ¬ last → exec (.halt w) s = s.does w 1 (fun u => u.onSt (fun t => { t with phase := .halted }))) ∧
    (¬ owes → last → s.job.uid < s.nextUid → ∃ t : State, exec (.halt w) s = .next t ∧
      ∀ l ∈ t.launches, l.id = s.job.launch → ∀ x ∈ l.jobs, x.uid = s.job.uid → x.phase = .halted) ∧
    (¬ owes → last → s.hasJob → ∀ l : Launch, s.launch? s.job.launch = some l → l.perCore = 1 →
      let frees := ∃ t : State, exec (.halt w) s = .next t ∧ t.job = Job.reset s.job.core
      (l.unitLevel = none → frees) ∧
      (∀ i : Nat, l.unitLevel = some i →
        let num := s.job.lid.toNat % 2 ^ 32
        let first := num / l.sizeAt i * l.sizeAt i
        let set := l.jobs.filter (fun x => x.num / l.sizeAt i == num / l.sizeAt i)
        let here := min (first + l.sizeAt i) l.share - first
        let hasEnded := fun (x : LJob) => x.uid = s.job.uid ∨ x.phase = .halted ∨ x.phase = .haltedAway
        (set.length = here → (here = l.sizeAt i ∨ l.othersHalted = true) → (∀ x ∈ set, hasEnded x) → frees) ∧
        (set.length ≤ here → l.jobs.length ≤ l.share → l.stages = 0 → (∃ x ∈ set, ¬ hasEnded x) →
          ∃ t : State, exec (.halt w) s = .next t ∧ t.job.core = s.job.core ∧ t.job.uid = s.job.uid ∧ t.job.phase = .halted ∧
            t.job.scrlog = s.job.scrlog))))

/-- R318, R319: MARK places a marker behind the commands that stand in each queue it names (for the fabric queue, the Copy
Engine's commands on a PEER tile); JOIN completes once every marker of its stream has reached its head, and until then it
waits. A marker of any stream and any queue, counted over the streams A, M, V and E, reaches its head exactly when every
command that stood ahead of it has posted, so that it is in no queue, or, for a marker at CORE, has read its sources: a TFILL,
a PUBL, an OBOPEN, an OBCLOSE, an MZERO and an ordered atomic read only what they captured when they were accepted; of the
others, in this model all but a TCOMMIT read and post in one step, and a TCOMMIT that has prepared its version has read (log
38, DEDUCED). The other markers stay as they are. -/
def Obligations.MarkAndJoinResults : Prop :=
  (∀ (w : Wheel) (eng : BitVec 4) (sc : Scope) (s : State), s.canStart w 0 = true →
    (∃ ms : List Marker,
      exec (.mark w eng sc) s = s.does w 1 (fun u => u.onSt (fun t => { t with markers := t.markers ++ ms })) ∧
      (∀ m ∈ ms, m.scope = sc ∧ m.atHead = false) ∧
      ms.map (·.queue) = (if eng.getLsbD 0 then [MarkQueue.ce] else []) ++ (if eng.getLsbD 1 then [MarkQueue.mx] else []) ++
        (if eng.getLsbD 2 then [MarkQueue.vq] else []) ++ (if eng.getLsbD 3 then [MarkQueue.fq] else []) ∧
      (∀ m ∈ ms, (m.queue = .ce → m.ahead = s.job.ceQ.map (·.id)) ∧ (m.queue = .mx → m.ahead = s.job.mxQ.map (·.id)) ∧
        (m.queue = .vq → m.ahead = s.job.vqQ.map (·.id)) ∧
        (m.queue = .fq → m.ahead = (s.job.ceQ.filter (peerCmd s)).map (·.id)))) ∧
    ((∀ m ∈ s.st.markers, m.atHead = true) → (∀ m ∈ s.st.markers, m.scope = .core) →
      exec (.join w) s = s.does w 1 (fun u => u.onSt (fun t => { t with markers := [] }))) ∧
    ((∀ m ∈ s.st.markers, m.atHead = true) → ∃ t : State, exec (.join w) s = .next t ∧ t.st.markers = [] ∧
      t.job.consumed = s.job.consumed ∧ t.job.cc = s.job.cc) ∧
    ((∃ m ∈ s.st.markers, m.atHead = false) → exec (.join w) s = .next (s.block .join))) ∧
  (let all := fun (j : Job) => allStreams.flatMap (fun x => (j.stream x).markers)
  let captured := fun (i : Instr) => match i with
    | .tfill .. | .publ .. | .obopen .. | .obclose .. | .mzero .. | .amoadd .. | .amoand .. | .amoor .. | .amoxor .. | .amomin ..
    | .amomax .. | .amominn .. | .amomaxn .. | .amoxchg .. | .amocas .. | .amoincb .. | .amofadd .. => true
    | _ => false
  ∀ (s : State) (i : Nat) (h : i < (all s.job).length),
    let m := (all s.job)[i]
    let queued := s.job.ceQ ++ s.job.mxQ ++ s.job.vqQ
    let waits := ∃ n ∈ m.ahead, n ∈ queued.map (·.id) ∧
      ¬ (m.scope = .core ∧ ∃ c ∈ queued, c.id = n ∧ (captured c.instr = true ∨ c.ver ≠ none))
    ∃ t : State, exec (.markerHead i) s = .next t ∧ t.mem = s.mem ∧
      (∀ x : StreamId, (t.job.stream x).markers.length = (s.job.stream x).markers.length ∧
        (t.job.stream x).pc = (s.job.stream x).pc ∧ ∀ r : SReg, (t.job.stream x).reg r = (s.job.stream x).reg r) ∧
      (waits → (all t.job)[i]? = some m) ∧ (¬ waits → (all t.job)[i]? = some { m with atHead := true }) ∧
      (∀ k : Nat, k ≠ i → (all t.job)[k]? = (all s.job)[k]?))

/-- R320, R321, R371: WAITC waits until COUNT − W, read as an I32, is positive; then it gives the counter's word, consumes one
posting and acquires the parties that post to the counter, or nothing where the posting is the launch controller's; DISC
consumes one posting without waiting. Where LAST is an error status, ERRTRAP 0 changes nothing more, 2 leaves an error event
that stands for delivery, and 1, or 2 in a handler, ends the launch with DATA_ERROR (0x13), whose entry names the WAITC. -/
def Obligations.WaitcDiscResults : Prop :=
  ∀ (w : Wheel) (d : SReg) (c : Cc) (s : State), s.canStart w (regBit d) = true →
    let x := s.job.cc[c.toNat]'c.isLt
    let n := s.job.consumed[c.toNat]'c.isLt
    let last := x.toNat / 2 ^ 48
    let error := 3 ≤ last ∧ last ≤ 8
    let ends := s.job.errtrap = 1 ∨ (s.job.errtrap = 2 ∧ s.st.inHandler = true)
    let consume := fun (j : Job) => { j with
      consumed := j.consumed.set c.toNat (n + 1) c.isLt, launchPosts := j.launchPosts.filter (· != (c, n + 1)) }
    let taken := fun (u : State) =>
      (u.onJob (fun j => if (c, n + 1) ∈ s.job.launchPosts then consume j else (consume j).acquireCounter c)).setReg d x
    (0 < (BitVec.ofNat 32 x.toNat - n).toInt →
      (¬ error ∨ s.job.errtrap = 0 → exec (.waitc w d c) s = s.does w 1 taken) ∧
      (error → s.job.errtrap = 2 → s.st.inHandler = false →
        exec (.waitc w d c) s = s.does w 1 (fun u => (taken u).onSt (fun t => { t with errEvent := some ⟨BitVec.ofNat 16 last, 1, c⟩ }))) ∧
      (error → ends → s.hasJob → ∃ t : State, exec (.waitc w d c) s = .next t ∧ t.job = Job.reset s.job.core ∧
        (∀ l ∈ t.launches, l.id = s.job.launch → (∃ m ∈ s.launches, m.id = l.id ∧ m.state = .ended) ∨
          (l.state = .ended ∧ l.status = 5 ∧ l.trap = 0x13)) ∧
        (∃ w0 w1 : Word, (w0, w1, 0, s.st.pc.setWidth 64) ∈ t.dies[s.myDie].waiting ∧
          w0.toNat % 2 ^ 32 = 0x13 * 2 ^ 24 + streamNo s.cur * 2 ^ 21 + 0x1E0))) ∧
    ((BitVec.ofNat 32 x.toNat - n).toInt ≤ 0 → exec (.waitc w d c) s = .next (s.block .waitc)) ∧
    exec (.disc w c) s = s.does w 1 (·.onJob consume)

/-- R317, R93, R114, R308: BAR. Where the job is a pipeline job, has no instance at the scope, or the scope lies above CLUSTER and
above COSCOPE, it raises BARRIER_SCOPE (0x0C); otherwise it issues once, counts, and waits with the commands that stand ahead;
once the barrier is complete, its stream goes on. A barrier at which a stream of the job in focus waits completes once every
job of the instance is there and has arrived: those that this package runs, and where the instance has others, the event says
that they have arrived too (log 27, DESIGN CHOICE). The instance's generation rises by 1 and every waiting stream's BAR is
done. Before that nothing happens. -/
def Obligations.BarrierResults : Prop :=
  (∀ (w : Wheel) (sc : Scope) (s : State), barScopeOk sc = true →
    let inst := match sc with
      | .cluster => s.job.clusterNo | .die => s.job.dieNo | .pkg => s.job.pkgNo | _ => s.job.grantNo
    let rank := match sc with | .cluster => 1 | .die => 2 | .pkg => 3 | _ => 4
    let forbidden := s.job.pipeline = true ∨ inst = none ∨ (sc ≠ .cluster ∧ s.job.coscope < rank)
    (s.st.barAt = none → s.canStart w 0 = true → forbidden →
      exec (.bar w sc) s = .next (takeTrap ⟨0x0C, 3, 0, none⟩ s)) ∧
    (s.st.barAt = none → s.canStart w 0 = true → ¬ forbidden →
      exec (.bar w sc) s = .next ((s.setJob (s.job.afterWaits s.cur w)).startBar sc)) ∧
    (∀ b : BarWait, s.st.barAt = some b → b.done = false → exec (.bar w sc) s = .next (s.block .bar)) ∧
    (∀ b : BarWait, s.st.barAt = some b → b.done = true →
      exec (.bar w sc) s = s.ends w ((s.onSt (fun t => { t with barAt := none })).advance 1))) ∧
  (∀ (sc : Scope) (others : Bool) (s : State) (n no : Nat) (l : Launch), barScopeOk sc = true → s.hasJob →
    s.job.waitsAt sc = some n → s.job.barInst sc = some no → s.launch? s.job.launch = some l →
    let js := s.instanceOf sc
    let size := instanceJobs l.words sc
    let here := min ((no + 1) * size) (shareOf l.words) - no * size
    let gen := fun (bs : List BarInst) =>
      ((bs.find? (fun b => b.launch == s.job.launch && b.scope == sc && b.no == no)).map (·.gen)).getD 0
    (here ≤ js.length → (∀ j ∈ js, j.arrived sc n = true) → (here = size ∨ others = true) →
      ∃ t : State, exec (.barrierComplete ⟨sc, others⟩) s = .next t ∧ gen t.bars = gen s.bars + 1 ∧ t.mem = s.mem ∧
        (∀ (x : StreamId) (b : BarWait), (s.job.stream x).barAt = some b → b.scope = sc → b.no = n →
          (t.job.stream x).barAt = some { b with done := true })) ∧
    ((js.length < here ∨ (∃ j ∈ js, j.arrived sc n = false) ∨ (here ≠ size ∧ others = false)) →
      exec (.barrierComplete ⟨sc, others⟩) s = .next s))

/-! ## Control and status registers -/

/-- R5, R194, R195 and the field maps that R195 names: CSRR of each CSR (the supervisor CSRs read so in a supervisor job), and
CSRW of each CSR that a job may write, in a stream that may write it. While SIZE = 0 there is no base: RRB reads 0 and a write
of it leaves 0 (log 61, DESIGN CHOICE). (A write of QSEL is in CultureAndTokenResults; a write of FQHEAD is in FaultRing.) -/
def Obligations.CsrResults : Prop :=
  (∀ (w : Wheel) (d : SReg) (s : State), s.canStart w (regBit d) = true →
    let j := s.job
    let t := s.st
    let die := s.dies[s.myDie]
    (∀ nv ∈ ([(0x000, j.lid), (0x001, j.owner.setWidth 64), (0x002, j.sliceLo.setWidth 64), (0x003, j.sliceHi.setWidth 64),
        (0x008, t.fpctl), (0x009, j.seed), (0x00A, BitVec.ofNat 64 j.et.code),
        (0x00B, BitVec.ofNat 64 (64 * j.rsize.toNat + j.rlive.toNat)),
        (0x00C, BitVec.ofNat 64 (j.rbase.toNat % (if j.rsize = 1 then 8 else if j.rsize = 2 then 16 else 1))),
        (0x00D, BitVec.ofNat 64 ((if j.qdirty = true then 256 else 0) + j.qset.toNat)),
        (0x010, t.kern.setWidth 64), (0x011, t.epi.setWidth 64),
        (0x018, BitVec.ofNat 64 ((if j.pvrPend = true then 2 ^ 32 else 0) + 2 ^ 16 * j.pvrNext.toNat + j.pvrCur.toNat)),
        (0x020, t.uvec), (0x021, BitVec.ofNat 64 ((if t.inHandler = true then 2 ^ 63 else 0) + t.upend.toNat)),
        (0x022, j.trapinfo), (0x023, j.errcnt.setWidth 64), (0x024, j.errtrap.setWidth 64), (0x028, j.deadrd),
        (0x029, j.pressstall)] : List (BitVec 10 × Word)),
      exec (.csrr w d nv.1) s = s.does w 1 (·.setReg d nv.2)) ∧
    (j.owner = 0 →
      ∀ nv ∈ ([(0x200, j.ttbase), (0x201, s.epsmax.setWidth 64), (0x202, s.vwater), (0x203, s.safemax.setWidth 64),
        (0x204, BitVec.ofNat 64 (2 ^ 60 * die.fqSz.toNat + 2 ^ 16 * die.fqLoc.toNat + die.fqHead.toNat)),
        (0x205, BitVec.ofNat 64 ((if die.fqOvf = true then 2 ^ 63 else 0) + die.fqTail.toNat)),
        (0x210, (s.age[0]).setWidth 64), (0x211, (s.age[1]).setWidth 64), (0x212, (s.age[2]).setWidth 64),
        (0x213, (s.age[3]).setWidth 64), (0x214, (s.age[4]).setWidth 64), (0x215, (s.age[5]).setWidth 64),
        (0x216, (s.age[6]).setWidth 64)] : List (BitVec 10 × Word)),
      exec (.csrr w d nv.1) s = s.does w 1 (·.setReg d nv.2))) ∧
  (∀ (w : Wheel) (a : SReg) (s : State), s.canStart w (regBit a) = true →
    let v := s.reg a
    let writes := fun (n : BitVec 10) (f : State → State) => exec (.csrw w a n) s = s.does w 1 f
    writes 0x008 (fun u => u.onSt (fun t => { t with
      fpctl := (t.fpctl &&& ~~~v &&& 0xF0000000) ||| (v &&& 0x3F3F) |||
        (if v.toNat / 2 ^ 16 % 8 ≤ 4 then v &&& 0x70000 else t.fpctl &&& 0x70000) })) ∧
    writes 0x009 (fun u => u.onJob (fun j => { j with seed := v })) ∧
    writes 0x010 (fun u => u.onSt (fun t => { t with kern := BitVec.ofNat 32 v.toNat })) ∧
    writes 0x011 (fun u => u.onSt (fun t => { t with epi := BitVec.ofNat 6 v.toNat })) ∧
    writes 0x020 (fun u => u.onSt (fun t => { t with uvec := v &&& 0x81FFFFFFFFFFFFFC })) ∧
    writes 0x021 (fun u => u.onSt (fun t => { t with upend := t.upend &&& ~~~(BitVec.ofNat 16 v.toNat) })) ∧
    writes 0x023 (fun u => u.onJob (fun j => { j with errcnt := BitVec.ofNat 32 v.toNat })) ∧
    writes 0x024 (fun u => u.onJob (fun j => { j with
      errtrap := if v.toNat % 4 = 3 then j.errtrap else BitVec.ofNat 2 v.toNat })) ∧
    writes 0x029 (fun u => u.onJob (fun j => { j with pressstall := v })) ∧
    (s.cur = .V →
      writes 0x00A (fun u => u.onJob (fun j => { j with
        et := match fmtOfCode (v.toNat % 16) with
          | some e => if e = .e2m1 ∨ e = .i64 ∨ e = .n64 then j.et else e
          | none => j.et })) ∧
      writes 0x00B (fun u =>
        let size := v.toNat / 64 % 4
        let live := v.toNat % 32
        if size = 3 ∨ (size = 1 ∧ (live = 0 ∨ 8 < live)) ∨ (size = 2 ∧ (live = 0 ∨ 16 < live)) then u
        else u.onJob (fun j => { j with
          rsize := BitVec.ofNat 2 size, rlive := BitVec.ofNat 5 live, rbase := 0, slotLive := 0 })) ∧
      writes 0x00C (fun u => u.onJob (fun j => { j with
        rbase := BitVec.ofNat 4 (v.toNat % (if j.rsize = 1 then 8 else if j.rsize = 2 then 16 else 1)) })) ∧
      writes 0x028 (fun u => u.onJob (fun j => { j with deadrd := v }))) ∧
    (s.job.owner = 0 →
      writes 0x200 (fun u => u.onJob (fun j => { j with ttbase := v &&& 0xE00000FFFFFFFFE0 })) ∧
      writes 0x201 (fun u => { u with epsmax := BitVec.ofNat 32 v.toNat }) ∧
      writes 0x202 (fun u => { u with vwater := if v.toNat < s.vwater.toNat then s.vwater else v }) ∧
      writes 0x203 (fun u => { u with safemax := if v.toNat % 2 ^ 16 = 0 then s.safemax else BitVec.ofNat 16 v.toNat }) ∧
      writes 0x205 (fun u => u.onDie s.myDie (fun d => { d with fqOvf := d.fqOvf && !v.getLsbD 63 })) ∧
      (∀ i : Fin 7, writes (BitVec.ofNat 10 (0x210 + i.val)) (fun u => { u with age := u.age.set i (BitVec.ofNat 16 v.toNat) }))))

/-! ## Taking a trap, and coming back -/

/-- R359, R361, R363, R365, R366: what taking a trap in a stream does. A parking trap (PAGE_ABSENT, TILE_ABSENT, POOL_EMPTY, SVC)
leaves the stream before the instruction, parks the job and notes the fault; an ending trap ends the job's launch with status
5 (R104) and its code. Both write one fault entry, of the words of R365, at the die of the core. That the ATTEMPT of code 0x14
is 1, whatever the attempt of the stream, is the model's reading (log 39, DEDUCED). -/
def Obligations.TrapEntry : Prop :=
  ∀ (code : BitVec 8) (access : BitVec 2) (loc : Word) (s : State), s.hasJob →
    let d := s.myDie
    let seq := BitVec.ofNat 2 d.val ++ s.dies[d].faults
    let n := if code = 0x14 then 1 else min (s.st.attempt + 1) 127
    let parks := code = 0x08 ∨ code = 0x09 ∨ code = 0x0A ∨ code = 0x14
    let w0 := BitVec.ofNat 64 (2 ^ 32 * seq.toNat + 2 ^ 24 * code.toNat + 2 ^ 21 * streamNo s.cur + 2 ^ 8 * n +
      (if parks then 0 else 2 ^ 7) + 2 ^ 5 * access.toNat)
    let w1 := BitVec.ofNat 64 (2 ^ 32 * (s.job.lid.toNat % 2 ^ 32) + 2 ^ 16 * s.job.owner.toNat + 2 ^ 8 * (s.job.core % 256) +
      2 ^ 4 * (s.job.lid.toNat / 2 ^ 60))
    let t := takeTrap ⟨code, access, loc, none⟩ s
    (parks →
      t.job.phase = .parked ∧ t.job.trapinfo = w0 ∧ t.st.attempt = n ∧ t.st.pc = s.st.pc ∧ t.job.tokens = s.job.tokens ∧
      t.parked = s.parked ++ [⟨seq, code, s.job.uid, s.cur, none, n, none, none, []⟩] ∧
      t.dies[d].waiting = s.dies[d].waiting ++ [(w0, w1, loc, s.st.pc.setWidth 64)] ∧
      t.dies[d].faults = s.dies[d].faults + 1 ∧ (∀ r : SReg, t.reg r = s.reg r) ∧ t.mem = s.mem ∧
      t.launches = s.launches) ∧
    (¬ parks →
      t.job = Job.reset s.job.core ∧ (∀ f ∈ t.parked, f.uid ≠ s.job.uid) ∧ t.dies[d].faults = s.dies[d].faults + 1 ∧
      (∃ e ∈ t.dies[d].waiting, e = (w0, w1, loc, s.st.pc.setWidth 64)) ∧
      (∀ l ∈ t.launches, l.id = s.job.launch → (∃ m ∈ s.launches, m.id = l.id ∧ m.state = .ended) ∨
        (l.state = .ended ∧ l.status = 5 ∧ l.trap = code)))

/-- R367, R363, R117, R359, R360, R361, R365: TRAP takes the tokens of its waits and parks its job with code SVC and WHERE s[a],
its pc past it; its signals do not act yet. That the ATTEMPT of its entry and of the parked fault is 1, whatever the attempt
of the stream, is the model's reading (log 39, DEDUCED). The traps of a job. With all four streams blocked on a queue, a token
or RDV, or halted, and not all halted, WHEEL_STALL ends the launch; MACHINE_ERROR ends it at any time. The entry names no
instruction. That WHEEL_STALL comes also with some of the streams halted is the model's reading (log 22, DEDUCED). R50 (log
44): the tile entry caches, whose moves are turns of their own. A device change of an entry is seen by every core at once, and
stands in the table unless a copy keeps it back; bytes that are stored into a table change no copy. A cache that has room
takes an entry of its job's tables as its core sees it. A copy that is dropped has its kept changes written back. A parity
error on a copy drops it, so that the entry is read from the table again; where the copy keeps a change back that the table
does not have, it ends the core's job with MACHINE_ERROR. -/
def Obligations.CallsAndJobTraps : Prop :=
  (∀ (w : Wheel) (d a : SReg) (s : State), s.canStart w (regBit d ||| regBit a) = true → s.hasJob →
    let seq := BitVec.ofNat 2 s.myDie.val ++ s.dies[s.myDie].faults
    ∃ t : State, exec (.trap w d a) s = .next t ∧ t.job.phase = .parked ∧ t.st.pc = s.st.pc + 4 ∧
      t.job.tokens = (s.job.afterWaits s.cur w).tokens ∧ t.st.oweP = s.st.oweP ∧ t.st.oweS = s.st.oweS ∧
      t.parked = s.parked ++ [⟨seq, 0x14, s.job.uid, s.cur, none, 1, some (d, w), none, []⟩] ∧
      (∃ w0 w1 : Word, t.dies[s.myDie].waiting = s.dies[s.myDie].waiting ++ [(w0, w1, s.reg a, s.st.pc.setWidth 64)] ∧
        w0.toNat / 2 ^ 24 % 2 ^ 8 = 0x14 ∧ w0.toNat / 2 ^ 8 % 128 = 1 ∧ w0.toNat / 2 ^ 5 % 4 = 3) ∧
      (∀ r : SReg, t.reg r = s.reg r) ∧ t.mem = s.mem) ∧
  (∀ (i : Instr) (code : BitVec 8) (s : State), s.hasJob →
    let stalled := s.job.phase = .running ∧ (∃ x : StreamId, (s.job.stream x).phase ≠ .halted) ∧
      ∀ x : StreamId, (s.job.stream x).phase = .halted ∨
        (s.job.stream x).blocked ∈ ([some .token, some .queue, some .rdv] : List (Option Blocked))
    ((i = .wheelStall ∧ code = 0x11 ∧ stalled) ∨ (i = .machineError ∧ code = 0x12) →
      ∃ t : State, exec i s = .next t ∧ t.job = Job.reset s.job.core ∧
        (∀ l ∈ t.launches, l.id = s.job.launch → (∃ m ∈ s.launches, m.id = l.id ∧ m.state = .ended) ∨
          (l.state = .ended ∧ l.status = 5 ∧ l.trap = code)) ∧
        (∃ w0 w1 : Word, (w0, w1, 0, 0) ∈ t.dies[s.myDie].waiting ∧ w0.toNat % 2 ^ 32 = code.toNat * 2 ^ 24 + 0x1E0)) ∧
    (¬ stalled → exec .wheelStall s = .next s)) ∧
  ((∀ (s : State) (k : Nat) (t : Tte) (j : Job), s.memOk →
    let u := s.setTte k t
    State.tte { u with job := j } k = t ∧ ((∀ c ∈ s.entries, c.key = k → c.late = false) → u.tableTte k = t) ∧
    ((∃ c ∈ s.entries, c.key = k ∧ c.late = true) → u.mem = s.mem)) ∧
  (∀ (s : State) (k key : Nat) (bs : List Byte) (c : TteCopy), s.entryCopy k = some c → (s.storeBytes key bs).tte k = c.tte) ∧
  (∀ (s : State) (core k : Nat) (idx : BitVec 33) (late : Bool) (bad : List (Nat × Bool)) (rest : List Turn),
    let v := State.focus { s with agenda := rest, bad := bad } core
    let turn := fun (m : CacheMove) => step { s with agenda := ⟨core, .entry m, bad⟩ :: rest }
    let left := v.entries.filter (fun c => !(c.key == k && c.core == v.job.core))
    (entryKey v.job.tctx 0 idx.toNat = .ok k → v.hasJob → left = v.entries →
      (v.entries.filter (·.core == v.job.core)).length < 256 → v.good k 64 = true →
      turn (.take idx late) = .next { v with entries := v.entries ++ [⟨v.job.core, k, v.tte k, late⟩] }) ∧
    (left = v.entries → turn (.drop k) = .next v ∧ turn (.parity k) = .next v) ∧
    (∀ c ∈ v.entries, c.key = k → c.core = v.job.core → (∀ d ∈ v.entries, d.key = k → d.core = v.job.core → d = c) →
      (c.late = false → turn (.drop k) = .next { v with entries := left }) ∧
      (c.late = true → v.memOk → ∃ u : State, turn (.drop k) = .next u ∧ u.entries = left ∧ u.tableTte k = c.tte ∧
        ∀ x : Nat, x < k ∨ k + 64 ≤ x → memByte u.mem x = memByte v.mem x) ∧
      (c.late = false ∨ c.tte = v.tableTte k → turn (.parity k) = .next { v with entries := left }) ∧
      (c.late = true → c.tte ≠ v.tableTte k → turn (.parity k) = exec .machineError { v with entries := left }))))

/-- R366, R368, R370, R363, R367, R369: FQACK and SRET in a supervisor job. Status 1 where no parked fault that awaits an
acknowledgement has the SEQ; status 2 where SRET names no supervisor call; else the acknowledgement is noted with what the
acknowledging job passes on, the job's epoch rises (log 81, DEDUCED) and its floors go to every die (log 49, DEDUCED); with
act = end the job of the fault ends with its code, without a second entry. An acknowledged fault that stands first on its die,
with no earlier fault of its job left, resumes: the fault is gone; with no other stream fault left its job runs again; a reply
is written into the TRAP's s[d], a retry leaves the stream's registers, and either way the TRAP's signals act: each adds a
token where its counter is below 15, and else its stream owes it (R124); a thread's command is no longer parked, in a job that
runs or is parked, whose phase stays; the resumed party acquires what the acknowledging job passed on. An unacknowledged fault
does not resume. -/
def Obligations.AcknowledgedFaults : Prop :=
  (∀ (w : Wheel) (d a r : SReg) (s : State), s.canStart w (regBit d ||| regBit a ||| regBit r) = true → s.job.owner = 0 →
    let seq := BitVec.ofNat 32 (s.reg a).toNat
    let noted := fun (k : Ack) (u : State) =>
      (State.onJob { u.setReg d 0 with parked := s.parked.map (fun f =>
          if f.seq = seq then { f with ack := some k, carried := s.job.passes } else f) }
        (fun j => { j with epoch := s.job.epoch + 1, touched := false })).spread s.myDie
    ((∀ f ∈ s.parked, f.seq = seq → f.ack ≠ none) →
      (∀ e : Bool, exec (.fqack w d a e) s = s.does w 1 (·.setReg d 1)) ∧ exec (.sret w d a r) s = s.does w 1 (·.setReg d 1)) ∧
    (∀ f : Parked, s.parked.find? (fun f => f.seq == seq && f.ack.isNone) = some f →
      exec (.fqack w d a false) s = s.does w 1 (noted .retry) ∧
      (f.code = 0x14 → exec (.sret w d a r) s = s.does w 1 (noted (.reply (s.reg r)))) ∧
      (f.code ≠ 0x14 → exec (.sret w d a r) s = s.does w 1 (·.setReg d 2)) ∧
      exec (.fqack w d a true) s = s.does w 1 (fun u =>
        State.endByTrap { u.setReg d 0 with parked := s.parked.filter (fun g => g.seq != f.seq) } f.uid f.code))) ∧
  (∀ (f : Parked) (s : State),
    (nextResumable s.parked (f.seq.extractLsb' 30 2) = some f → f.uid = s.job.uid → s.hasJob →
      ∃ t : State, exec (.faultResume f.seq) s = .next t ∧ t.parked = s.parked.filter (fun g => g.seq != f.seq) ∧ t.mem = s.mem ∧
        (f.thread = none → t.job.acq = s.job.acq.merge f.carried ∧ (s.job.phase = .parked →
          (∀ g ∈ s.parked, g.seq ≠ f.seq → g.uid = f.uid → g.thread ≠ none) → t.job.phase = .running)) ∧
        (∀ (d : SReg) (w : Wheel) (v : Word), f.thread = none → f.svc = some (d, w) → f.ack = some (.reply v) →
          (t.job.stream f.stream).reg d = (if d = 0 then 0 else v) ∧ (t.job.stream f.stream).pc = (s.job.stream f.stream).pc) ∧
        (∀ (d : SReg) (w : Wheel), f.thread = none → f.svc = some (d, w) →
          (f.ack = some .retry → ∀ r : SReg, (t.job.stream f.stream).reg r = (s.job.stream f.stream).reg r) ∧
          (∀ c : Fin 8, t.job.tokens[c] =
            if (c = spOf f.stream ∧ w.sp = true ∨ c = ssOf f.stream ∧ w.ss = true) ∧ s.job.tokens[c] ≠ 15
            then s.job.tokens[c] + 1 else s.job.tokens[c]) ∧
          ((t.job.stream f.stream).oweP = true ↔ w.sp = true ∧ s.job.tokens[spOf f.stream] = 15) ∧
          ((t.job.stream f.stream).oweS = true ↔ w.ss = true ∧ s.job.tokens[ssOf f.stream] = 15)) ∧
        (∀ (e : Engine) (id : Nat), f.thread = some (e, id) →
          t.job.phase = s.job.phase ∧ t.job.tokens = s.job.tokens ∧ t.job.acq = s.job.acq ∧
          t.job.cmds e = (s.job.cmds e).map (fun c => if c.id = id then { c with parked := false } else c) ∧
          ∀ c : Cmd, (s.job.cmds e).find? (·.id == id) = some c →
            t.job.threadTable (threadSub e c.cc) = (s.job.threadTable (threadSub e c.cc)).merge f.carried)) ∧
    (f ∈ s.parked → (∀ g ∈ s.parked, g.seq = f.seq → g.ack = none) → exec (.faultResume f.seq) s = .next s))

/-- R364, R365: a die writes its oldest waiting entry at slot TAIL mod size of its ring, four words, and then counts it in TAIL;
into a full ring it writes nothing and sets OVF. A store that meets an uncorrectable error is dropped: it is counted for the
owner that the entry names, and the entry waits still (R393, R394; log 42, DESIGN CHOICE). A write of FQHEAD takes HEAD where
it leaves at most the ring's size of entries, and SZ and LOC where the ring is then empty and SZ is at most 10. -/
def Obligations.FaultRing : Prop :=
  ∀ (die : BitVec 2) (v : Word) (s : State),
    let i := die.toFin
    let d := s.dies[i]
    let size := 2 ^ (d.fqSz.toNat + 6)
    (d.waiting = [] → exec (.faultEntryWrite die) s = .next s) ∧
    (∀ (e : Word × Word × Word × Word) (rest : List (Word × Word × Word × Word)), d.waiting = e :: rest →
      ((d.fqTail - d.fqHead).toNat = size →
        exec (.faultEntryWrite die) s = .next (s.onDie i (fun d => { d with fqOvf := true }))) ∧
      (let pa := 512 * d.fqLoc.toNat + 32 * (d.fqTail.toNat % size)
       (d.fqTail - d.fqHead).toNat ≠ size → pa + 32 ≤ 2 ^ 31 → s.memOk →
        let hit := ∃ b ∈ s.bad, cellKey .vat pa ≤ b.1 ∧ b.1 < cellKey .vat pa + 32
        (hit → exec (.faultEntryWrite die) s = .next (s.countCorrupt (BitVec.ofNat 16 (e.2.1.toNat / 2 ^ 16)))) ∧
        (¬ hit → ∃ t : State, exec (.faultEntryWrite die) s = .next t ∧ t.dies[i] = { d with fqTail := d.fqTail + 1, waiting := rest } ∧
          memRead t.mem (cellKey .vat pa) 32 =
            leBytes 8 e.1.toNat ++ leBytes 8 e.2.1.toNat ++ leBytes 8 e.2.2.1.toNat ++ leBytes 8 e.2.2.2.toNat ∧
          (∀ k : Nat, k < cellKey .vat pa ∨ cellKey .vat pa + 32 ≤ k → memByte t.mem k = memByte s.mem k) ∧
          t.job = s.job))) ∧
    (let d := s.dies[s.myDie]
     let size := 2 ^ (d.fqSz.toNat + 6)
     let head := if (d.fqTail - BitVec.ofNat 16 v.toNat).toNat ≤ size then BitVec.ofNat 16 v.toNat else d.fqHead
     exec (.fqheadWrite v) s = .next (s.onDie s.myDie (fun d =>
       if v.toNat / 2 ^ 60 ≤ 10 ∧ head = d.fqTail then
         { d with fqHead := head, fqSz := BitVec.ofNat 4 (v.toNat / 2 ^ 60), fqLoc := BitVec.ofNat 40 (v.toNat / 2 ^ 16) }
       else { d with fqHead := head })) ∧
     (∀ (w : Wheel) (a : SReg), s.canStart w (regBit a) = true → s.job.owner = 0 → s.reg a = v →
       exec (.csrw w a 0x204) s = s.does w 1 (fun u => u.onDie s.myDie (fun d =>
         if v.toNat / 2 ^ 60 ≤ 10 ∧ head = d.fqTail then
           { d with fqHead := head, fqSz := BitVec.ofNat 4 (v.toNat / 2 ^ 60), fqLoc := BitVec.ofNat 40 (v.toNat / 2 ^ 16) }
         else { d with fqHead := head }))))

/-- R373, R374, R376: a stream takes an interrupt where its job runs, UVEC.EN = 1, IN = 0, PEND ≠ 0 or an error event stands, and
it stands at a boundary: not past HALT, not in a BAR (log 39) or a TREDST (log 69) that has issued, nor held at SAFE while
pre-emption is requested. Then it is delivered, by the event to the first such stream and by the stream's own turn: a stream
that was released at a SAFE, or held at one, runs from then on, so that it holds again at its next SAFE (R376). URET raises
ILLEGAL_STREAM outside a handler, MISALIGN for a misaligned return address (WHERE is its low 57 bits, ACCESS that of a fetch:
log 39, DEDUCED), and else returns. -/
def Obligations.UserInterrupts : Prop :=
  ∀ (w : Wheel) (s : State),
    let takes := fun (y : StreamId) =>
      let u := s.job.stream y
      s.job.phase = .running ∧ u.uvec.getLsbD 63 = true ∧ u.inHandler = false ∧ (u.upend ≠ 0 ∨ u.errEvent ≠ none) ∧
        u.barAt = none ∧ u.redAt = none ∧ (u.phase = .running ∨ u.phase = .released ∨ (s.job.preempt = false ∧ ∃ id, u.phase = .held id))
    let delivered := fun (x : StreamId) (t : State) =>
      let u := s.job.stream x
      let v := t.job.stream x
      v.inHandler = true ∧ v.phase = .running ∧ v.pc.toNat = u.uvec.toNat % 2 ^ 57 / 4 * 4 ∧ v.reg 15 = u.pc.setWidth 64 ∧ v.regs = u.regs ∧
        v.tags = u.tags ∧ v.errEvent = none ∧ v.fpctl = u.fpctl ∧ t.job.tokens = s.job.tokens ∧ t.job.cc = s.job.cc ∧
        t.job.acq = s.job.acq ∧ t.job.vregs = s.job.vregs ∧ t.mem = s.mem ∧
        (∀ y : StreamId, y ≠ x → t.job.stream y = s.job.stream y) ∧
        (u.errEvent = none → ∃ c : Cc, u.upend.getLsbD c.toNat = true ∧ (∀ i < c.toNat, u.upend.getLsbD i = false) ∧
          (∀ i : Nat, v.upend.getLsbD i = if i = c.toNat then false else u.upend.getLsbD i) ∧
          v.reg 14 = BitVec.ofNat 64 ((s.job.cc[c.toNat]'c.isLt).toNat / 2 ^ 48 * 2 ^ 16 + c.toNat)) ∧
        (∀ e : ErrEvent, u.errEvent = some e → v.upend = u.upend ∧
          v.reg 14 = BitVec.ofNat 64 (e.status.toNat * 2 ^ 16 + e.src.toNat * 2 ^ 8 + e.cc.toNat))
    (∀ x : StreamId, takes x → (∀ y : StreamId, streamNo y < streamNo x → ¬ takes y) →
      ∃ t : State, exec .uintDelivery s = .next t ∧ delivered x t) ∧
    ((∀ x : StreamId, ¬ takes x) → exec .uintDelivery s = .next s) ∧
    (∀ (x : StreamId) (rest : List Turn) (bad : List (Nat × Bool)), takes x → (s.job.stream x).phase = .running →
      (s.job.stream x).oweP = false → (s.job.stream x).oweS = false →
      ∃ t : State, step { s with agenda := ⟨s.job.core, .issue x, bad⟩ :: rest } = .next t ∧ delivered x t) ∧
    (s.canStart w (regBit 15) = true →
      let back := s.st.shadow[7]
      (s.st.inHandler = false → exec (.uret w) s = .next (takeTrap ⟨0x02, 3, 0, none⟩ s)) ∧
      (s.st.inHandler = true → back.toNat % 4 ≠ 0 →
        exec (.uret w) s = .next (takeTrap ⟨0x07, 2, BitVec.ofNat 64 (back.toNat % 2 ^ 57), none⟩ s)) ∧
      (s.st.inHandler = true → back.toNat % 4 = 0 →
        exec (.uret w) s = s.does w 1 (fun u => u.onSt (fun t => { t with pc := BitVec.ofNat 57 back.toNat, inHandler := false }))))

/-- R327, R115: LAUNCH of an aligned, readable record submits it as the last launch: the call index of the stream rises, the job
releases its epoch, and the new launch has the job as parent, its counter, the job's depth plus one, and the record's words. A
record that meets an uncorrectable error is dropped and counted, and the launch has no words (log 42, DESIGN CHOICE). A
misaligned record raises MISALIGN. -/
def Obligations.LaunchSubmits : Prop :=
  ∀ (w : Wheel) (cc : Cc) (a : SReg) (s : State), s.canStart w (regBit a) = true → (s.cur = .A ∨ s.cur = .E) →
    let va := (s.reg a).toNat % 2 ^ 57
    (va % 256 ≠ 0 → exec (.launch w cc a) s = .next (takeTrap ⟨0x07, 0, BitVec.ofNat 64 va, none⟩ s)) ∧
    (∀ (p : Phys), (∀ l ∈ s.launches, l.id < s.nextLaunch) → va % 256 = 0 →
      (s.started w 1).translate va 0 = .ok (p, s.started w 1) → p.pa + 256 ≤ tierSize p.tier →
      let meets := ∃ b ∈ s.bad, p.key ≤ b.1 ∧ b.1 < p.key + 256
      let words := (List.range 32).map (fun i => BitVec.ofNat 64 (leNat (memRead s.mem (p.key + 8 * i) 8)))
      ∃ t : State, exec (.launch w cc a) s = .next t ∧ t.st.calls = s.st.calls + 1 ∧ t.nextLaunch = s.nextLaunch + 1 ∧
        (meets → t.job.errcnt = s.job.errcnt + 1) ∧ (¬ meets → t.job.errcnt = s.job.errcnt) ∧
        t.job.epoch = s.job.epoch + 1 ∧ t.launches.length = s.launches.length + 1 ∧
        (∀ l : Launch, t.launches[s.launches.length]? = some l → l.id = s.nextLaunch ∧ l.tag = none ∧
          l.parent = some (s.job.uid, cc) ∧ l.depth = s.job.depth + 1 ∧ l.parentEpoch = some s.job.epoch ∧
          (¬ meets → l.words = words) ∧ (meets → l.words = [])))

/-! ## Memory, atomics, capabilities and engine commands -/

/-- R198, R199, R200: an address that no TLB holds, or that a retry names, is walked through the four levels of its owner's
tables. A leaf of a 1 GiB, 2 MiB or 4 KiB page gives the place, where it allows the access, and is then held (log 34, DESIGN
CHOICE: R200 lets a TLB hold it). An entry that R200 treats as absent raises PAGE_ABSENT (0x08) at every level: not valid, a
leaf at the root, of no tier or misaligned, a non-leaf at level 1 or outside VAT and PKG; and so does a leaf that does not
allow the access. The reads of a walk that gives a place carry floors between the core's die and the homes of the tables
(R338; log 49); a read of an entry that meets an uncorrectable error is dropped, and the walk with it (R394; log 42, DESIGN
CHOICE). -/
def Obligations.PageWalk : Prop :=
  ∀ (s : State) (o : Owner) (id : BitVec 16) (retry : Bool) (va : Nat) (access : BitVec 2) (a b c : Nat) (ta tb tc : Tier),
    va < 2 ^ 57 → s.owners.find? (·.id == id) = some o → (retry = true ∨ tlbHit s id va = none) → o.root + 2 ^ 21 ≤ 2 ^ 40 →
    let k4 := cellKey .pkg (o.root + 8 * (va / 2 ^ 39))
    let k3 := cellKey ta (a + 8 * (va / 2 ^ 30 % 512))
    let k2 := cellKey tb (b + 8 * (va / 2 ^ 21 % 512))
    let k1 := cellKey tc (c + 8 * (va / 2 ^ 12 % 512))
    let e4 := s.load64 k4
    let e3 := s.load64 k3
    let e2 := s.load64 k2
    let e1 := s.load64 k1
    let table := fun (e : Word) (t : Tier) (at_ : Nat) => e.getLsbD 63 = true ∧ e.getLsbD 59 = false ∧ pteTier e = some t ∧
      (t = .vat ∨ t = .pkg) ∧ pteFrame e = at_ ∧ at_ + 4096 ≤ tierSize t
    let raises := translate s id retry va access = .error (.trap ⟨0x08, access, BitVec.ofNat 64 va, none⟩)
    let absent := fun (e : Word) (level : Nat) => e.getLsbD 63 = false ∨
      (e.getLsbD 59 = true ∧ (level = 4 ∨ pteTier e = none ∨ pteFrame e % 2 ^ (12 + 9 * (level - 1)) ≠ 0)) ∨
      (e.getLsbD 59 = false ∧ (level = 1 ∨ (pteTier e ≠ some .vat ∧ pteTier e ≠ some .pkg)))
    let reads := fun (k : Nat) (p : Prop) =>
      (s.good k 8 = false → translate s id retry va access = .error (.post 3)) ∧ (s.good k 8 = true → p)
    let gives := fun (e : Word) (level : Nat) (keys : List Nat) =>
      let n := 12 + 9 * (level - 1)
      (absent e level → raises) ∧
      ∀ t : Tier, e.getLsbD 63 = true → e.getLsbD 59 = true → pteTier e = some t → pteFrame e % 2 ^ n = 0 →
        (leafAllows e access = true → ∃ u : State,
          translate s id retry va access = .ok (⟨t, pteFrame e + va % 2 ^ n, 2 ^ n - va % 2 ^ n⟩, u) ∧
          (∃ x, tlbHit u id va = some x ∧ x.pte = e ∧ x.bits = n) ∧
          { u with tlb := s.tlb } = keys.foldl State.exchangeWith s) ∧
        (leafAllows e access = false → raises)
    reads k4 ((absent e4 4 → raises) ∧
      (table e4 ta a → reads k3 (gives e3 3 [k4, k3] ∧
        (table e3 tb b → reads k2 (gives e2 2 [k4, k3, k2] ∧
          (table e2 tc c → reads k1 (gives e1 1 [k4, k3, k2, k1])))))))

/-- R209, R210, R1, R338, R82, R393: the scalar loads at VA = s[a] + Sext(off11) × n, with their extensions, where a translation
is held. The access carries floors between the job's die and the home of its bytes (log 16, log 49). A load that meets an
uncorrectable error writes no register, and is counted as a dropped transfer (R82, R394; log 42, DESIGN CHOICE). The scalar
stores write the low n bytes of s[s] at VA = s[a] + Sext(off11) × n, where a translation for a write is held, and nothing
else: no other byte of memory, no register, no tag; the access carries floors (log 16, log 49). A store that meets an
uncorrectable error writes nothing, and is counted as a dropped transfer (log 42, DESIGN CHOICE). What an access carries and
what a dropped one leaves. Each of two dies that is in its floor domains keeps, of its own and the other's known floors, the
greater, for the package and for every grant; nothing else changes, and nothing does where the home is the job's own die or
the place has no home on a die. A dropped transfer counts in CORRUPT of its job's owner and in ERRCNT of its job, and changes
nothing else (that a scalar access, a LAUNCH or an atomic can be dropped so is log 42, DESIGN CHOICE). -/
def Obligations.LoadAndStoreResults : Prop :=
  (∀ (w : Wheel) (d a : SReg) (off : BitVec 11) (p : Phys) (s : State), s.memOk →
    s.canStart w (regBit d ||| regBit a) = true → s.cur = .A ∨ s.cur = .E →
    let va := fun (n : Nat) => (((s.reg a).toInt + off.toInt * n) % 2 ^ 57).toNat
    let gives := fun (i : Instr) (n : Nat) (v : Nat → Word) =>
      va n % n = 0 → s.sees (va n) n 0 p →
        (s.good p.key n = true → exec i s = s.does w 1 (fun u => (u.exchangeWith p.key).setReg d (v (leAt s.mem p.key n)))) ∧
        (s.good p.key n = false → exec i s = s.does w 1 (fun u => (u.exchangeWith p.key).dropped))
    gives (.ldb w d a off) 1 (fun x => BitVec.ofInt 64 (BitVec.ofNat 8 x).toInt) ∧
    gives (.ldbn w d a off) 1 (fun x => BitVec.ofNat 64 x) ∧
    gives (.ldh w d a off) 2 (fun x => BitVec.ofInt 64 (BitVec.ofNat 16 x).toInt) ∧
    gives (.ldhn w d a off) 2 (fun x => BitVec.ofNat 64 x) ∧
    gives (.ldw w d a off) 4 (fun x => BitVec.ofInt 64 (BitVec.ofNat 32 x).toInt) ∧
    gives (.ldwn w d a off) 4 (fun x => BitVec.ofNat 64 x) ∧
    gives (.ldd w d a off) 8 (fun x => BitVec.ofNat 64 x)) ∧
  (∀ (w : Wheel) (r a : SReg) (off : BitVec 11) (p : Phys) (s : State), s.memOk →
    s.canStart w (regBit r ||| regBit a) = true → s.cur = .A ∨ s.cur = .E →
    let va := fun (n : Nat) => (((s.reg a).toInt + off.toInt * n) % 2 ^ 57).toNat
    let stores := fun (i : Instr) (n : Nat) =>
      va n % n = 0 → s.sees (va n) n 1 p →
        ∃ t : State, exec i s = .next t ∧ t.st.pc = s.st.pc + 4 ∧
          (s.good p.key n = true →
            (∀ x < n, memByte t.mem (p.key + x) = BitVec.ofNat 8 ((s.reg r).toNat / 256 ^ x)) ∧
            (∀ x : Nat, x < p.key ∨ p.key + n ≤ x → memByte t.mem x = memByte s.mem x) ∧
            t.exceptMem = (s.exchangeWith p.key).exceptMem) ∧
          (s.good p.key n = false → t.mem = s.mem ∧ t.exceptMem = (s.exchangeWith p.key).dropped.exceptMem)
    stores (.stb w r a off) 1 ∧ stores (.sth w r a off) 2 ∧ stores (.stw w r a off) 4 ∧ stores (.std w r a off) 8) ∧
  ((∀ (s : State) (k : Nat), let t := s.exchangeWith k
    { t with dies := s.dies } = s ∧
    (∀ d : Fin 4, { t.dies[d] with floorPkg := s.dies[d].floorPkg, floorGrant := s.dies[d].floorGrant } = s.dies[d]) ∧
    (homeOfKey k = none ∨ homeOfKey k = some s.myDie → t = s) ∧
    (∀ h : Fin 4, homeOfKey k = some h → h ≠ s.myDie → s.dies[h].out = false → s.dies[s.myDie].out = false →
      (∀ d : Fin 4, t.dies[d].floorPkg.toNat = if d = h ∨ d = s.myDie
        then max s.dies[h].floorPkg.toNat s.dies[s.myDie].floorPkg.toNat else s.dies[d].floorPkg.toNat) ∧
      (∀ g : Nat, (s.dies[h].floorGrant.Pairwise (fun x y => x.1 ≠ y.1)) →
        (s.dies[s.myDie].floorGrant.Pairwise (fun x y => x.1 ≠ y.1)) →
        ∀ d : Fin 4, (assocGet 0 t.dies[d].floorGrant g).toNat = if d = h ∨ d = s.myDie
          then max (assocGet 0 s.dies[h].floorGrant g).toNat (assocGet 0 s.dies[s.myDie].floorGrant g).toNat
          else (assocGet 0 s.dies[d].floorGrant g).toNat))) ∧
  (∀ s : State, s.dropped = { s with
    owners := s.owners.map (fun o => if o.id = s.job.owner then { o with corrupt := o.corrupt + 1 } else o)
    job := { s.job with errcnt := s.job.errcnt + 1 } }))

/-- R210, R200, R212: a misaligned access raises MISALIGN (0x07) before translation, whatever the TLBs hold; an access whose held
leaf does not allow it, or whose owner has no tables, raises PAGE_ABSENT (0x08). Both name the address and the kind of access.
R173: a JR to a misaligned address raises MISALIGN and has no other effect; its ACCESS is 2, a fetch (log 39, DEDUCED). -/
def Obligations.AccessTraps : Prop :=
  (∀ (w : Wheel) (o : AmoOrd) (d a b : SReg) (off : BitVec 11) (s : State),
    s.canStart w (regBit d ||| regBit a ||| regBit b ||| (if o = .ord then regBit (b ||| 1) else 0)) = true →
    s.cur = .A ∨ s.cur = .E →
    let va := fun (off : Int) (n : Nat) => (((s.reg a).toInt + off * n) % 2 ^ 57).toNat
    let absent := fun (v : Nat) (access : BitVec 2) => s.st.attempt = 0 ∧
      ((∃ e, tlbHit s s.job.owner v = some e ∧ leafAllows e.pte access = false) ∨
        (tlbHit s s.job.owner v = none ∧ s.owners.find? (·.id == s.job.owner) = none))
    let traps := fun (i : Instr) (v n : Nat) (access : BitVec 2) =>
      (v % n ≠ 0 → exec i s = .next (takeTrap ⟨0x07, access, BitVec.ofNat 64 v, none⟩ s)) ∧
      (v % n = 0 → absent v access → exec i s = .next (takeTrap ⟨0x08, access, BitVec.ofNat 64 v, none⟩ s))
    let v := fun (n : Nat) => va off.toInt n
    traps (.ldb w d a off) (v 1) 1 0 ∧ traps (.ldbn w d a off) (v 1) 1 0 ∧ traps (.ldh w d a off) (v 2) 2 0 ∧
    traps (.ldhn w d a off) (v 2) 2 0 ∧ traps (.ldw w d a off) (v 4) 4 0 ∧ traps (.ldwn w d a off) (v 4) 4 0 ∧
    traps (.ldd w d a off) (v 8) 8 0 ∧ traps (.stb w d a off) (v 1) 1 1 ∧ traps (.sth w d a off) (v 2) 2 1 ∧
    traps (.stw w d a off) (v 4) 4 1 ∧ traps (.std w d a off) (v 8) 8 1 ∧
    (∀ i ∈ ([.amoadd w o d a b, .amoand w o d a b, .amoor w o d a b, .amoxor w o d a b, .amomin w o d a b, .amomax w o d a b,
        .amominn w o d a b, .amomaxn w o d a b, .amoxchg w o d a b, .amocas w o d a b, .amoincb w o d a b] : List Instr),
      traps i (va 0 1) 8 1) ∧
    traps (.amofadd w o d a b) (va 0 1) 4 1) ∧
  (∀ (w : Wheel) (a : SReg) (s : State), s.canStart w (regBit a) = true → (s.reg a).toNat % 4 ≠ 0 →
    exec (.jr w a) s = .next (takeTrap ⟨0x07, 2, BitVec.ofNat 64 ((s.reg a).toNat % 2 ^ 57), none⟩ s))

/-- R211, R212, R323, R324: an atomic without .ord, where a translation for a write is held: s[d] receives the old word, the
stored value stands at the address where the table of R211 stores one, and no other byte of memory changes. With no ordering
option nothing else changes but the floors that its request and response carry between two dies (R338; log 16). One that meets
an uncorrectable error changes no byte, register, set or epoch, and is counted as a dropped transfer (log 42, DESIGN CHOICE).
With .rel a store adds the job's table and the job at its epoch to the word's release set (outside HOST) and advances the
epoch; an atomic that does not store releases nothing. With .acq the release set of its word is merged into the job's table
(R324). -/
def Obligations.AtomicResults : Prop :=
  ∀ (w : Wheel) (o : AmoOrd) (d a b : SReg) (p : Phys) (s : State), s.memOk → o ≠ .ord →
    s.canStart w (regBit d ||| regBit a ||| regBit b) = true → s.cur = .A ∨ s.cur = .E →
    let va := (s.reg a).toNat % 2 ^ 57
    let v := s.reg b
    let c := s.reg d
    let word := p.key / 8 * 8
    let gives := fun (i : Instr) (n : Nat) (f : Word → Option Word) =>
      va % n = 0 → s.sees va n 1 p →
        let old := BitVec.ofNat 64 (leAt s.mem p.key n)
        (s.good p.key n = false → exec i s = s.does w 1 (fun u => (u.exchangeWith p.key).dropped)) ∧
        (s.good p.key n = true → ∃ t : State, exec i s = .next t ∧ t.reg d = (if d = 0 then 0 else old) ∧
          leAt t.mem p.key n = (((f old).getD old).toNat % 256 ^ n) ∧
          (∀ x : Nat, x < p.key ∨ p.key + n ≤ x → memByte t.mem x = memByte s.mem x) ∧
          (∀ r : SReg, r ≠ d → t.reg r = s.reg r) ∧
          t.dies = (s.exchangeWith p.key).dies ∧
          (o = .none → t.exceptMemReg d = (s.exchangeWith p.key).exceptMemReg d) ∧
          (o = .rel → t.job.epoch = (if (f old).isSome then s.job.epoch + 1 else s.job.epoch)) ∧
          (o = .rel → f old = none ∨ p.tier = .host → t.relsets = s.relsets) ∧
          (o = .rel → (f old).isSome = true → p.tier ≠ .host →
            t.relset word = ((s.relset word).merge s.job.acq).acquire ⟨s.job.uid, 0⟩ s.job.epoch ∧ t.job.acq = s.job.acq) ∧
          (o = .acq → t.job.epoch = s.job.epoch ∧ t.job.acq = s.job.acq.merge (s.relset word) ∧ t.relsets = s.relsets))
    gives (.amoadd w o d a b) 8 (fun old => some (old + v)) ∧
    gives (.amoand w o d a b) 8 (fun old => some (old &&& v)) ∧
    gives (.amoor w o d a b) 8 (fun old => some (old ||| v)) ∧
    gives (.amoxor w o d a b) 8 (fun old => some (old ^^^ v)) ∧
    gives (.amomin w o d a b) 8 (fun old => some (if v.toInt < old.toInt then v else old)) ∧
    gives (.amomax w o d a b) 8 (fun old => some (if old.toInt < v.toInt then v else old)) ∧
    gives (.amominn w o d a b) 8 (fun old => some (if v.toNat < old.toNat then v else old)) ∧
    gives (.amomaxn w o d a b) 8 (fun old => some (if old.toNat < v.toNat then v else old)) ∧
    gives (.amoxchg w o d a b) 8 (fun _ => some v) ∧
    gives (.amocas w o d a b) 8 (fun old => if old = c then some v else none) ∧
    gives (.amoincb w o d a b) 8 (fun old => if old.toNat < v.toNat then some (old + 1) else none) ∧
    gives (.amofadd w o d a b) 4 (fun old => some (BitVec.ofNat 64
      (roundTo .fp32 rneCtx (addVal .rne (decodeVal .fp32 old.toNat) (decodeVal .fp32 (v.toNat % 2 ^ 32))).1).1))

/-- R213, R216, R217, R226, R52, R6, R223, R326: the commands of the Vat operation queue. An ordered atomic, OBOPEN and OBCLOSE
whose address a TLB translates are accepted with what they captured; the ordered atomic's s[d] is pending from then on; a full
queue stalls. TINFO reads word n of a tile's entry into s[s], where checks 1 to 7 pass, for every class; SFIN reads as NOT
(SNAN OR SINF) and reserved bits as zero; its access carries floors between the job's die and the home of the entry, where the
core has no copy of it (R338, R50; log 49). An entry that is not well-formed, ABSENT, or with an error (log 42) raises
TILE_ABSENT (0x09, a read, with the tile index), and a tier or owner that check 6 or 7 refuses CAP_PERM. TREDST is accepted
into the Vat operation queue; where the checks of its tiles and its shapes pass, the write record of its destination is placed
with it; where a check traps, the command is accepted and its stream waits at the TREDST, which completes once the record is
placed, or the command has ended (log 69, DEDUCED). -/
def Obligations.VatQueueAndTinfoResults : Prop :=
  (∀ (w : Wheel) (d a b : SReg) (cc : Cc) (id : BitVec 16) (p : Phys) (s : State), s.cur = .A ∨ s.cur = .E →
    let va := (s.reg a).toNat % 2 ^ 57
    let room := s.job.vqQ.length < 64
    let amos : List (Instr × Nat) := [(.amoadd w .ord d a b, 8), (.amoand w .ord d a b, 8), (.amoor w .ord d a b, 8),
      (.amoxor w .ord d a b, 8), (.amomin w .ord d a b, 8), (.amomax w .ord d a b, 8), (.amominn w .ord d a b, 8),
      (.amomaxn w .ord d a b, 8), (.amoxchg w .ord d a b, 8), (.amocas w .ord d a b, 8), (.amoincb w .ord d a b, 8),
      (.amofadd w .ord d a b, 4)]
    (∀ (i : Instr) (n : Nat), (i, n) ∈ amos →
      s.canStart w (regBit d ||| regBit a ||| regBit b ||| regBit (b ||| 1)) = true → va % n = 0 → s.sees va n 1 p →
      (room → ∃ c : Cmd, c.capturedBy s i d false ∧ c.x = s.reg b ∧ c.y = s.reg (b ||| 1) ∧ c.c = s.reg d ∧
        c.pa = p.pa ∧ c.tier = p.tier ∧
        exec i s = s.does w 1 (fun u => (u.accepts .vq c).onSt (fun t => t.setPend t.inHandler d true))) ∧
      (¬ room → exec i s = .next (s.block .engineQueue))) ∧
    (∀ i ∈ ([.obopen w cc a b id, .obclose w cc a b] : List Instr), s.canStart w (regBit a ||| regBit b) = true →
      s.sees va 0 1 p →
      (room → ∃ c : Cmd, c.capturedBy s i cc false ∧ c.x = s.reg a ∧ c.y = s.reg b ∧ c.pa = p.pa ∧ c.tier = p.tier ∧
        c.room = p.room ∧
        exec i s = s.does w (if i = .obopen w cc a b id then 2 else 1) (fun u => u.accepts .vq c)) ∧
      (¬ room → exec i s = .next (s.block .engineQueue)))) ∧
  (∀ (w : Wheel) (a b : Pair) (r : SReg) (cc : Cc) (uint : Bool) (n : BitVec 3) (s : State), a ≠ 0 → b ≠ 0 →
    s.cur = .A ∨ s.cur = .E →
    let x := s.reg r
    let ta := (x.toNat / 2 ^ 48, x.toNat / 2 ^ 32 % 2 ^ 16)
    let tb := (x.toNat / 2 ^ 16 % 2 ^ 16, x.toNat % 2 ^ 16)
    let cap : BitVec 128 := s.st.cap a
    (s.canStart w (pairBits a ||| regBit r) = true → s.mayUse a 16 (fun _ => true) ta → s.hasJob →
      ∀ k, entryKey s.job.tctx 0 (Cap.tile cap ta.1 ta.2) = .ok k →
      let y := Cap.tile cap ta.1 ta.2
      let t := s.tte k
      let traps := fun (code : BitVec 8) (loc : Word) => exec (.tinfo w a r n) s = .next (takeTrap ⟨code, 0, loc, none⟩ s)
      (entryOk s s.job.tctx y t = .ok true → s.good k 64 = true ∨ s.entryCopy k ≠ none →
        (tierAllowed cap t = true ∧ t.owner = Cap.owner cap → ∃ v : Word, exec (.tinfo w a r n) s = s.does w 1 (fun u =>
            (if s.entryCopy k = none then u.exchangeWith k else u).setReg r v) ∧
          ∀ i < 64, v.getLsbD i =
            if (n = 0 ∧ i < 3) ∨ (n = 4 ∧ 32 ≤ i ∧ t.kind = 0) ∨ (n = 6 ∧ 32 ≤ i ∧ i < 48) then false
            else if n = 0 ∧ i = 27 then !(BitVec.getLsbD t 30 || BitVec.getLsbD t 29) else BitVec.getLsbD t (64 * n.toNat + i)) ∧
        (¬ (tierAllowed cap t = true ∧ t.owner = Cap.owner cap) → traps 0x06 0)) ∧
      (t.tier = 6 ∨ entryOk s s.job.tctx y t = .ok false ∨ (entryOk s s.job.tctx y t = .ok true ∧ s.good k 64 = false ∧ s.entryCopy k = none) →
        traps 0x09 (BitVec.ofNat 64 y))) ∧
    (∀ (id : Nat) (placed : Bool), s.st.redAt = some (id, placed) →
      let gone := ∀ c ∈ s.job.ceQ ++ s.job.mxQ ++ s.job.vqQ, c.id ≠ id
      (placed = true ∨ gone → exec (.tredst w a b r cc uint) s =
        s.ends w ((s.onSt (fun t => { t with redAt := none })).advance 1)) ∧
      (placed = false → ¬ gone → exec (.tredst w a b r cc uint) s = .next (s.block .engineQueue))) ∧
    (s.st.redAt = none →
      s.canStart w (pairBits a ||| pairBits b ||| regBit r ||| regBit (r ||| 1)) = true → s.job.vqQ.length < 64 →
      s.mayUse a 16 (fun _ => true) ta → s.mayUse b 8 (fun _ => true) tb →
      ∃ c : Cmd, c.capturedBy s (.tredst w a b r cc uint) cc uint ∧ c.capA = s.st.cap a ∧ c.capB = s.st.cap b ∧ c.x = x ∧
        c.y = s.reg (r ||| 1) ∧
        let u := (s.started w 1).accepts .vq c
        (∀ e : Trap, redPlan u (u.whoOf .vq c) c = .error (.trap e) → exec (.tredst w a b r cc uint) s =
          .next (u.onSt (fun t => { t with pc := s.st.pc, redAt := some (c.id, false), blocked := some .engineQueue }))) ∧
        (redPlan u (u.whoOf .vq c) c = .error (.post 4) →
          exec (.tredst w a b r cc uint) s = s.does w 1 (fun v => v.accepts .vq c)) ∧
        (∀ (p : Red) (v : State), redPlan u (u.whoOf .vq c) c = .ok p → placeRed (u.whoOf .vq c) c p u = .ok v →
          exec (.tredst w a b r cc uint) s = s.ends w v)))

/-- R189, R190, R191: the capability instructions. CNARROW gives the rectangle that R189 computes, with the owner, permissions and
class of its source, and CPERM the intersection of permissions; a request that R189 or R190 refuses raises CAP_BOUND (0x05) or
CAP_PERM (0x06), and an untagged source CAP_TAG (0x04). CGET and CTAG read. The largest index of an empty rectangle, ROWT or
COLT being 0, is its BASE (log 55, DESIGN CHOICE). -/
def Obligations.CapabilityResults : Prop :=
  ∀ (w : Wheel) (d a : Pair) (b r : SReg) (sel : BitVec 4) (s : State), d ≠ 0 → a ≠ 0 → sel.toNat ≤ 6 →
    let c : BitVec 128 := s.st.cap a
    let x := s.reg b
    let f := fun (lo len : Nat) => c.toNat / 2 ^ lo % 2 ^ len
    let g := fun (lo len : Nat) => x.toNat / 2 ^ lo % 2 ^ len
    let traps := fun (i : Instr) (code : BitVec 8) => exec i s = .next (takeTrap ⟨code, 3, 0, none⟩ s)
    let writes := fun (i : Instr) (base stride rowt colt low : Nat) => exec i s = s.does w 1 (fun u => u.onSt (fun t =>
      t.setCap d (BitVec.ofNat 128 (base * 2 ^ 96 + stride * 2 ^ 72 + rowt * 2 ^ 56 + colt * 2 ^ 40 + low)) true))
    (s.canStart w (pairBits d ||| pairBits a ||| regBit b) = true →
      (s.st.tag a = false → traps (.cnarrow w d a b) 0x04 ∧ traps (.cperm w d a b) 0x04) ∧
      (s.st.tag a = true →
        let base := f 96 32 + g 48 16 * f 72 24 + g 32 16
        let stride := g 0 8 * f 72 24
        let rt := g 20 12
        let ct := g 8 12
        let top := if rt = 0 ∨ ct = 0 then base else base + (rt - 1) * stride + (ct - 1)
        let fits := g 0 8 ≠ 0 ∧ stride < 2 ^ 24 ∧ base < 2 ^ 32 ∧ (rt = 0 ∨ g 48 16 + (rt - 1) * g 0 8 < f 56 16) ∧
          g 32 16 + ct ≤ f 40 16 ∧ (rt ≤ 1 ∨ ct ≤ stride) ∧ top ≤ (if f 17 2 = 0 then 1023 else 2 ^ 32 - 1)
        (fits → writes (.cnarrow w d a b) base stride rt ct (f 0 40)) ∧
        (¬ fits → traps (.cnarrow w d a b) 0x05) ∧
        let low := fun (cls : Nat) => f 24 16 * 2 ^ 24 + (f 19 5 &&& g 0 5) * 2 ^ 19 + cls * 2 ^ 17 + f 0 17
        (g 8 1 = 0 → writes (.cperm w d a b) (f 96 32) (f 72 24) (f 56 16) (f 40 16) (low (f 17 2))) ∧
        (g 8 1 = 1 → (f 17 2 = 1 ∨ f 17 2 = 2) →
          writes (.cperm w d a b) (f 96 32) (f 72 24) (f 56 16) (f 40 16) (low 2)) ∧
        (g 8 1 = 1 → ¬ (f 17 2 = 1 ∨ f 17 2 = 2) → traps (.cperm w d a b) 0x06))) ∧
    (s.canStart w (regBit r ||| pairBits a) = true →
      exec (.ctag w r a) s = s.does w 1 (·.setReg r (if s.st.tag a then 1 else 0)) ∧
      exec (.cget w r a sel) s = s.does w 1 (·.setReg r (BitVec.ofNat 64 (match sel.toNat with
        | 0 => f 96 32 | 1 => f 72 24 | 2 => f 56 16 | 3 => f 40 16 | 4 => f 24 16 | 5 => f 19 5 | _ => f 17 2))))

/-- R218, R219, R208, R121, R70, R365: the commands of the Copy Engine queue. With the permissions and classes of the table of
R218 they are accepted with what they captured, and a full queue stalls their stream; TCOMMIT without STAGE and PUBL are then
commits that a CWAIT covers (R347). A command or TINFO whose pair fails one of the checks 1 to 4 takes the precise trap of the
first check that fails: CAP_TAG (0x04), CAP_PERM (0x06), CAP_BOUND (0x05), CAP_PERM; PUBL makes checks 1, 2 and 4 (R351). Pair
a is checked before pair b, which rests on log 1 (DEDUCED, unsafe); ACCESS is 0 for a pair that is only read, and 1 for the
others (log 39). -/
def Obligations.TileCommandResults : Prop :=
  (∀ (w : Wheel) (a b : Pair) (r : SReg) (cc : Cc) (uint : Bool) (sc : Scope) (kind : FillKind) (s : State),
    a ≠ 0 → b ≠ 0 → s.cur = .A ∨ s.cur = .E →
    let x := s.reg r
    let y := s.reg (r ||| 1)
    let ta := (x.toNat / 2 ^ 48, x.toNat / 2 ^ 32 % 2 ^ 16)
    let tb := (x.toNat / 2 ^ 16 % 2 ^ 16, x.toNat % 2 ^ 16)
    let loc := fun (c : Nat) => c == 0
    let glob := fun (c : Nat) => c == 1 || c == 2
    let all := fun (_ : Nat) => true
    let takes := fun (i : Instr) (two odd uint commit : Bool) (may : Prop) =>
      s.canStart w (pairBits a ||| (if two then pairBits b else 0) ||| regBit r ||| (if odd then regBit (r ||| 1) else 0)) = true →
      may →
      (s.job.ceQ.length < 32 → ∃ c : Cmd, c.capturedBy s i cc uint ∧ c.capA = s.st.cap a ∧ (two = true → c.capB = s.st.cap b) ∧
        c.x = x ∧ (odd = true → c.y = y) ∧
        exec i s = s.does w 1 (fun u => let u := u.accepts .ce c; if commit then
          u.onJob (fun j => { j with flow := j.flow.accepts s.cur c.id }) else u)) ∧
      (32 ≤ s.job.ceQ.length → exec i s = .next (s.block .engineQueue))
    takes (.tld w a b r cc uint) true false uint false (s.mayUse a 16 all ta ∧ s.mayUse b 8 loc tb) ∧
    takes (.tldas w a b r cc uint sc) true true uint false (s.mayUse a 16 glob ta ∧ s.mayUse b 8 loc tb) ∧
    takes (.tpref w a r cc uint) false false uint false (s.mayUse a 16 all ta) ∧
    takes (.tgath w a b r cc uint) true false uint false (s.mayUse a 16 all (0, 0) ∧ s.mayUse b 8 all (0, 0)) ∧
    takes (.tst w a b r cc uint) true false uint false (s.mayUse a 16 loc ta ∧ s.mayUse b 8 glob tb) ∧
    takes (.tstash w a b r cc uint) true false uint false (s.mayUse a 16 loc ta ∧ s.mayUse b 8 glob tb) ∧
    takes (.tscat w a b r cc uint) true false uint false (s.mayUse a 16 all (0, 0) ∧ s.mayUse b 8 all (0, 0)) ∧
    takes (.tcommit w a b r cc uint sc) true true uint (!y.getLsbD 0) (s.mayUse a 16 loc ta ∧ s.mayUse b 4 glob tb) ∧
    takes (.tcopy w a b r cc uint) true false uint false (s.mayUse a 16 all ta ∧ s.mayUse b 8 all tb) ∧
    takes (.tfill w a r cc uint kind) false true uint false (s.mayUse a 8 all ta) ∧
    takes (.tdedup w a b r cc uint) true false uint false (s.mayUse a (16 + 8 + 1) all ta ∧ s.mayUse b (16 + 1) all tb) ∧
    takes (.tpromo w a r cc uint) false false uint false (s.mayUse a 8 all ta) ∧
    takes (.talias w a b r cc uint) true false uint false (s.mayUse a (8 + 1) all ta ∧ s.mayUse b (16 + 1) all tb) ∧
    takes (.publ w cc a r sc) false false false true (s.cur = .E ∧ s.st.tag a = true ∧
      Cap.owner (s.st.cap a) = s.job.owner ∧ Cap.perms (s.st.cap a) &&& 2 = 2)) ∧
  (∀ (w : Wheel) (a b : Pair) (r : SReg) (cc : Cc) (uint : Bool) (sc : Scope) (kind : FillKind) (n : BitVec 3) (s : State),
    a ≠ 0 → b ≠ 0 → s.cur = .E → s.st.redAt = none →
    s.canStart w (pairBits a ||| pairBits b ||| regBit r ||| regBit (r ||| 1)) = true →
    let x := s.reg r
    let ta := (x.toNat / 2 ^ 48, x.toNat / 2 ^ 32 % 2 ^ 16)
    let tb := (x.toNat / 2 ^ 16 % 2 ^ 16, x.toNat % 2 ^ 16)
    let loc := fun (c : Nat) => c == 0
    let glob := fun (c : Nat) => c == 1 || c == 2
    let all := fun (_ : Nat) => true
    let fails := fun (i : Instr) (o : Option (BitVec 8 × BitVec 2)) =>
      ∀ x, o = some x → exec i s = .next (takeTrap ⟨x.1, x.2, 0, none⟩ s)
    let f := fun (p : Pair) (perms : Nat) (cls : Nat → Bool) (ab : Nat × Nat) =>
      (s.capFailure p perms cls ab).map (fun code => (code, (if perms &&& 14 = 0 then 0 else 1 : BitVec 2)))
    fails (.tld w a b r cc uint) (f a 16 all ta <|> f b 8 loc tb) ∧
    fails (.tldas w a b r cc uint sc) (f a 16 glob ta <|> f b 8 loc tb) ∧
    fails (.tpref w a r cc uint) (f a 16 all ta) ∧
    fails (.tgath w a b r cc uint) (f a 16 all (0, 0) <|> f b 8 all (0, 0)) ∧
    fails (.tst w a b r cc uint) (f a 16 loc ta <|> f b 8 glob tb) ∧
    fails (.tstash w a b r cc uint) (f a 16 loc ta <|> f b 8 glob tb) ∧
    fails (.tscat w a b r cc uint) (f a 16 all (0, 0) <|> f b 8 all (0, 0)) ∧
    fails (.tredst w a b r cc uint) (f a 16 all ta <|> f b 8 all tb) ∧
    fails (.tcommit w a b r cc uint sc) (f a 16 loc ta <|> f b 4 glob tb) ∧
    fails (.tcopy w a b r cc uint) (f a 16 all ta <|> f b 8 all tb) ∧
    fails (.tfill w a r cc uint kind) (f a 8 all ta) ∧
    fails (.tdedup w a b r cc uint) (f a (16 + 8 + 1) all ta <|> f b (16 + 1) all tb) ∧
    fails (.tpromo w a r cc uint) (f a 8 all ta) ∧
    fails (.talias w a b r cc uint) (f a (8 + 1) all ta <|> f b (16 + 1) all tb) ∧
    fails (.tinfo w a r n) (f a 16 all ta) ∧
    fails (.publ w cc a r sc) (if s.st.tag a = false then some (0x04, 1)
      else if Cap.owner (s.st.cap a) ≠ s.job.owner ∨ Cap.perms (s.st.cap a) &&& 2 = 0 then some (0x06, 1) else none))

/-! ## Matrix commands -/

/-- R236, R208, R121, R70, R365: the matrix commands are accepted into their queue with what they captured where the checks 1 to 4
of their pairs pass; the first check that fails traps; a full queue stalls. The pairs are checked in the order a, b, c, which
rests on log 1 (DEDUCED, unsafe); ACCESS is 1 for MDRAIN, which writes its tile, and 0 for the others (log 39). -/
def Obligations.MatrixCommandsAccepted : Prop :=
  ∀ (w : Wheel) (acc src : AccId) (a b c : Pair) (cc : Cc) (uint tb ta hold ovr swap int lower : Bool) (mask : MaskKind)
    (diag : BitVec 16) (mode : Option RMode) (q : QuantKind) (s : State), s.cur = .M →
    let bitsOf := fun (p : Pair) => if p = 0 then (0 : BitVec 16) else pairBits p
    let fails := fun (p : Pair) (perms : Nat) => if p = 0 then none else s.capFailure p perms (fun _ => true) (0, 0)
    let takes := fun (i : Instr) (n : Nat) (access : BitVec 2) (pa pb pc : Pair) (failure : Option (BitVec 8)) =>
      s.canStart w (bitsOf pa ||| bitsOf pb ||| bitsOf pc) = true →
      (∀ code, failure = some code → exec i s = .next (takeTrap ⟨code, access, 0, none⟩ s)) ∧
      (failure = none → s.job.mxQ.length < 16 → ∃ k : Cmd, k.capturedBy s i cc uint ∧ (pa ≠ 0 → k.capA = s.st.cap pa) ∧
        (pb ≠ 0 → k.capB = s.st.cap pb) ∧ (pc ≠ 0 → k.capC = s.st.cap pc) ∧
        exec i s = s.does w n (fun u => u.accepts .mx k)) ∧
      (failure = none → 16 ≤ s.job.mxQ.length → exec i s = .next (s.block .engineQueue))
    takes (.mma w acc a b c cc uint tb ta hold ovr) 1 0 a b c (fails a 16 <|> fails b 16 <|> fails c 16) ∧
    takes (.mmat w acc a b c cc uint tb ta hold ovr mask lower diag) 2 0 a b c (fails a 16 <|> fails b 16 <|> fails c 16) ∧
    takes (.macc w acc c cc uint ovr) 1 0 0 0 c (fails c 16) ∧
    takes (.mzero w acc cc uint) 1 0 0 0 0 none ∧
    takes (.mdrain w acc a cc uint mode q int) 1 1 a 0 0 (fails a 8) ∧
    takes (.mmov w acc src cc uint swap) 1 0 0 0 0 none

/-- R260, R238, R256, R261, R205, R46, R242 to R246, R254, R255, R257 to R259, R252: MSTAT waits until the matrix queue is empty;
it then gives the status word, and its op clears V, O, S and I, or SKIP, or both. What the command at the head of the matrix
queue does when it completes: MZERO makes an accumulator SYM ZERO, clears its flags and keeps SKIP; the element rows of a SYM
accumulator read as its symbol's value, zeros after MZERO (log 36, DEDUCED); MMOV copies or exchanges accumulators; both post
OK, and an exchange that names ACCV posts SHAPE. Nothing else of memory or of the other accumulators changes. What MMA, MMAT,
MACC and MDRAIN leave when they complete, for stored SCRATCH operands without row scales (a transposed operand of a ROWCOL
tile takes its COL half): an MMA or MMAT without C gives every element of its region the dense definition of R246 (its mask's
value where the mask hides it), chunk by chunk with AccAdd and ChunkSum of R37 or SatI32 of R39, keeps the others, leaves the
accumulator DENSE and holds A where asked (an accumulator that was SYM counts with its rows: log 36, DEDUCED); MACC adds its
tile's elements once, without OFLUSH, which acts on the operands of products alone (log 36, DEDUCED); MDRAIN to a plain FP32
tile writes the quotient of each element by D.TSCALE, rounded once, from a DENSE accumulator, which it leaves. -/
def Obligations.MatrixCompletionAndMstat : Prop :=
  (∀ (w : Wheel) (acc : AccId) (d : SReg) (clrs clrf : Bool) (s : State), s.cur = .M → s.canStart w (regBit d) = true →
    let x := s.job.accStatus acc
    (s.job.mxQ ≠ [] → exec (.mstat w acc d clrs clrf) s = .next (s.block .mstat)) ∧
    (s.job.mxQ = [] → ∃ y : Word,
      exec (.mstat w acc d clrs clrf) s = s.does w 1 (fun u => (u.setReg d x).onJob (fun j => j.setAccStatus acc y)) ∧
      ∀ n : Nat, y.getLsbD n =
        (x.getLsbD n && !(clrf && decide (32 ≤ n ∧ n ≤ 35)) && !(clrs && decide (40 ≤ n ∧ n ≤ 63))))) ∧
  (∀ (w : Wheel) (acc src : AccId) (cc : Cc) (uint swap : Bool) (c : Cmd) (rest : List Cmd) (s : State),
    s.hasJob → s.job.mxQ = c :: rest → c.parked = false →
    (∀ x : Fin 3, acc.index? = some x → c.instr = .mzero w acc cc uint →
      ∃ t : State, exec .matrixCommandCompletion s = .next t ∧ s.job.tookPosting t.job .mx c 0 ∧ t.mem = s.mem ∧
        (∀ i : Fin 128, t.job.acc[x].rows[i] = 0) ∧
        t.job.acc[x].status.toNat / 2 ^ 40 = s.job.acc[x].status.toNat / 2 ^ 40 ∧
        t.job.acc[x].status.toNat / 2 ^ 37 % 8 = 1 ∧ t.job.acc[x].status.toNat % 2 ^ 36 = 0 ∧
        (∀ y : Fin 3, y ≠ x → t.job.acc[y] = s.job.acc[y]) ∧ t.job.vregs = s.job.vregs ∧ t.job.heldA = s.job.heldA) ∧
    (∀ x y : Fin 3, acc.index? = some x → src.index? = some y → c.instr = .mmov w acc src cc uint swap →
      ∃ t : State, exec .matrixCommandCompletion s = .next t ∧ s.job.tookPosting t.job .mx c 0 ∧ t.mem = s.mem ∧
        t.job.acc[x] = s.job.acc[y] ∧ t.job.acc[y] = (if swap then s.job.acc[x] else s.job.acc[y]) ∧
        (∀ z : Fin 3, z ≠ x → z ≠ y → t.job.acc[z] = s.job.acc[z]) ∧ t.job.vregs = s.job.vregs) ∧
    (acc = .accv → acc ≠ src → c.instr = .mmov w acc src cc uint true →
      ∃ t : State, exec .matrixCommandCompletion s = .next t ∧ s.job.tookPosting t.job .mx c 4 ∧ t.mem = s.mem ∧
        t.job.acc = s.job.acc ∧ t.job.vregs = s.job.vregs)) ∧
  (∀ (w : Wheel) (acc : AccId) (x : Fin 3) (pa pb : Pair) (cc : Cc) (uint tb ta hold ovr lower int : Bool) (kind : MaskKind)
    (diag : BitVec 16) (mode : Option RMode) (c : Cmd) (rest : List Cmd) (ka kb ba bb : Nat) (A B : Tte) (va vb : TileVals)
    (s : State), acc.index? = some x → s.hasJob → s.job.mxQ = c :: rest → c.parked = false → c.cut = false → s.bad = [] →
    let apart := fun (a la b lb : Nat) => a + la ≤ b ∨ b + lb ≤ a
    let tile := fun (cap : BitVec 128) => Cap.tile cap 0 0
    let operand := fun (cap : BitVec 128) (tr : Bool) (k b : Nat) (t : Tte) (v : TileVals) =>
      openTile s s.job.tctx cap 0 (tile cap) = .ok (k, t) ∧ s.plainEntry k t ∧ t.tier = 0 ∧ t.rowsc = false ∧ t.press = false ∧
      t.fmt ≠ .e2m1 ∧ t.tscale / 2 ^ 23 % 256 ≠ 255 ∧ backKey s s.job.tctx 0 (tile cap) t = .ok b ∧ apart k 64 b t.backLen ∧
      (if t.layout = 3 ∧ tr = true then colVals s s.job.tctx (tile cap) t else valuesOf s s.job.tctx (tile cap) t) = .ok v ∧
      v.vals.length = t.rows * t.cols
    let old := fun (i j : Nat) => if h : i < 128 then lane 32 (s.job.acc[x].rows[i]) j else 0
    let posts := fun (p : State → Prop) => ∃ t : State, exec .matrixCommandCompletion s = .next t ∧ s.job.tookPosting t.job .mx c 0 ∧
      (∀ y : Fin 3, y ≠ x → t.job.acc[y] = s.job.acc[y]) ∧ t.job.vregs = s.job.vregs ∧ p t
    let rows := fun (t : State) (m n : Nat) (f : Nat → Nat → Nat) => ∀ (i : Nat) (h : i < 128), ∀ j < 128,
      lane 32 (t.job.acc[x].rows[i]) j = if i < m ∧ j < n then f i j % 2 ^ 32 else old i j
    let onlyEntries := fun (t : State) => ∀ y : Nat, (y < ka ∨ ka + 64 ≤ y) → (y < kb ∨ kb + 64 ≤ y) → memByte t.mem y = memByte s.mem y
    (let m := if ta then A.cols else A.rows
     let k := if ta then A.rows else A.cols
     let n := if tb then B.rows else B.cols
     let eight := fun (f : Fmt) => f = .e4m3 ∨ f = .e5m2
     let len := if eight B.fmt then 128 else 32
     let el := fun (t : Tte) (v : TileVals) (i j : Nat) => readOperand c.fpctl t.fmt (elemAt v.vals t.cols i j)
     let a := fun (i q : Nat) => if ta then el A va q i else el A va i q
     let b := fun (q j : Nat) => if tb then el B vb j q else el B vb q j
     let products := fun (q i j : Nat) => (List.range (min len (k - q * len))).map (fun z => mulVal (a i (q * len + z)) (b (q * len + z) j))
     let dense := fun (i j : Nat) => (List.range ((k + len - 1) / len)).foldl (fun z q =>
       if A.fmt = .i8 then (satI32 (toSInt 32 z + ((products q i j).map (fun p => valInt p.1)).sum)).1
       else (accAdd z (mulVal (f32 A.tscale) (f32 B.tscale)).1 (chunkSum (products q i j))).1) (if ovr then 0 else old i j)
     let hidden := fun (i j : Nat) => if lower then (j : Int) - i < diag.toInt else diag.toInt < (j : Int) - i
     let masked := fun (i j : Nat) => match kind with
       | .zero => 0 | .ninf => if A.fmt = .i8 then 0x80000000 else 0xFF800000 | .keep => old i j
     let leaves := fun (f : Nat → Nat → Nat) => posts (fun t => rows t m n f ∧ (t.job.acc[x]).status.getLsbD 37 = false ∧
       t.job.heldA = (if hold then some ⟨A, ta, va.vals, va.scales, []⟩ else none) ∧ onlyEntries t)
     pa ≠ 0 → pb ≠ 0 → operand c.capA ta ka ba A va → operand c.capB tb kb bb B vb → apart ka 64 kb 64 →
     apart ka 64 bb B.backLen → apart kb 64 ba A.backLen → k = (if tb then B.cols else B.rows) →
     (eight A.fmt ∧ eight B.fmt) ∨ (A.fmt = B.fmt ∧ A.fmt ∈ ([.fp32, .bf16, .f16, .i8] : List Fmt)) →
      (c.instr = .mma w acc pa pb 0 cc uint tb ta hold ovr → leaves dense) ∧
      (c.instr = .mmat w acc pa pb 0 cc uint tb ta hold ovr kind lower diag →
        leaves (fun i j => if hidden i j then masked i j else dense i j))) ∧
    (pa ≠ 0 → operand c.capC false ka ba A va → kb = ka → c.instr = .macc w acc pa cc uint ovr →
      posts (fun t => onlyEntries t ∧ (t.job.acc[x]).status.getLsbD 37 = false ∧ t.job.heldA = s.job.heldA ∧
        rows t A.rows A.cols (fun i j =>
          let z := if ovr then 0 else old i j
          let y := elemAt va.vals A.cols i j
          if isFloat A.fmt then (accAdd z (f32 A.tscale) (decodeVal A.fmt y, .none)).1
          else (satI32 (toSInt 32 z + intVal A.fmt y)).1))) ∧
    (openWrite s s.job.tctx c.capA (tile c.capA) = .ok (ka, A) → s.plainEntry ka A → A.fmt = .fp32 → A.layout = 0 →
      A.press = false → A.detect = false → A.rowsc = false → A.tier = 0 → A.tscale % 2 ^ 31 ≠ 0 → A.tscale / 2 ^ 23 % 256 ≠ 255 →
      backKey s s.job.tctx 1 (tile c.capA) A = .ok ba → apart ka 64 ba A.backLen → s.aonHolds = [] →
      (s.job.acc[x]).status.getLsbD 37 = false → c.instr = .mdrain w acc pa cc uint mode .none int →
      posts (fun t => (t.job.acc[x]).rows = (s.job.acc[x]).rows ∧ t.job.heldA = s.job.heldA ∧
        (∀ i < A.rows, ∀ j < A.cols, leAt t.mem (ba + 4 * (i * A.cols + j)) 4 =
          (finish .fp32 (rctx c.fpctl c.seed mode .fp32 (tilePos (tile c.capA % 2 ^ 40) i j))
            (divVal (decodeVal (if int then .i32 else .fp32) (old i j)) (f32 A.tscale))).1) ∧
        ∀ y : Nat, (y < ka ∨ ka + 64 ≤ y) → (y < ba ∨ ba + A.backLen ≤ y) → memByte t.mem y = memByte s.mem y)))

/-- R37, R39, R246: one chunk of an I8 product: the exact sum of the products is added to the element once and saturated; and
where every element of the row of A is 0 the result is that of the skip path (R248), so that skipping changes no value. -/
def Obligations.IntegerProductResults : Prop :=
  ∀ (p : Product) (m n x : Nat) (xs ys : List (BitVec 8)), x < 2 ^ 32 → xs.length = ys.length → xs.length ≤ 32 →
    p.r = .i32 → p.l = 32 → p.chunks = 1 → p.c = none → p.ovr = false →
    p.a.getD m [] = xs.map (fun v => decodeVal .i8 v.toNat) → p.b.getD n [] = ys.map (fun v => decodeVal .i8 v.toNat) →
    let sum := (List.zipWith (fun (u v : BitVec 8) => u.toInt * v.toInt) xs ys).sum
    let y := (BitVec.ofNat 32 x).toInt + sum
    (p.path = .array → (p.element m n x).1 = (BitVec.ofInt 32 (max (-2 ^ 31) (min (2 ^ 31 - 1) y))).toNat) ∧
    ((∀ v ∈ xs, v = 0) → p.path = .array → p.element m n x = { p with path := .skip }.element m n x)

/-! ## Vector instructions -/

/-- R130, R132, R135, R136: what a write of a vector or predicate register leaves. A register that does not rotate, or stands
below the live depth, reads as what was written; one at or beyond it is discarded and counted; every other register reads as
before. k0 reads as all ones whatever is written. -/
def Obligations.VectorWriteReadsBack : Prop :=
  ∀ (j : Job) (v : VReg) (x : VecReg) (k : KReg) (y : PredReg),
    let d := v.toNat - 16
    let rotates := 16 ≤ v.toNat ∧ d < j.rot
    ((rotates → d < j.rlive.toNat) → (j.setVreg v x).vreg v = x ∧ (j.setVreg v x).deadrd = j.deadrd) ∧
    (rotates → j.rlive.toNat ≤ d →
      (j.setVreg v x).vregs = j.vregs ∧ (j.setVreg v x).slotLive = j.slotLive ∧ (j.setVreg v x).vreg v = 0 ∧
      (j.setVreg v x).deadrd.toNat / 2 ^ 32 = (j.deadrd.toNat / 2 ^ 32 + 1) % 2 ^ 32 ∧
      (j.setVreg v x).deadrd.toNat % 2 ^ 32 = j.deadrd.toNat % 2 ^ 32) ∧
    (∀ u : VReg, u ≠ v → (j.setVreg v x).vreg u = j.vreg u) ∧
    (j.setVreg v x).pregs = j.pregs ∧ (j.setVreg v x).acc = j.acc ∧
    (∀ l : KReg, (j.setPred k y).pred l = (if l = 0 then BitVec.allOnes 512 else if l = k then y else j.pred l)) ∧
    (j.setPred k y).vregs = j.vregs

/-- R271, R272, R273, R270: floating-point lanes and special functions. Each active lane is the operation on the operands, rounded
once, the other lanes keep their value (of a dead slot zeros: log 62, DESIGN CHOICE), and the flags of the active lanes are
raised; an integer VTYPE raises ILLEGAL_ENCODING. VABS and VNEG raise V for a signalling NaN too, which rests on log 37
(DEDUCED). Dead reads count once for each register named (R136). A special function gives, rounded once: the special inputs of
R273's table; every reciprocal; a rational square root and its reciprocal; a power of two of an integer and the logarithm of a
power of two. Any other value is irrational, and the model rounds both ends of a rational enclosure of it: where they agree
that is the result, and else it is a free value with I (log 10, DESIGN CHOICE). The enclosure is stated for the other square
roots and their reciprocals, for VEXP2 beyond ±1024, for VTANH within ±2^-32 and beyond ±128 and for VSIGM beyond ±512; for
the other operands of VEXP2, VLOG2, VTANH and VSIGM it is the model's specialLane. -/
def Obligations.VectorFloatResults : Prop :=
  ∀ (w : Wheel) (d a b : VReg) (k : KReg) (s : State), s.canStart w 0 = true → s.cur = .V →
    let et := s.job.et
    let wd := fmtWidth et
    let n := 4096 / wd
    let act := fun (m : Nat) => (s.pred k).getLsbD m
    let o := fun (r : VReg) (m : Nat) => readOperand s.st.fpctl et (lane wd (s.vreg r) m)
    let ctx := fun (m : Nat) => rctx s.st.fpctl s.job.seed none et (0x8000_0000_0000_0000 ||| BitVec.ofNat 64 m)
    let rm := fpRm s.st.fpctl
    let gives := fun (i : Instr) (reads : List VReg) (f : Nat → Nat × FFlags) =>
      (et ∈ floatTypes → ∃ x : VecReg, exec i s = s.does w 1 (fun u =>
          ((u.countReads reads).setVreg d x).raise (laneFlags act n (fun m => (f m).2))) ∧
        ∀ m < n, lane wd x m = if act m then (f m).1 % 2 ^ wd else lane wd (s.vreg d) m) ∧
      (et ∉ floatTypes → exec i s = .next (takeTrap ⟨0x01, 3, 0, none⟩ s))
    let two := fun (i : Instr) (f : Val → Val → Val × FFlags) =>
      gives i [a, b] (fun m => finish et (ctx m) (f (o a m) (o b m)))
    let three := fun (i : Instr) (f : Val → Val → Val → Val × FFlags) =>
      gives i [a, b, d] (fun m => finish et (ctx m) (f (o a m) (o b m) (o d m)))
    let one := fun (i : Instr) (f : Val → Val) =>
      gives i [a] (fun m => finish et (ctx m) (f (o a m), .invalid (isSig (o a m))))
    let special := fun (i : Instr) (f : SpecialFn) =>
      gives i [a] (fun m => specialLane f et (ctx m) s.st.fpctl (lane wd (s.vreg a) m))
    two (.vadd w d a b k) (addVal rm) ∧ two (.vsub w d a b k) (fun x y => addVal rm x (negVal y)) ∧
    two (.vmul w d a b k) mulVal ∧ three (.vfma w d a b k) (fmaVal rm) ∧
    three (.vfms w d a b k) (fun x y z => fmaVal rm x y (negVal z)) ∧
    three (.vfnma w d a b k) (fun x y z => fmaVal rm (negVal x) y z) ∧
    two (.vmin w d a b k) minVal ∧ two (.vmax w d a b k) maxVal ∧ one (.vabs w d a k) absVal ∧ one (.vneg w d a k) negVal ∧
    two (.vdiv w d a b k) divVal ∧ special (.vsqrt w d a k) .sqrt ∧ special (.vrsq w d a k) .rsq ∧
    special (.vrcp w d a k) .rcp ∧ special (.vexp2 w d a k) .exp2 ∧ special (.vlog2 w d a k) .log2 ∧
    special (.vtanh w d a k) .tanh ∧ special (.vsigm w d a k) .sigm ∧
    (∀ (fmt : Fmt) (c : RCtx) (fpctl : Word) (b : Nat), fmt ∈ floatTypes →
      let x := readOperand fpctl fmt b
      let q : Val → Rat := fun v => match v with
        | .rat neg n d e => (if neg then -1 else 1) * ((n : Rat) / d) * 2 ^ e
        | _ => 0
      let res := fun (f : SpecialFn) => specialLane f fmt c fpctl b
      let is := fun (f : SpecialFn) (v : Val) (g : FFlags) => res f = finish fmt c (v, g)
      let gets := fun (f : SpecialFn) (y : Rat) => ∃ v : Val, q v = y ∧ is f v .none
      let between := fun (f : SpecialFn) (lo hi : Val) => res f =
        (if roundTo fmt c lo = roundTo fmt c hi then roundTo fmt c lo else (Config.specialBits f.code fmt.code b, ⟨false, false, false, true⟩))
      let inside := fun (f : SpecialFn) (y z : Rat) => ∃ lo hi : Val, q lo = y ∧ q hi = z ∧ between f lo hi
      let root := fun (f : SpecialFn) (y : Rat) =>
        ((∃ z : Rat, z * z = y) → ∃ v : Val, 0 ≤ q v ∧ q v * q v = y ∧ is f v .none) ∧
        ((∀ z : Rat, z * z ≠ y) → ∃ lo hi : Val, 0 < q lo ∧ q lo * q lo < y ∧ y < q hi * q hi ∧ q hi ≤ q lo * (1 + 1 / 2 ^ 255) ∧ between f lo hi)
      let zero := fun (neg : Bool) => Val.rat neg 0 1 0
      let pole : FFlags := ⟨false, true, false, false⟩
      (∀ (sig : Bool) (f : SpecialFn), x = .nan sig → is f (.nan false) (.invalid sig)) ∧
      (x = .inf true → (∀ f ∈ [SpecialFn.sqrt, .rsq, .log2], is f (.nan false) (.invalid true)) ∧ is .exp2 (zero false) .none) ∧
      (x = .inf false → (∀ f ∈ [SpecialFn.sqrt, .exp2, .log2], is f (.inf false) .none) ∧ is .rsq (zero false) .none) ∧
      (∀ neg : Bool, x = .inf neg → is .rcp (zero neg) .none ∧ gets .tanh (if neg then -1 else 1) ∧ gets .sigm (if neg then 0 else 1)) ∧
      (∀ (neg : Bool) (n d : Nat) (e : Int), x = .rat neg n d e →
        (n = 0 → is .sqrt x .none ∧ is .tanh x .none ∧ is .rsq (.inf neg) pole ∧ is .rcp (.inf neg) pole ∧ is .log2 (.inf true) pole ∧
          gets .exp2 1 ∧ gets .sigm (1 / 2)) ∧
        (n ≠ 0 → gets .rcp (1 / q x) ∧
          (neg = true → ∀ f ∈ [SpecialFn.sqrt, .rsq, .log2], is f (.nan false) (.invalid true)) ∧
          (neg = false → root .sqrt (q x) ∧ root .rsq (1 / q x) ∧ (∀ i : Int, q x = 2 ^ i → gets .log2 i)) ∧
          (∀ i : Int, q x = i → -1024 < i → i < 1024 → gets .exp2 (2 ^ i)) ∧
          (1024 ≤ q x → inside .exp2 (2 ^ 1001) (2 ^ 1002)) ∧ (q x ≤ -1024 → inside .exp2 (1 / 2 ^ 1001) (1 / 2 ^ 1000)) ∧
          (let z := q x - q x ^ 3 / 3
           let z' := z + 2 * q x ^ 5 / 15
           (0 < q x → q x < 1 / 2 ^ 32 → inside .tanh z z') ∧ (-1 / 2 ^ 32 < q x → q x < 0 → inside .tanh z' z)) ∧
          (128 ≤ q x → inside .tanh (1 - 1 / 2 ^ 200) (1 - 1 / 2 ^ 201)) ∧
          (q x ≤ -128 → inside .tanh (1 / 2 ^ 201 - 1) (1 / 2 ^ 200 - 1)) ∧
          (512 ≤ q x → inside .sigm (1 - 1 / 2 ^ 200) (1 - 1 / 2 ^ 201)) ∧
          (q x ≤ -512 → inside .sigm (1 / 2 ^ 401) (1 / 2 ^ 400)))))

/-- R274, R275, R270: compares write one bit for each active lane below the lane count, integers raise no flag, and a signalling
NaN raises V; integer, bitwise and shift lanes write the low bits of their result in the active lanes, and the others keep
their value (of a dead slot zeros: log 62, DESIGN CHOICE). Dead reads count once for each register named (R136). -/
def Obligations.VectorCompareIntegerResults : Prop :=
  ∀ (w : Wheel) (kd : KReg) (d a b : VReg) (k : KReg) (s : State), s.canStart w 0 = true → s.cur = .V →
    let et := s.job.et
    let wd := fmtWidth et
    let n := 4096 / wd
    let act := fun (m : Nat) => (s.pred k).getLsbD m
    let x := fun (m : Nat) => lane wd (s.vreg a) m
    let y := fun (m : Nat) => lane wd (s.vreg b) m
    let fx := fun (m : Nat) => readOperand s.st.fpctl et (x m)
    let fy := fun (m : Nat) => readOperand s.st.fpctl et (y m)
    let compares := fun (i : Instr) (f : Val → Val → Bool) (g : Int → Int → Bool) =>
      ∃ (z : PredReg) (v : Bool),
        exec i s = s.does w 1 (fun u => ((u.countReads [a, b]).setPred kd z).raise (.invalid v)) ∧
        (et ∈ floatTypes → (∀ m < 512, z.getLsbD m = if m < n ∧ act m then f (fx m) (fy m) else (s.pred kd).getLsbD m) ∧
          (v = true ↔ ∃ m < n, act m = true ∧ (isSig (fx m) = true ∨ isSig (fy m) = true))) ∧
        (et ∈ intTypes → v = false ∧ ∀ m < 512, z.getLsbD m =
          if m < n ∧ act m then g (laneInt et (x m)) (laneInt et (y m)) else (s.pred kd).getLsbD m)
    let lanes := fun (i : Instr) (ok : Prop) (f : Nat → Nat) =>
      (ok → ∃ z : VecReg, exec i s = s.does w 1 (fun u => (u.countReads [a, b]).setVreg d z) ∧
        ∀ m < n, lane wd z m = if act m then f m % 2 ^ wd else lane wd (s.vreg d) m) ∧
      (¬ ok → exec i s = .next (takeTrap ⟨0x01, 3, 0, none⟩ s))
    let int := et ∈ intTypes
    compares (.vceq w kd a b k) eqVal (· == ·) ∧ compares (.vcne w kd a b k) (fun p q => !eqVal p q) (· != ·) ∧
    compares (.vclt w kd a b k) ltVal (fun p q => decide (p < q)) ∧
    compares (.vcle w kd a b k) (fun p q => ltVal p q || eqVal p q) (fun p q => decide (p ≤ q)) ∧
    compares (.vcun w kd a b k) (fun p q => isNaNVal p || isNaNVal q) (fun _ _ => false) ∧
    lanes (.viadd w d a b k) int (fun m => x m + y m) ∧
    lanes (.visub w d a b k) int (fun m => (((x m : Int) - y m) % 2 ^ wd).toNat) ∧
    lanes (.vimul w d a b k) int (fun m => x m * y m) ∧
    lanes (.vand w d a b k) True (fun m => x m &&& y m) ∧ lanes (.vor w d a b k) True (fun m => x m ||| y m) ∧
    lanes (.vxor w d a b k) True (fun m => x m ^^^ y m) ∧
    lanes (.vshl w d a b k) True (fun m => x m * 2 ^ (y m % wd)) ∧
    lanes (.vshr w d a b k) True (fun m => x m / 2 ^ (y m % wd)) ∧
    lanes (.vsra w d a b k) True (fun m => (BitVec.ofInt wd ((BitVec.ofNat wd (x m)).toInt / 2 ^ (y m % wd))).toNat) ∧
    lanes (.vimin w d a b k) int (fun m => if laneInt et (y m) < laneInt et (x m) then y m else x m) ∧
    lanes (.vimax w d a b k) int (fun m => if laneInt et (x m) < laneInt et (y m) then y m else x m)

/-- R40, R41, R276, R277: reductions. An integer sum is the sum of the active lanes modulo 2^32, a maximum or minimum that of the
active lanes and the identity, and the argument of the maximum the lowest index of the greatest value (+0 and −0 are one
value: log 54, DESIGN CHOICE); floating-point reductions are the pairwise tree of R40. KPOP counts and KFIRST finds the active
lanes in which a predicate is set. -/
def Obligations.ReductionResults : Prop :=
  ∀ (w : Wheel) (a : VReg) (r : SReg) (ka k : KReg) (s : State), s.canStart w (regBit r) = true → s.cur = .V →
    let et := s.job.et
    let wd := fmtWidth et
    let n := 4096 / wd
    let act := fun (m : Nat) => (s.pred k).getLsbD m
    let gives := fun (i : Instr) (x : Word) (f : FFlags) =>
      exec i s = s.does w 1 (fun u => ((u.countReads [a]).setReg r x).raise f)
    let signed := et = .i8 ∨ et = .i16 ∨ et = .i32
    let low : Int := if signed then -2 ^ (wd - 1) else 0
    let high : Int := if signed then 2 ^ (wd - 1) - 1 else 2 ^ wd - 1
    let val := fun (m : Nat) => laneInt et (lane wd (s.vreg a) m)
    let actives := ((List.range n).filter act).map val
    (et ∈ intTypes →
      gives (.vrsum w a r k) (if signed then BitVec.ofInt 64 (BitVec.ofInt 32 actives.sum).toInt
        else BitVec.ofNat 64 (BitVec.ofInt 32 actives.sum).toNat) .none ∧
      gives (.vrmax w a r k) (BitVec.ofInt 64 (actives.foldl max low)) .none ∧
      gives (.vrmin w a r k) (BitVec.ofInt 64 (actives.foldl min high)) .none ∧
      ∃ i < n, gives (.vrargmx w a r k) (BitVec.ofNat 64 i) .none ∧
        ∀ m < n, let v := fun (m : Nat) => if act m then val m else low
          v m ≤ v i ∧ (m < i → v m < v i)) ∧
    (et ∈ floatTypes →
      let xs := fun (ident : Val) =>
        (List.range n).map (fun m => if act m then readOperand s.st.fpctl et (lane wd (s.vreg a) m) else ident)
      let ctx := rctx s.st.fpctl s.job.seed none et 0x8000_0000_0000_0000
      let tree := fun (i : Instr) (ident : Val) (node : Val → Val → Val × FFlags) =>
        let y := finish et ctx (reduceTree ident node (xs ident))
        gives i (BitVec.ofNat 64 y.1) y.2
      tree (.vrsum w a r k) (.rat true 0 1 0) sumNode ∧ tree (.vrmax w a r k) (.inf true) maxVal ∧
      tree (.vrmin w a r k) (.inf false) minVal ∧
      let z := reduceTree ((.inf true : Val), 0) argNode (xs (.inf true)).zipIdx
      gives (.vrargmx w a r k) (BitVec.ofNat 64 z.1.2) z.2) ∧
    (let found := (List.range n).filter (fun m => (s.pred ka).getLsbD m && act m)
     exec (.kpop w ka r k) s = s.does w 1 (·.setReg r (BitVec.ofNat 64 found.length)) ∧
     exec (.kfirst w ka r k) s = s.does w 1 (·.setReg r (BitVec.ofNat 64 (found.headD n))))

/-- R277, R278, R266: predicate logic and KSET, the permutes, VEXT, and VCFG. Dead reads of VPERM and VSEL count once for each
register named (R136). Lanes that keep their value keep zeros where the slot is dead (log 62, DESIGN CHOICE). -/
def Obligations.PermuteResults : Prop :=
  ∀ (w : Wheel) (kd ka kb k : KReg) (d a b : VReg) (r : SReg) (et' : Fmt) (rm : Option RMode) (s : State),
    s.canStart w (regBit r) = true → s.cur = .V →
    let et := s.job.et
    let wd := fmtWidth et
    let n := 4096 / wd
    let act := fun (m : Nat) => (s.pred k).getLsbD m
    let bit := fun (q : KReg) (m : Nat) => (s.pred q).getLsbD m
    let x := fun (m : Nat) => lane wd (s.vreg a) m
    let y := fun (m : Nat) => lane wd (s.vreg b) m
    let old := fun (m : Nat) => lane wd (s.vreg d) m
    let v := (s.reg r).toNat
    let preds := fun (i : Instr) (f : Nat → Bool) => ∃ z : PredReg, exec i s = s.does w 1 (·.setPred kd z) ∧
      ∀ m < 512, z.getLsbD m = if m < n ∧ act m then f m else (s.pred kd).getLsbD m
    let lanes := fun (i : Instr) (reads : List VReg) (f : Nat → Nat) => ∃ z : VecReg,
      exec i s = s.does w 1 (fun u => (u.countReads reads).setVreg d z) ∧ ∀ m < n, lane wd z m = f m
    let merged := fun (i : Instr) (reads : List VReg) (f : Nat → Nat) =>
      lanes i reads (fun m => if act m then f m else old m)
    preds (.kand w kd ka kb k) (fun m => bit ka m && bit kb m) ∧ preds (.kor w kd ka kb k) (fun m => bit ka m || bit kb m) ∧
    preds (.kxor w kd ka kb k) (fun m => bit ka m != bit kb m) ∧ preds (.knot w kd ka k) (fun m => !bit ka m) ∧
    preds (.kset w kd r k) (fun m => decide (m < v)) ∧
    lanes (.vcomp w d a k) [a] (fun j => if h : j < ((List.range n).filter act).length then
      x (((List.range n).filter act)[j]'h) else 0) ∧
    merged (.vexpd w d a k) [a] (fun m => x (((List.range m).filter act).length)) ∧
    merged (.vperm w d a b k) [a, b] (fun m => if y m < n then x (y m) else 0) ∧
    merged (.vslide w d a r k) [a] (fun m =>
      let i := (m : Int) + (s.reg r).toInt
      if 0 ≤ i ∧ i < n then x i.toNat else 0) ∧
    merged (.vbcast w d r k) [] (fun _ => v % 2 ^ wd) ∧ merged (.viota w d r k) [] (fun m => (v + m) % 2 ^ wd) ∧
    lanes (.vsel w d a b k) [a, b] (fun m => if act m then x m else y m) ∧ merged (.vmov w d a k) [a] x ∧
    merged (.vins w d a r k) [a] (fun m => if m = 0 then v % 2 ^ wd else x (m - 1)) ∧
    exec (.vext w a r) s = s.does w 1 (fun u => (u.countReads [a]).setReg r
      (if v < n then (if et = .i8 ∨ et = .i16 ∨ et = .i32 ∨ et = .i64 then BitVec.ofInt 64 (BitVec.ofNat wd (x v)).toInt
        else BitVec.ofNat 64 (x v)) else 0)) ∧
    (∃ c : Word, exec (.vcfg w et' rm) s = s.does w 1 (fun u =>
        (u.onJob (fun j => { j with et := et' })).onSt (fun t => { t with fpctl := c })) ∧
      ∀ i < 64, c.getLsbD i = if rm.isSome ∧ 16 ≤ i ∧ i < 19 then
          (BitVec.ofNat 3 (match rm with | some .rz => 1 | some .rup => 2 | some .rdn => 3 | some .sr => 4 | _ => 0)).getLsbD (i - 16)
        else s.st.fpctl.getLsbD i)

/-- R279 to R283: conversions. A control word that they refuse raises ILLEGAL_ENCODING. In wide lane m the converted element goes
from its source lane to its destination lane, where the lane is active; every other destination element keeps its value (of a
dead slot zeros: log 62, DESIGN CHOICE). That of the 1,024 lanes of a VCVT from E2M1 to E2M1 the upper 512 are inactive under
any predicate but k0 is the model's choice (log 67, DESIGN CHOICE). VQUANT scales by the exponent of its block and writes it,
biased by 127, into the scale register; VDEQ multiplies by it. -/
def Obligations.ConversionResults : Prop :=
  ∀ (w : Wheel) (d a : VReg) (r : SReg) (k : KReg) (s : State), s.canStart w (regBit r) = true → s.cur = .V →
    let x := (s.reg r).toNat
    let f := s.st.fpctl
    let act := fun (m : Nat) => k == 0 || (s.pred k).getLsbD m
    let reads := fun (c : Control) =>
      fmtOfCode (x % 16) = some c.src ∧ fmtOfCode (x / 16 % 16) = some c.dst ∧ c.part = x / 2 ^ 8 % 8 ∧
      modeOfCode (x / 2 ^ 11 % 8) = some c.mode ∧ c.blk = x / 2 ^ 14 % 4 ∧
      c.src ≠ .i64 ∧ c.src ≠ .n64 ∧ c.dst ≠ .i64 ∧ c.dst ≠ .n64 ∧
      c.part < max (fmtWidth c.src) (fmtWidth c.dst) / min (fmtWidth c.src) (fmtWidth c.dst)
    let ns := fun (c : Control) => 4096 / fmtWidth c.src
    let nd := fun (c : Control) => 4096 / fmtWidth c.dst
    let n := fun (c : Control) => min (ns c) (nd c)
    let src := fun (c : Control) (m : Nat) =>
      lane (fmtWidth c.src) (s.vreg a) (if fmtWidth c.src < fmtWidth c.dst then c.part * nd c + m else m)
    let into := fun (c : Control) (m : Nat) => if fmtWidth c.dst < fmtWidth c.src then c.part * ns c + m else m
    let ctx := fun (c : Control) (m : Nat) => rctx f s.job.seed c.mode c.dst (0x8000_0000_0000_0000 ||| BitVec.ofNat 64 m)
    let converts := fun (c : Control) (y : VecReg) (g : Nat → Nat) =>
      (∀ m < n c, lane (fmtWidth c.dst) y (into c m) =
        if act m then g m % 2 ^ fmtWidth c.dst else lane (fmtWidth c.dst) (s.vreg d) (into c m)) ∧
      (∀ j < nd c, (∀ m < n c, into c m ≠ j) → lane (fmtWidth c.dst) y j = lane (fmtWidth c.dst) (s.vreg d) j)
    let illegal := fun (i : Instr) => exec i s = .next (takeTrap ⟨0x01, 3, 0, none⟩ s)
    let wide := fun (g : Fmt) => g = .fp32 ∨ g = .bf16 ∨ g = .f16
    let narrow := fun (g : Fmt) => g = .e4m3 ∨ g = .e5m2 ∨ g = .e2m1
    ((∀ c, ¬ reads c) → illegal (.vcvt w d a r k) ∧ illegal (.vquant w d a r k) ∧ illegal (.vdeq w d a r k)) ∧
    (∀ c, reads c →
      (let g := fun (m : Nat) => convert c.src c.dst (ctx c m) f (src c m)
       ∃ y, converts c y (fun m => (g m).1) ∧ exec (.vcvt w d a r k) s = s.does w 1 (fun u =>
         ((u.countReads [a]).setVreg d y).raise (laneFlags act (n c) (fun m => (g m).2)))) ∧
      (let nb := if c.blk = 0 then n c / 32 else 1
       let block := fun (m : Nat) => if c.blk = 0 then m / 32 else 0
       let members := fun (b : Nat) => (List.range (n c)).filter (fun m => block m == b && act m)
       let e := fun (b : Nat) => quantExp (-127) c.dst ((members b).map (fun m => readOperand f c.src (src c m)))
       let g := fun (m : Nat) => finish c.dst (ctx c m)
         (divVal (readOperand f c.src (src c m)) (.rat false 1 1 (e (block m))))
       let ok := wide c.src ∧ narrow c.dst ∧ c.blk ≤ 1 ∧ (c.dst = .e2m1 → c.blk = 0)
       (ok → ∃ y z, converts c y (fun m => (g m).1) ∧
         (∀ b < nb, lane 8 z (c.part * nb + b) =
           if members b = [] then lane 8 (s.vreg (d ||| 1)) (c.part * nb + b) else (127 + e b).toNat % 256) ∧
         (∀ i < 512, (∀ b < nb, i ≠ c.part * nb + b) → lane 8 z i = lane 8 (s.vreg (d ||| 1)) i) ∧
         exec (.vquant w d a r k) s = s.does w 1 (fun u =>
           (((u.countReads [a]).setVreg d y).setVreg (d ||| 1) z).raise (laneFlags act (n c) (fun m => (g m).2)))) ∧
       (¬ ok → illegal (.vquant w d a r k))) ∧
      (let nb := if c.blk = 0 then n c / 32 else 1
       let scale := fun (m : Nat) => lane 8 (s.vreg (a ||| 1)) (c.part * nb + if c.blk = 0 then m / 32 else 0)
       let g := fun (m : Nat) => finish c.dst (ctx c m) (mulVal (e8m0 (scale m)) (readOperand f c.src (src c m)))
       let ok := narrow c.src ∧ wide c.dst ∧ c.blk ≤ 1
       (ok → ∃ y, converts c y (fun m => (g m).1) ∧ exec (.vdeq w d a r k) s = s.does w 1 (fun u =>
         ((u.countReads [a, a ||| 1]).setVreg d y).raise (laneFlags act (n c) (fun m => (g m).2)))) ∧
       (¬ ok → illegal (.vdeq w d a r k))))

/-- R231, R233, R234, R129, R144, R232: vector loads and stores. In memory mode an access of 512 bytes, at a multiple of 64, moves
the bytes of its active lanes, in one page or across two, and the base register advances; VLDG and VSTS move one element for
each active lane; each page or element that is accessed carries floors between the job's die and its home (R338; log 16); of
two lanes that store to one place the higher stands. A load into a register leaves the other lanes (zeros of a dead slot: log
62, DESIGN CHOICE); one into a queue reserves a slot whose inactive lanes are 0, takes its bytes at issue and is ready later
(log 2, DEDUCED); a store from a queue takes its head. With an uncorrectable error (log 42) a load leaves its register, or
pushes zeros, a store writes nothing, and ERRCNT rises. Dead reads count once for each register named (R136). In tile mode,
where checks 1 to 8 of R70 pass, VLD gives each active lane its bytes of the tile's ROW image from e₀ on, zeros beyond its
end, and VST replaces the elements of its active lanes; the index advances by the lane count where imm6[2:0] is 1. The first
of checks 1 to 4 that fails traps, whatever the byte offset is (the order of the checks: log 1, DEDUCED), with ACCESS 0 for
VLD and 1 for VST (log 39, DEDUCED); and so does a byte offset that is no multiple of 64, with the tile index and e₀. -/
def Obligations.VectorMemoryResults : Prop :=
  (∀ (w : Wheel) (v vi : VReg) (a : SReg) (imm : BitVec 6) (k : KReg) (at_ : Nat → Phys) (p2 : Phys) (s : State), s.memOk →
    s.canStart w (regBit a) = true → s.job.et ∈ floatTypes ++ intTypes →
    let sz := fmtWidth s.job.et / 8
    let n := 512 / sz
    let act := fun (m : Nat) => (s.pred k).getLsbD m
    let q : QNum := BitVec.ofNat 3 v.toNat
    let es := (s.job.queue q).entries
    let va := (s.reg a).toNat % 2 ^ 57
    let cut := min 512 (4096 - va % 4096)
    let next := s.reg a + BitVec.ofInt 64 (imm.toInt * 64)
    let p := at_ 0
    let one := fun (access : BitVec 2) => va % 64 = 0 ∧ s.sees va cut access p ∧
      (cut < 512 → s.sees ((va + cut) % 2 ^ 57) (512 - cut) access p2)
    let place := fun (i : Nat) => if i < cut then p.key + i else p2.key + (i - cut)
    let laneAt := fun (m : Nat) => ((s.reg a).toNat + lane (8 * sz) (s.vreg vi) m * sz) % 2 ^ 57
    let all := fun (access : BitVec 2) => ∀ m < n, act m = true → laneAt m % sz = 0 ∧ s.sees (laneAt m) sz access (at_ m)
    let byteOf := fun (i : Nat) => (memByte s.mem (place i)).toNat
    let gathered := fun (i : Nat) => (memByte s.mem ((at_ (i / sz)).key + i % sz)).toNat
    let inReg := fun (x : VecReg) (f : Nat → Nat) => ∀ i < 512, lane 8 x i = if act (i / sz) then f i else lane 8 (s.vreg v) i
    let inQueue := fun (x : VecReg) (f : Nat → Nat) => ∀ i < 512, lane 8 x i = if act (i / sz) then f i else 0
    let put := fun (u : State) (x : VecReg) => u.onJob (fun j =>
      { j.setQueue q (es ++ [⟨x, false⟩]) with flow := j.flow.pushes s.cur q.toFin })
    let popped := fun (u : State) => u.onJob (fun j => { j.setQueue q es.tail with flow := j.flow.pops s.cur q.toFin })
    let touched := fun (lo hi : Nat) => (List.range 512).any (fun i => decide (lo ≤ i ∧ i < hi) && act (i / sz))
    let floors := fun (u : State) =>
      u.reaches ((if touched 0 cut then [(p.key, cut)] else []) ++ (if touched cut 512 then [(p2.key, 512 - cut)] else []))
    let floorsAll := fun (u : State) => u.reaches (((List.range n).filter act).map (fun m => ((at_ m).key, sz)))
    let room := es.length < queueDepth q
    (s.bad = [] →
      (s.cur = .V → one 0 →
        ∃ x, inReg x byteOf ∧ exec (.vld w v a imm k false false) s = s.does w 1 (fun u => ((floors u).setVreg v x).setReg a next)) ∧
      (s.cur = .V ∨ (s.cur = .A ∧ k = 0) → one 0 → s.job.produces q s.cur = true → room →
        ∃ x, inQueue x byteOf ∧ exec (.vld w v a imm k false true) s = s.does w 1 (fun u => (put (floors u) x).setReg a next)) ∧
      (s.cur = .V → all 0 →
        (∃ x, inReg x gathered ∧
          exec (.vldg w v a vi k false) s = s.does w 1 (fun u => ((floorsAll u).countReads [vi]).setVreg v x)) ∧
        (s.job.produces q .V = true → room → ∃ x, inQueue x gathered ∧
          exec (.vldg w v a vi k true) s = s.does w 1 (fun u => put ((floorsAll u).countReads [vi]) x))) ∧
      (let stores := fun (m : List Host.Cell) (src : VecReg) =>
         (∀ i < 512, memByte m (place i) =
           if act (i / sz) then BitVec.ofNat 8 (lane 8 src i) else memByte s.mem (place i)) ∧
         (∀ y : Nat, (∀ i < 512, y ≠ place i) → memByte m y = memByte s.mem y)
       let apart := cut = 512 ∨ p.key + cut ≤ p2.key ∨ p2.key + (512 - cut) ≤ p.key
       let scatters := fun (m : List Host.Cell) (src : VecReg) =>
         (∀ j < n, act j = true →
           (∀ l < n, j < l → act l = true → (at_ l).key + sz ≤ (at_ j).key ∨ (at_ j).key + sz ≤ (at_ l).key) →
           ∀ i < sz, memByte m ((at_ j).key + i) = BitVec.ofNat 8 (lane 8 src (j * sz + i))) ∧
         (∀ y : Nat, (∀ j < n, act j = true → y < (at_ j).key ∨ (at_ j).key + sz ≤ y) → memByte m y = memByte s.mem y)
       (s.cur = .V → one 1 → apart → ∃ m, stores m (s.vreg v) ∧ exec (.vst w v a imm k false false) s =
         s.does w 1 (fun u => { floors (u.countReads [v]) with mem := m }.setReg a next)) ∧
       (∀ e : QEntry, es.head? = some e → e.ready = true → s.job.consumes q s.cur = true →
         (s.cur = .V ∨ (s.cur = .E ∧ k = 0) → one 1 → apart → ∃ m, stores m e.data ∧ exec (.vst w v a imm k false true) s =
           s.does w 1 (fun u => { floors (popped u) with mem := m }.setReg a next)) ∧
         (s.cur = .V → all 1 → ∃ m, scatters m e.data ∧ exec (.vsts w v a vi k true) s =
           s.does w 1 (fun u => { floorsAll ((popped u).countReads [vi]) with mem := m }))) ∧
       (s.cur = .V → all 1 → ∃ m, scatters m (s.vreg v) ∧ exec (.vsts w v a vi k false) s =
         s.does w 1 (fun u => { floorsAll (u.countReads [v, vi]) with mem := m })))) ∧
    (s.cur = .V → va % 64 ≠ 0 → (∃ m < n, act m = true) →
      exec (.vld w v a imm k false false) s = .next (takeTrap ⟨0x07, 0, BitVec.ofNat 64 va, none⟩ s)) ∧
    (s.cur = .V → (∀ m < n, act m = true) → (∃ i < 512, ∃ r, (place i, r) ∈ s.bad) → s.job.errtrap = 0 →
      let failed := fun (t : State) => t.mem = s.mem ∧ (∀ r : VReg, t.vreg r = s.vreg r) ∧ t.job.errcnt = s.job.errcnt + 1 ∧
        t.reg a = (if a = 0 then 0 else next) ∧ t.st.pc = s.st.pc + 4
      (one 0 → ∃ t : State, exec (.vld w v a imm k false false) s = .next t ∧ failed t) ∧
      (one 0 → s.job.produces q .V = true → room → ∃ t : State, exec (.vld w v a imm k false true) s = .next t ∧ failed t ∧
        (t.job.queue q).entries = es ++ [⟨0, false⟩]) ∧
      (one 1 → ∃ t : State, exec (.vst w v a imm k false false) s = .next t ∧ failed t)) ∧
    (∀ (i : Nat) (e : QEntry), es[i]? = some e → exec (.queueSlotFill q i) s =
      .next (if e.ready then s else s.onJob (fun j => (j.setQueue q (es.set i { e with ready := true })).wake)))) ∧
  (∀ (w : Wheel) (v : VReg) (a : SReg) (pr : Pair) (step : Bool) (k : KReg) (key b : Nat) (t : Tte) (vals : TileVals) (s : State),
    s.memOk → s.canStart w (regBit a ||| pairBits pr) = true → s.job.et ∈ floatTypes ++ intTypes → pr ≠ 0 → s.cur = .V → s.bad = [] → s.aonHolds = [] →
    s.hasJob →
    let imm : BitVec 6 := BitVec.ofNat 6 (8 * pr.toNat + if step then 1 else 0)
    let x := (s.reg a).toNat
    let ab := (x / 2 ^ 48, x / 2 ^ 32 % 2 ^ 16)
    let sz := fmtWidth s.job.et / 8
    let off := x % 2 ^ 16 * sz
    let act := fun (m : Nat) => (s.pred k).getLsbD m
    let cap : BitVec 128 := s.st.cap pr
    let idx := Cap.tile cap ab.1 ab.2
    let reaches := ∃ m < 512 / sz, act m = true
    let next := BitVec.ofNat 64 (if step then x / 2 ^ 16 * 2 ^ 16 + (x % 2 ^ 16 + 512 / sz) % 2 ^ 16 else x)
    let kept := fun (u : State) => u.reg a = (if a = 0 then 0 else next) ∧ (∀ r : SReg, r ≠ a → u.reg r = s.reg r) ∧
      u.st.pc = s.st.pc + 4 ∧ u.job.acc = s.job.acc ∧ u.job.pregs = s.job.pregs
    let load := Instr.vld w v a imm k true false
    let store := Instr.vst w v a imm k true false
    let loc := BitVec.ofNat 64 (x % 2 ^ 16 * 2 ^ 48 + idx % 2 ^ 33)
    (reaches → ∀ code, s.capFailure pr 16 (fun _ => true) ab = some code → exec load s = .next (takeTrap ⟨code, 0, 0, none⟩ s)) ∧
    (reaches → ∀ code, s.capFailure pr 8 (fun _ => true) ab = some code → exec store s = .next (takeTrap ⟨code, 1, 0, none⟩ s)) ∧
    (reaches → off % 64 ≠ 0 → s.mayUse pr 16 (fun _ => true) ab → exec load s = .next (takeTrap ⟨0x07, 0, loc, none⟩ s)) ∧
    (reaches → off % 64 ≠ 0 → s.mayUse pr 8 (fun _ => true) ab → exec store s = .next (takeTrap ⟨0x07, 1, loc, none⟩ s)) ∧
    (off % 64 = 0 → s.mayUse pr 16 (fun _ => true) ab → openTile s s.job.tctx cap 0 idx = .ok (key, t) → s.plainEntry key t →
      t.press = false → backKey s s.job.tctx 0 idx t = .ok b → key + 64 ≤ b ∨ b + t.backLen ≤ key → t.tier ≤ 4 →
      valuesOf s s.job.tctx idx t = .ok vals →
      ∃ u : State, exec load s = s.ends w u ∧ kept u ∧ (∀ r : VReg, r ≠ v → u.vreg r = s.vreg r) ∧
        (s.job.distance v = none → ∀ i < 512, lane 8 (u.vreg v) i =
          if act (i / sz) then ((packBytes (fmtWidth t.fmt) vals.vals).getD (off + i) 0).toNat else lane 8 (s.vreg v) i) ∧
        ∀ y : Nat, y < key ∨ key + 64 ≤ y → memByte u.mem y = memByte s.mem y) ∧
    (off % 64 = 0 → s.mayUse pr 8 (fun _ => true) ab → openWrite s s.job.tctx cap idx = .ok (key, t) → s.plainEntry key t →
      t.press = false → t.layout = 0 → t.fmt ≠ .e2m1 → fmtWidth t.fmt = 8 * sz → t.tier ≤ 4 →
      backKey s s.job.tctx 1 idx t = .ok b → key + 64 ≤ b ∨ b + t.backLen ≤ key →
      ∃ u : State, exec store s = s.ends w u ∧ kept u ∧ (∀ r : VReg, u.vreg r = s.vreg r) ∧
        (∀ i < 512, act (i / sz) = true → off + i < sz * (t.rows * t.cols) →
          memByte u.mem (b + off + i) = BitVec.ofNat 8 (lane 8 (s.vreg v) i)) ∧
        ∀ y : Nat, y < key ∨ key + 64 ≤ y →
          (∀ i < 512, act (i / sz) = true → off + i < sz * (t.rows * t.cols) → y ≠ b + off + i) →
          memByte u.mem y = memByte s.mem y))

/-- The frame of the instructions of the vector unit that write one vector register (R270, R278): they change that register, its
slot's liveness, DEADRD and the flags of their stream: no other vector register, no predicate, no scalar register or tag, no
accumulator, no counter and no byte of memory. -/
def Obligations.VectorFrame : Prop :=
  ∀ (i : Instr) (w : Wheel) (d a b : VReg) (r : SReg) (k : KReg) (s t : State),
    s.canStart w (regBit r) = true → s.cur = .V →
    let floats : List Instr := [.vadd w d a b k, .vsub w d a b k, .vmul w d a b k, .vfma w d a b k, .vfms w d a b k,
      .vfnma w d a b k, .vmin w d a b k, .vmax w d a b k, .vabs w d a k, .vneg w d a k, .vdiv w d a b k, .vsqrt w d a k,
      .vrsq w d a k, .vrcp w d a k, .vexp2 w d a k, .vlog2 w d a k, .vtanh w d a k, .vsigm w d a k]
    let ints : List Instr := [.viadd w d a b k, .visub w d a b k, .vimul w d a b k, .vimin w d a b k, .vimax w d a b k]
    let any : List Instr := [.vand w d a b k, .vor w d a b k, .vxor w d a b k, .vshl w d a b k, .vshr w d a b k,
      .vsra w d a b k, .vcomp w d a k, .vexpd w d a k, .vperm w d a b k, .vslide w d a r k, .vbcast w d r k, .viota w d r k,
      .vsel w d a b k, .vmov w d a k, .vins w d a r k]
    (i ∈ floats ∧ s.job.et ∈ floatTypes ∨ i ∈ ints ∧ s.job.et ∈ intTypes ∨ i ∈ any) → exec i s = .next t →
      (∀ v : VReg, v ≠ d → t.vreg v = s.vreg v) ∧ t.job.pregs = s.job.pregs ∧ t.job.acc = s.job.acc ∧ t.job.cc = s.job.cc ∧
      (∀ x : SReg, t.reg x = s.reg x) ∧ t.st.tags = s.st.tags ∧ t.job.et = s.job.et ∧
      (∀ x : StreamId, x ≠ s.cur → (t.job.stream x).shade = (s.job.stream x).shade) ∧
      (∀ n : Nat, memByte t.mem n = memByte s.mem n) ∧
      { t.exceptVreg d with job := { (t.exceptVreg d).job with v := { (t.exceptVreg d).job.v with fpctl := 0 } } } =
        { s.exceptVreg d with job := { (s.exceptVreg d).job with v := { (s.exceptVreg d).job.v with fpctl := 0 } } }

/-! ## Culture, tokens, clocks and versions -/

/-- R284, R286 to R289, R291 to R294, R82, R352, R353, R356, R134: the Culture instructions. QRN gives the point of its dimension
at each index, as N32 or as FP32; QCFG, and a write of QSEL, replace the whole copy by the set of the image with that number,
found by the headers of .dirtab in order (log 41, DEDUCED), or by zeros for 0xFF and for a set that the image does not hold
(of an image without sets this is the model's reading); a read of a header or of a set that meets an uncorrectable error is
counted as a dropped transfer (R393) and changes nothing else: the instruction waits and is made again (log 42, DESIGN
CHOICE). Each read carries floors (R338). QLDT replaces one dimension by a record in memory and sets DIRTY; one that meets an
uncorrectable error keeps the dimension and counts the error. PVSET sets NEXT and PEND; TOKBND moves NEXT to CUR, at once for
a job without a version domain, and else once a publish of NEXT or a later version is past on its die, and waits until then;
VTOK builds token records; a write of RCFG. -/
def Obligations.CultureAndTokenResults : Prop :=
  (∀ (w : Wheel) (d a : VReg) (r : SReg) (k : KReg) (set : BitVec 8) (dim : BitVec 6) (p q : Phys) (ps : Nat → Phys) (s : State),
    s.memOk → s.cur = .V → s.canStart w (regBit r) = true →
    let x := (s.reg r).toNat
    let va := x % 2 ^ 57
    let cleared := fun (u : State) => u.onJob (fun j => { j with culture := Vector.replicate 64 0, qset := 0xFF })
    let held := fun (c : DimRec) (key : Nat) => ∀ i < 66, c.toNat / 2 ^ (32 * i) % 2 ^ 32 = leAt s.mem (key + 4 * i) 4
    let at_ := fun (n : Nat) => (s.job.codeva.toNat + s.job.dirtab.1 + n) % 2 ^ 57
    let header := fun (n : Nat) => s.sees (at_ (16904 * n)) 8 0 (ps n) ∧ 8 ≤ (ps n).room
    let floors := fun (n : Nat) (u : State) => (List.range n).foldl (fun u i => u.exchangeWith (ps i).key) u
    let bad := fun (key n : Nat) => ∃ b ∈ s.bad, key ≤ b.1 ∧ b.1 < key + n
    let again := exec (.qcfg w set) s = .next (s.dropped.block .engineQueue) ∧
      exec (.qselWrite (set.setWidth 64)) s = .next (s.dropped.block .engineQueue) ∧
      (s.reg r = set.setWidth 64 → exec (.csrw w r 0x00D) s = .next (s.dropped.block .engineQueue))
    let sets := fun (f : State → State) =>
      exec (.qcfg w set) s = s.does w 1 f ∧
      exec (.qselWrite (set.setWidth 64)) s = .next ((f s).complete s.job.uid ⟨false, false, false, false⟩) ∧
      (s.reg r = set.setWidth 64 → exec (.csrw w r 0x00D) s = s.does w 1 f)
    (s.job.et = .fp32 ∨ s.job.et = .i32 ∨ s.job.et = .n32 →
      ∃ y : VecReg, exec (.qrn w d a r k) s = s.does w 1 (fun u => (u.countReads [a]).setVreg d y) ∧
        ∀ m < 128, lane 32 y m = if (s.pred k).getLsbD m then
            let z := culturePoint (s.job.culture[x % 64]'(Nat.mod_lt _ (by decide))) ((x / 2 ^ 32 + lane 32 (s.vreg a) m) % 2 ^ 32)
            if x / 2 ^ 8 % 2 = 1 then (roundTo .fp32 rneCtx (.rat false (z / 2 ^ 8) 1 (-24))).1 % 2 ^ 32 else z % 2 ^ 32
          else lane 32 (s.vreg d) m) ∧
    (fmtWidth s.job.et ≠ 32 → exec (.qrn w d a r k) s = .next (takeTrap ⟨0x01, 3, 0, none⟩ s)) ∧
    (set = 0xFF → sets cleared) ∧
    (set ≠ 0xFF → (∀ n < s.job.dirtab.2, header n ∧ ¬ bad (ps n).key 8 ∧ memByte s.mem (ps n).key ≠ set) →
      sets (fun u => cleared (floors s.job.dirtab.2 u))) ∧
    (∀ i < s.job.dirtab.2, set ≠ 0xFF → (∀ n < i, header n ∧ ¬ bad (ps n).key 8 ∧ memByte s.mem (ps n).key ≠ set) → header i →
      (bad (ps i).key 8 → again) ∧
      (¬ bad (ps i).key 8 → memByte s.mem (ps i).key = set → s.sees (at_ (16904 * i + 8)) 16896 0 q → 16896 ≤ q.room →
        (bad q.key 16896 → again) ∧
        (¬ bad q.key 16896 → ∃ ds : Vector DimRec 64, (∀ n : Fin 64, held (ds.get n) (q.key + 264 * n.val)) ∧
          sets (fun u => ((floors (i + 1) u).exchangeWith q.key).onJob (fun j => { j with culture := ds, qset := set }))))) ∧
    (va % 8 = 0 → s.sees va 264 0 p → 264 ≤ p.room →
      (¬ bad p.key 264 → ∃ c : DimRec, held c p.key ∧ exec (.qldt w r dim) s = s.does w 1 (fun u =>
        (u.exchangeWith p.key).onJob (fun j => { j with culture := j.culture.set dim.toNat c dim.isLt, qdirty := true }))) ∧
      (bad p.key 264 → s.job.errtrap = 0 → ∃ t : State, exec (.qldt w r dim) s = .next t ∧
        t.job.culture = s.job.culture ∧ t.job.qdirty = s.job.qdirty ∧ t.job.errcnt = s.job.errcnt + 1 ∧ t.mem = s.mem ∧
        t.st.pc = s.st.pc + 4)) ∧
    (va % 8 ≠ 0 → exec (.qldt w r dim) s = .next (takeTrap ⟨0x07, 0, BitVec.ofNat 64 va, none⟩ s))) ∧
  (∀ (w : Wheel) (d a : VReg) (r : SReg) (k : KReg) (v : Word) (s : State), s.cur = .V → s.canStart w (regBit r) = true →
    let x := (s.reg r).toNat
    let ln := fun (m : Nat) => lane 32 (s.vreg a) m
    let seen := ∃ p : VDom, s.vdoms.find? (fun p => p.owner == s.job.owner && p.dom == s.job.vdom) = some p ∧
      s.job.pvrNext.toNat ≤ p.lastPub.toNat ∧ p.pstamp < s.knownFloor s.myDie p.scope
    exec (.pvset w r) s = s.does w 1 (fun u => u.onJob (fun j => { j with pvrNext := BitVec.ofNat 16 x, pvrPend := true })) ∧
    (s.job.pvrPend = false → exec (.tokbnd w) s = s.does w 1 (fun u => u)) ∧
    (s.job.pvrPend = true → (s.job.vdom = 0 ∨ seen) →
      exec (.tokbnd w) s = s.does w 1 (fun u => u.onJob (fun j => { j with pvrCur := j.pvrNext, pvrPend := false }))) ∧
    (s.job.pvrPend = true → ¬ (s.job.vdom = 0 ∨ seen) → exec (.tokbnd w) s = .next (s.block .tokbnd)) ∧
    (fmtWidth s.job.et = 32 → ∃ y : VecReg,
      exec (.vtok w d a r k) s = s.does w 1 (fun u => (u.countReads [a]).setVreg d y) ∧
      ∀ m < 32, ∀ i < 4, lane 32 y (4 * m + i) =
        if (s.pred k).getLsbD m then
          (match i with
            | 0 => ln m
            | 1 => ln (32 + m) % 2 ^ 16 * 2 ^ 16 + s.job.pvrCur.toNat
            | 2 => (x / 2 ^ 32 + m) % 2 ^ 32
            | _ => x % 2 ^ 32)
        else lane 32 (s.vreg d) (4 * m + i)) ∧
    (fmtWidth s.job.et ≠ 32 → exec (.vtok w d a r k) s = .next (takeTrap ⟨0x01, 3, 0, none⟩ s)) ∧
    (let size := v.toNat / 64 % 4
     let live := v.toNat % 32
     exec (.rcfgWrite v) s = .next (if size = 3 ∨ (size = 1 ∧ (live = 0 ∨ 8 < live)) ∨ (size = 2 ∧ (live = 0 ∨ 16 < live)) then s
       else s.onJob (fun j => { j with
         rsize := BitVec.ofNat 2 size, rlive := BitVec.ofNat 5 live, rbase := 0, slotLive := 0 }))))

/-- R336 to R340, R347, R350, R361, R399: clocks. CLKR reads the interval of its die; a strict job whose die's interval is wider
than 2 × EPSMAX takes CLOCK_WIDE (0x0F) instead, as it does at CWAIT, at issue and while it waits. CWAIT ends once every
commit that it covers has posted and is past in the domain of each of its versions, and covers the stream's own and those that
tokens, queue entries and RDVs have brought to it (log 21, DEDUCED); another die's own domain is past by the package floor
that the die knows (log 20, DEDUCED). With the time the intervals move on, and grow by the drift of R337 once the time of the
next beacon has passed; a beacon sets the interval around true time, at most 10 ns, or with a grant 120 ns, to each side, and
raises the die's package floor by the one that it carries (log 49); one that does not hold true time or is wider only lets the
time pass. Floor reports raise floors and never lower them, and carry the publishes of other packages; a die in reset leaves
the domains. A thermal shutdown ends every launch with a job on the die that has not halted, with MACHINE_ERROR. -/
def Obligations.ClockResults : Prop :=
  ∀ (w : Wheel) (r : SReg) (die : BitVec 2) (now lo hi f : Word) (mhz : Nat) (pub : Publish) (s : State),
    s.canStart w (regBit r ||| regBit (r ||| 1)) = true →
    let me := s.dies[s.myDie]
    let d := s.dies[die.toFin]
    let wide := s.job.strict = true ∧ 2 * s.epsmax.toNat < me.latest.toNat - me.earliest.toNat
    let isPast := fun (c : Commit) => ∃ (stamp : Word) (doms : List Domain), c.stamp = some (stamp, doms) ∧
      ∀ dom ∈ doms, stamp < s.knownFloor s.myDie dom
    let flow := (s.started w 1).job.flow
    let past := ∀ c ∈ flow.commits, c.cmd ∈ flow.known[streamFin s.cur] → isPast c
    let moved := fun (t : State) (i : Fin 4) =>
      let b := s.dies[i].base
      let dt := now.toNat - b.1.toNat
      let e := (dt - (if b.2.2.toNat - b.2.1.toNat ≤ 20 then 4000 else 50000) + 4999) / 5000
      (b.2.2.toNat + dt + e < 2 ^ 64 → t.dies[i].latest.toNat = max now.toNat (b.2.2.toNat + dt + e)) ∧
      (b.2.1.toNat + dt < 2 ^ 64 → t.dies[i].earliest.toNat =
        max s.dies[i].earliest.toNat (if b.2.1.toNat + dt - e ≤ now.toNat then b.2.1.toNat + dt - e else 0))
    let narrow := lo.toNat ≤ now.toNat ∧ now.toNat ≤ hi.toNat ∧ hi.toNat - lo.toNat ≤
      (if ∃ l ∈ s.launches, (l.words.getD 0 0).getLsbD 33 = true ∧ l.state = .running then 240 else 20)
    let raised := fun (t : State) => d.floorPkg.toNat ≤ t.dies[die.toFin].floorPkg.toNat ∧
      t.dies[die.toFin].floorPkg.toNat ≤ max d.floorPkg.toNat f.toNat ∧ (d.out = true → t.dies[die.toFin].floorPkg = d.floorPkg) ∧
      (d.out = false → (∀ x : Fin 4, s.dies[x].out = false → f.toNat ≤ t.dies[x].earliest.toNat) →
        t.dies[die.toFin].floorPkg.toNat = max d.floorPkg.toNat f.toNat) ∧
      (∀ i : Fin 4, i ≠ die.toFin → t.dies[i].floorPkg = s.dies[i].floorPkg) ∧ t.job = s.job ∧ t.mem = s.mem
    let beats := fun (p : State → Prop) => ∃ t : State, exec (.beacon die now lo ⟨hi, f, []⟩) s = .next t ∧ t.now = now ∧
      t.job = s.job ∧ t.mem = s.mem ∧ p t
    (¬ wide → exec (.clkr w r) s = s.does w 1 (fun u => (u.setReg r me.earliest).setReg (r ||| 1) me.latest)) ∧
    (wide → exec (.clkr w r) s = .next (takeTrap ⟨0x0F, 3, 0, none⟩ s) ∧
      exec (.cwait w) s = .next (takeTrap ⟨0x0F, 3, 0, none⟩ s)) ∧
    (¬ wide → (past → exec (.cwait w) s = s.does w 1 (fun u => u)) ∧ (¬ past → exec (.cwait w) s = .next (s.block .cwait))) ∧
    (∀ x : StreamId, (s.job.stream x).blocked = some .cwait → wide → ∃ y : StreamId, (s.job.stream y).blocked = some .cwait ∧
      exec .clockWide s = .next (takeTrapAt y (s.job.stream y).pc ⟨0x0F, 3, 0, none⟩ none s)) ∧
    (¬ wide → exec .clockWide s = .next s) ∧
    (s.now.toNat ≤ now.toNat →
      (narrow → beats (fun t => (∀ i : Fin 4, i ≠ die.toFin → moved t i) ∧ t.dies[die.toFin].base = (now, lo, hi) ∧
        t.dies[die.toFin].latest = hi ∧ lo.toNat ≤ t.dies[die.toFin].earliest.toNat ∧
        d.earliest.toNat ≤ t.dies[die.toFin].earliest.toNat ∧ raised t)) ∧
      (¬ narrow → beats (fun t => ∀ i : Fin 4, moved t i ∧ t.dies[i].base = s.dies[i].base ∧
        t.dies[i].floorPkg = s.dies[i].floorPkg))) ∧
    (∀ i ∈ ([.floorReport die f ⟨[], []⟩, .knownFloorPassesStamp die f] : List Instr), ∃ t : State, exec i s = .next t ∧ raised t) ∧
    (s.vdoms = [] → ∃ t : State, exec (.floorReport die f ⟨[], [pub]⟩) s = .next t ∧
      t.vdoms = [⟨pub.owner, pub.dom, pub.version, pub.stamp, .grant pub.launch⟩]) ∧
    exec (.dieReset die) s = .next (s.onDie die.toFin (fun d => { d with out := true })) ∧
    exec (.throttle mhz) s = .next { s with mhz := mhz } ∧
    (∃ t : State, exec (.thermalShutdown die) s = .next t ∧ t.dies[die.toFin].stopped = true ∧
      (∀ j ∈ t.onCores, j.uid ≠ 0 → j.phase ≠ .halted → s.dieOf j.core ≠ die.toFin) ∧
      ((s.liveJobs.map (·.uid)).Nodup → ∀ j ∈ s.onCores, j.uid ≠ 0 → j.phase ≠ .halted → s.dieOf j.core = die.toFin →
        (∀ l ∈ s.launches, l.id = j.launch → l.state ≠ .ended) →
        ∀ l ∈ t.launches, l.id = j.launch → l.state = .ended ∧ l.status = 5 ∧ l.trap = 0x12))

/-- R346, R342, R343, R329: the only pending version of a stored tile, once its stamp is below the floor of its home, becomes
current in one step: the outgoing version's record goes into its block behind its bytes, and the entry takes the new version's
kind, location, stamp and policy version, and links to the outgoing block. Before that, and while a read of an AON tile holds
its writes at the home (R329; a tile-mode VLD does not while its job is parked), nothing changes. Where the record meets an
uncorrectable error, the change is dropped, which is counted for the tile's owner, and nothing else happens (R393, R394; log
42, DESIGN CHOICE). -/
def Obligations.VersionBecomesCurrent : Prop :=
  ∀ (k : Nat) (v : TileVer) (s : State), s.memOk → s.tileVers = [v] → v.entry = k → v.state = .pending → v.recBlock = none →
    v.domain = .pkg →
    let t := s.tte k
    let home := homeDie k t
    let key := cellKey (if t.tier = 2 then .vat else .pkg) (t.loc * 512 + t.backLen)
    (s.dies[home].floorPkg.toNat ≤ v.stamp.toNat → exec (.versionCurrent k) s = .next s) ∧
    (∀ h ∈ s.aonHolds, h.1 = k → h.2 ≠ 0 → (∀ j ∈ s.onCores, h.2 = 2 ^ 80 + j.uid → j.phase = .running) →
      exec (.versionCurrent k) s = .next s) ∧
    (t.kind = 0 → t.cave = 0 → (t.tier = 2 ∨ t.tier = 3) → t.loc < 2 ^ 31 → (key + 64 ≤ k ∨ k + 64 ≤ key) →
      (∀ h ∈ s.aonHolds, h.1 ≠ k) → v.stamp.toNat < s.dies[home].floorPkg.toNat → s.vwater.toNat < v.stamp.toNat →
      let hit := ∃ b ∈ s.bad, key ≤ b.1 ∧ b.1 < key + 64
      (hit → exec (.versionCurrent k) s = .next (s.countCorrupt t.owner)) ∧
      (¬ hit → ∃ u : State, exec (.versionCurrent k) s = .next u ∧ u.tileVers = [] ∧
        (u.tte k).kind = v.tte.kind ∧ (u.tte k).loc = v.tte.loc ∧ (u.tte k).stamp = v.stamp ∧ (u.tte k).pver = v.pver.toNat ∧
        (u.tte k).cave = t.loc + 1 ∧ (u.tte k).owner = t.owner ∧ (u.tte k).fmtCode = t.fmtCode ∧
        (v.tte.kind = 0 → (u.tte k).refcnt = t.refcnt) ∧
        (u.tte key).loc = t.loc ∧ (u.tte key).stamp = t.stamp ∧ (u.tte key).pver = t.pver ∧ (u.tte key).kind = t.kind ∧
        (∀ x : Nat, (x < k ∨ k + 64 ≤ x) → (x < key ∨ key + 64 ≤ x) → memByte u.mem x = memByte s.mem x)))

/-! ## Launches -/

/-- R102, R103, R95, R105, R109, R376, R393, R107, R136, R376 to R378: the steps in the life of a launch: the acknowledgement of
its probes, or their time-out (status 4), the start of its loaded jobs, ageing by one level where AGE allows it, and the end
of a hold. PROBE_ACK stands for the last acknowledgement, which does not come while every link of a direction in which a route
of the grant leaves, enters or passes this package is down: on an axis that the grant's box spans, both directions, and else
those that lead to packages of the box (R101; which ports make a direction is log 60, DESIGN CHOICE). GRANT_RELEASE stands for
what the other packages report (log 27, DESIGN CHOICE): their loaded jobs release the start, their halted jobs let the launch
end with this package's, and a trap of theirs ends it with status 5. A package that runs no job of the launch, one outside the
box for instance (R101), starts with that report alone. The dispatcher carries out the first plan in service order (its cores,
and the sets that it pre-empts, are chosen as logs 26 and 28 say, DESIGN CHOICE): it claims the grant of a multi-package
launch, or loads a set of jobs on the cores that it found, each with its own identity, or restores a pre-empted set, in which
a halted job holds its core again (R94), and where an image that fails its integrity check ends its launch with MACHINE_ERROR.
A package outside the box of a grant loads no routing table (R101). PREEMPT_SAVE saves the job in focus, once it stands at one
safe point with queues, tokens and threads empty, without the dead rotating slots, and frees its core; the image has the
sections of R377 in their order and of their sizes, each under its condition, after a header of 64 bytes; where it stands and
how the header and the sections without a layout are laid out is the firmware's (log 29, DEDUCED). -/
def Obligations.LaunchesAndDispatch : Prop :=
  (∀ (id : Nat) (l : Launch) (code : BitVec 8) (stage job : Nat) (s : State), s.launch? id = some l →
    (∀ m ∈ s.launches, m.id = id → m = l) →
    let next := fun (i : Instr) (f : Launch → Launch) => exec i s = .next (s.onLaunch id f)
    let loaded := ∃ x ∈ l.jobs, x.phase = .loaded
    let starts := fun (i : Instr) => ∃ t : State, exec i s = .next t ∧
      (∀ m ∈ t.launches, m.id = id → m.state = .running ∧ ∀ x ∈ m.jobs, x.phase ≠ .loaded) ∧
      (∀ j ∈ t.onCores, j.launch = id → j.uid ≠ 0 → j.phase ≠ .loaded) ∧ t.mem = s.mem
    let multi := (l.words.getD 0 0).getLsbD 33
    let waits := fun (x : StreamId) => let b := (s.job.stream x).blocked
      (∃ w ∈ ([.queue, .token, .waitc, .rdv, .bar, .join] : List Blocked), b = some w) ∨
      (b = some .cwait ∧ ∃ c ∈ s.job.flow.commits, c.cmd ∈ s.job.flow.known[streamFin x] ∧
        ∀ (stamp : Word) (doms : List Domain), c.stamp = some (stamp, doms) → ∃ dom ∈ doms, ¬ stamp < s.knownFloor s.myDie dom)
    let stuck := fun (x : StreamId) =>
      (s.job.stream x).phase = .halted ∨ (∃ i, (s.job.stream x).phase = .held i) ∨ waits x
    let unsafe_ :=
      (∃ x : StreamId, (s.job.stream x).phase = .running ∨ (s.job.stream x).phase = .released) ∨ (∃ q : Fin 8, s.job.queues[q].entries ≠ []) ∨
      (∃ n : Fin 8, s.job.tokens[n] ≠ 0) ∨
      (∃ x y : StreamId, ∃ i j : BitVec 10, (s.job.stream x).phase = .held i ∧ (s.job.stream y).phase = .held j ∧ i ≠ j)
    let up := fun (group : Nat) => ∃ (n : Nat) (h : n < 48), n / 8 = group ∧ s.fabric.ports[n].up = true
    let axes := [(s.torus.1, s.coords.1, 60), (s.torus.2.1, s.coords.2.1, 56), (s.torus.2.2, s.coords.2.2, 52)]
    let field := fun (lo : Nat) => (l.words.getD 2 0).toNat / 2 ^ lo % 16
    let off := fun (p : Nat × Nat × Nat) => (p.2.1 + p.1 - field p.2.2 % p.1) % p.1
    let inside := ∀ p ∈ axes, off p ≤ field (p.2.2 - 12)
    let linked := inside → ∀ (i : Nat) (p : Nat × Nat × Nat), axes[i]? = some p → field (p.2.2 - 12) ≠ 0 →
      (p.1 ≤ field (p.2.2 - 12) + 1 ∨ off p < field (p.2.2 - 12) → up (2 * i)) ∧
      (p.1 ≤ field (p.2.2 - 12) + 1 ∨ off p ≠ 0 → up (2 * i + 1))
    (l.state = .routing → linked → next (.probeAck id) (fun m => { m with state := .loading, probed := true })) ∧
    (¬ linked → exec (.probeAck id) s = .next s) ∧
    (l.state ≠ .routing → exec (.probeAck id) s = .next s ∧ exec (.probeTimeout id) s = .next s) ∧
    (l.state = .routing → ∃ t : State, exec (.probeTimeout id) s = .next t ∧
      ∀ m ∈ t.launches, m.id = id → m.state = .ended ∧ m.status = 4) ∧
    (loaded → l.state = .running ∨ (l.state = .loading ∧ multi = false) → starts (.gangStart id)) ∧
    (l.state = .loading → multi = true → exec (.gangStart id) s = .next s ∧
      (loaded ∨ l.share = 0 → starts (.grantRelease ⟨id, .loaded⟩))) ∧
    (l.state = .running → multi = true →
      (l.stages = 0 → ∃ t : State, exec (.grantRelease ⟨id, .halted⟩) s = .next t ∧ ∀ m ∈ t.launches, m.id = id →
        m.othersHalted = true ∧ (if (l.jobs.filter (fun x => x.phase == .halted || x.phase == .haltedAway)).length = l.share
          then m.state = .ended ∧ m.status = 0 else m.state = .running ∧ m.jobs = l.jobs)) ∧
      (∃ t : State, exec (.grantRelease ⟨id, (.trapped code stage job)⟩) s = .next t ∧
        (∀ j ∈ t.onCores, j.uid ≠ 0 → j.launch ≠ id) ∧ ∀ m ∈ t.launches, m.id = id →
          m.state = .ended ∧ m.status = 5 ∧ m.trap = code ∧ m.endStage = stage ∧ m.endJob = job)) ∧
    (multi = false → ∀ rep : GrantReport, exec (.grantRelease ⟨id, rep⟩) s = .next s) ∧
    (l.state = .waiting → l.prio < 7 → (∀ h : l.prio < 7, s.age[l.prio] ≠ 0) →
      next (.launchAgeing id) (fun m => { m with prio := l.prio + 1 })) ∧
    (l.state = .waiting → (∀ h : l.prio < 7, s.age[l.prio] = 0) → exec (.launchAgeing id) s = .next s) ∧
    (s.job.preempt = true → (∀ x : StreamId, stuck x) → unsafe_ →
      ∃ t : State, exec .safeHoldRelease s = .next t ∧ t.mem = s.mem ∧
        ∀ x : StreamId, (t.job.stream x).phase = (match (s.job.stream x).phase with | .held _ => .released | p => p)) ∧
    (s.job.preempt = false ∨ (∃ x : StreamId, (s.job.stream x).phase = .running ∧ (s.job.stream x).blocked = none) →
      exec .safeHoldRelease s = .next s)) ∧
  (∀ (s : State),
    let u := s.mapJobs (Job.request s.wanted)
    (u.plans u.inService [] = [] → exec .dispatch s = .next u) ∧
    (∀ (id stage : Nat) (ns : List Nat) (ps : List (Nat × Nat)) (rest : List Plan) (l : Launch) (img : Image),
      u.plans u.inService [] = .run id (.start stage ns) ps :: rest → u.launch? id = some l → l.image = some img →
      (∀ m ∈ s.launches, m.id = id → m = l) → l.id = id →
      ∃ t : State, exec .dispatch s = .next t ∧ t.nextUid = s.nextUid + ps.length ∧ t.launches.length = s.launches.length ∧
        ∀ m ∈ t.launches, m.id = id → m.state = (if l.state = .waiting then .loading else l.state) ∧
          m.jobs = l.jobs ++ ps.zipIdx.map (fun (p, i) => ⟨stage, p.1, p.2, s.nextUid + i, .loaded⟩)) ∧
    (∀ (id : Nat) (rest : List Plan) (l : Launch), u.plans u.inService [] = .route id :: rest → u.launch? id = some l →
      l.id = id → (∀ m ∈ s.launches, m.id = id → m = l) →
      (l.here = false ∨
        ∃ o : Owner, s.owners.find? (·.id == l.owner) = some o ∧ (if o.useSlot then o.key1 else o.key0).isSome = true) →
      ∃ t : State, exec .dispatch s = .next t ∧ (∀ m ∈ t.launches, m.id = id → m.state = .routing) ∧ t.mem = s.mem ∧
        (if l.here = true then ∃ n, (l.owner, n + 1) ∈ t.fabric.routes else t.fabric = s.fabric)) ∧
    (∀ (uid id : Nat) (x : LJob) (p : Nat × Nat) (rest : List Plan) (l : Launch) (j : Job) (cells : List Host.Cell),
      s.plans s.inService [] = .run id (.resume [x]) [p] :: rest → s.launch? id = some l → x.uid = uid → p = (x.num, s.job.core) →
      s.saved.find? (·.1.uid == uid) = some (j, cells) → j.uid = uid →
      let hit := ∃ b ∈ s.bad, 2 ^ 80 + uid * 2 ^ 16 ≤ b.1 ∧ b.1 < 2 ^ 80 + (uid + 1) * 2 ^ 16
      (hit → uid ≠ 0 → j.phase ≠ .halted → j.launch = id → l.state = .running → (∀ m ∈ s.launches, m.id = id → m = l) →
        ∃ t : State, exec (.resume uid) s = .next t ∧
          ∀ m ∈ t.launches, m.id = id → m.state = .ended ∧ m.status = 5 ∧ m.trap = 0x12) ∧
      (¬ hit → ∃ t : State, exec (.resume uid) s = .next t ∧ t.job.uid = uid ∧ t.job.core = s.job.core ∧
        t.job.phase = (if j.phase = .halted then .halted else .running) ∧ t.job.vregs = j.vregs ∧ t.job.acc = j.acc ∧ t.job.cc = j.cc ∧ t.job.qdirty = false ∧ t.job.a.regs = j.a.regs ∧
        t.job.a.pc = j.a.pc ∧ (∀ y ∈ t.saved, y.1.uid ≠ uid))) ∧
    (∀ uid : Nat, (∀ (id : Nat) (js : List LJob) (ps : List (Nat × Nat)) (rest : List Plan),
      s.plans s.inService [] = .run id (.resume js) ps :: rest → ∀ x ∈ js, x.uid ≠ uid) → exec (.resume uid) s = .next s) ∧
    (∀ (l : Launch) (x : LJob), s.launch? s.job.launch = some l → l.jobs = [x] → x.uid = s.job.uid → x.phase = .running →
      s.hasJob → (∀ j ∈ s.others, j.uid ≠ s.job.uid) → s.job.mayBeSaved = true →
      ∃ t : State, exec .preemptSave s = .next t ∧ t.job = Job.reset s.job.core ∧
        (∃ (j : Job) (cells : List Host.Cell), t.saved = s.saved ++ [(j, cells)] ∧ j.uid = s.job.uid ∧ j.phase = .loaded ∧
          j.preempt = false ∧ (∀ x : StreamId, j.stream x = s.job.stream x) ∧ j.acc = s.job.acc ∧ j.cc = s.job.cc ∧
          j.pregs = s.job.pregs ∧ j.culture = s.job.culture ∧
          (∀ n : Fin 32, j.vregs[n] =
            if n.val < 16 ∨ s.job.rot ≤ n.val - 16 ∨ s.job.slotLive.getLsbD (n.val - 16) = true then s.job.vregs[n] else 0) ∧
          ((∀ c ∈ s.entries, c.late = false) → ∀ (n : Nat) (b : Byte), n < 65536 → ((n, b) ∈ cells ↔ ((lttRange s.job.core).1 + n, b) ∈ s.mem))) ∧
        ((∀ p ∈ s.saved, p.1.uid ≠ s.job.uid) →
          let slots := ((List.range 16).filter (fun n => decide (s.job.rot ≤ n) || s.job.slotLive.getLsbD n)).length
          let dense := ([0, 1, 2] : List (Fin 3)).filter (fun n => !(s.job.acc[n]).status.getLsbD 37)
          let tables := s.job.threadAcq.filter (fun p => s.job.hasPosting (BitVec.ofNat 4 ((p.1 - 1) % 16)))
          ∃ img : CtxImage, t.contextOf s.job.uid = some img ∧ img.uid = s.job.uid ∧ img.lid = s.job.lid ∧
            (∀ (x : StreamId) (i : BitVec 10), (s.job.stream x).phase = .held i → img.held = some i) ∧
            img.present = [true, true, true, true, true, true, true, !dense.isEmpty, s.job.heldA.isSome, true, true, !tables.isEmpty,
              true, true, true, s.job.qdirty] ∧
            (s.job.heldA = none → img.lengths = [1024, 2048, 512 * (16 + slots), 448, 64, 16384, 32] ++
              (if dense = [] then [] else [65536 * dense.length]) ++ [192, 320] ++
              (if tables = [] then [] else [256 * tables.length]) ++ [96, 65536, 512 * 2 ^ s.job.scrlog] ++
              (if s.job.qdirty = true then [16640] else [])) ∧
            ∃ ws : List Word, img.sections.head? = some (.words ws) ∧ ∀ x : StreamId, let p := 32 * (streamFin x).val
              ws[p]? = some ((s.job.stream x).pc.setWidth 64) ∧ ws[p + 31]? = some (BitVec.ofNat 64 (s.job.stream x).rdvs) ∧
              ∀ r : Fin 16, r.val ≠ 0 → ws[p + r.val]? = some (s.job.stream x).regs[r]) ∧
        ∀ m ∈ t.launches, m.id = l.id → ∀ y ∈ m.jobs, y.uid = s.job.uid → y.phase = .preempted))

/-! ## The host, the mailbox and other agents -/

/-- R5, R12, R18, R381, R380, R382, R384, R397: the management window and boot. A read of 8 bytes gives the register of its
offset, and zeros for a write-only or unlisted offset and for another size. SUBMIT in a booted package makes the record in
host memory a launch with the tag in bits [7:0] (before BOOT it is ignored: log 30, DEDUCED); a record that meets an
uncorrectable error is dropped, and the launch has no words (log 42, DESIGN CHOICE); TAPSEL, INVAL and COMPBASE; a mailbox
write of word 0 with bit 63 starts a command; another offset or size is ignored. BOOT with good signatures, a good harvest, a
torus of 1 to 16 in each direction and the package's place in it writes the descriptor and starts the clocks, at the record's
epoch on every die; else the descriptor reads 0. A second BOOT changes nothing (log 33, DESIGN CHOICE, as is the clocks' first
interval). -/
def Obligations.HostWindowResults : Prop :=
  ∀ (v : Word) (off : BitVec 16) (size : Nat) (i : Fin 32) (rec : BootRecord) (s : State), (∀ l ∈ s.launches, l.id < s.nextLaunch) →
    let tap := s.onHost (fun h => { h with tapsel := v &&& 0xFFFFE000FFFFFFFF })
    let inval := { s with tlb := s.tlb.filter (fun e => e.owner != BitVec.ofNat 16 v.toNat) }.onHost (fun h => { h with invBusy := true })
    let record := cellKey .host (v.toNat / 256 * 256)
    let submits := fun (x : Instr) => ∃ t : State, exec x s = .next t ∧ t.host.submits = s.host.submits + 1 ∧
      t.host.hostEpoch = s.host.hostEpoch + 1 ∧ t.nextLaunch = s.nextLaunch + 1 ∧ t.launches.length = s.launches.length + 1 ∧
      ∀ l, t.launches[s.launches.length]? = some l → l.id = s.nextLaunch ∧ l.tag = some (BitVec.ofNat 8 v.toNat) ∧
        l.parent = none ∧ l.key = [s.host.submits] ∧ l.depth = 1 ∧
        l.words = (if ∃ b ∈ s.bad, record ≤ b.1 ∧ b.1 < record + 256 then [] else
          (List.range 32).map (fun i => BitVec.ofNat 64 (leNat (memRead s.mem (record + 8 * i) 8))))
    (s.mgmtRead 8 0x00 = s.desc[0] ∧ s.mgmtRead 8 0x08 = s.desc[1] ∧ s.mgmtRead 8 0x10 = s.desc[2] ∧ s.mgmtRead 8 0x18 = s.desc[3] ∧
      s.mgmtRead 8 0x40 = 0 ∧ s.mgmtRead 8 0x48 = s.host.compBase ∧ s.mgmtRead 8 0x50 = s.host.tapsel ∧ s.mgmtRead 8 0x58 = 0 ∧
      (s.mgmtRead 8 0x60).toNat = (if s.host.invBusy then 1 else 0) + (if s.host.mbBusy then 2 else 0) ∧
      s.mgmtRead 8 (0x1000 + 8 * i.val) = s.host.mailbox[i] ∧ (size ≠ 8 → s.mgmtRead size off.toNat = 0) ∧
      (off.toNat ∉ [0x00, 0x08, 0x10, 0x18, 0x48, 0x50, 0x60] → (off.toNat < 0x1000 ∨ 0x1100 ≤ off.toNat ∨ off.toNat % 8 ≠ 0) →
        s.mgmtRead 8 off.toNat = 0)) ∧
    (s.booted = true → submits (.submit v) ∧ submits (.mgmtRegisterWrite ⟨8, 0x40⟩ v)) ∧
    (s.booted = false → exec (.submit v) s = .next s) ∧
    exec (.tapselWrite v) s = .next tap ∧ exec (.mgmtRegisterWrite ⟨8, 0x50⟩ v) s = .next tap ∧
    exec (.inval v) s = .next inval ∧ exec (.mgmtRegisterWrite ⟨8, 0x58⟩ v) s = .next inval ∧
    exec .invalComplete s = .next (s.onHost (fun h => { h with invBusy := false })) ∧
    exec (.mgmtRegisterWrite ⟨8, 0x48⟩ v) s = .next (s.onHost (fun h => { h with compBase := v })) ∧
    exec (.mgmtRegisterWrite ⟨8, (BitVec.ofNat 16 (0x1000 + 8 * i.val))⟩ v) s = .next (s.onHost (fun h =>
      { h with mailbox := h.mailbox.set i v, mbBusy := if i = 0 ∧ v.getLsbD 63 = true then true else h.mbBusy })) ∧
    (off.toNat ∉ [0x40, 0x48, 0x50, 0x58] → (off.toNat < 0x1000 ∨ 0x1100 ≤ off.toNat ∨ off.toNat % 8 ≠ 0) →
      exec (.mgmtRegisterWrite ⟨8, off⟩ v) s = .next s) ∧
    (size ≠ 8 → exec (.mgmtRegisterWrite ⟨size, off⟩ v) s = .next s) ∧
    (s.booted = true → exec (.boot rec) s = .next s) ∧
    (s.booted = false →
      let short := fun (d : Nat) => ((List.range 6).filter (fun n => rec.shortCl.getLsbD (6 * d + n))).length
      let harvest := if rec.variant184 then ∀ d < 4, short d = 2 else rec.shortCl = 0
      let fits := ∀ n ∈ [(rec.torusX, rec.atX), (rec.torusY, rec.atY), (rec.torusZ, rec.atZ)], 1 ≤ n.1 ∧ n.1 ≤ 16 ∧ n.2 < n.1
      (rec.verified = true → harvest → fits → ∃ t : State, exec (.boot rec) s = .next t ∧ t.booted = true ∧ t.now = rec.epochNs ∧
        t.torus = (rec.torusX, rec.torusY, rec.torusZ) ∧ t.coords = (rec.atX, rec.atY, rec.atZ) ∧ t.mem = s.mem ∧
        t.desc[0].toNat / 2 ^ 48 = 0x0960 ∧ t.desc[0].toNat / 2 ^ 16 % 256 = (if rec.variant184 then 184 else 192) ∧
        t.desc[1].toNat % 2 ^ 24 = rec.shortCl.toNat ∧ t.desc[2].toNat % 2 ^ 16 = rec.fwVer.toNat ∧
        (∀ d : Fin 4, t.dies[d].earliest = rec.epochNs ∧ t.dies[d].latest = rec.epochNs)) ∧
      (rec.verified = false ∨ ¬ harvest ∨ ¬ fits → ∃ t : State, exec (.boot rec) s = .next t ∧ t.booted = false ∧
        t.desc = Vector.replicate 4 0))

/-- R396, R389, R391 to R393, R398, R358: the mailbox commands. A command is carried out once, while MBBUSY stands and it has no
result; its result 0 goes with its effect and any other with none, and MAILBOX_RESULT then writes it into word 0 [47:32] and
clears MBBUSY. The words and bits in which a command's operands stand are log 31 (PRESUMED); so is it that a REVOKE or
UNIMPORT of nothing, and an EXPORT of another tier or of an owner that does not exist, have bad operands (1). A quote holds
its nonce, the measurements, the certificate and a signature over them (log 9). -/
def Obligations.MailboxResults : Prop :=
  ∀ (s : State), s.host.mbBusy = true → s.host.mbResult = none →
    let m := fun (i : Fin 32) => s.host.mailbox[i]
    let o := BitVec.ofNat 16 (m 1).toNat
    let code := (m 0).toNat % 2 ^ 16
    let known := ∃ x ∈ s.owners, x.id = o
    let busy := ∃ l ∈ s.launches, Launch.owner l = o ∧ l.state ≠ .ended
    let done := fun (i : Instr) (c r : Nat) (t : State) => code = c →
      exec i s = .next (t.onHost (fun h => { h with mbResult := some (BitVec.ofNat 16 r) }))
    let fails := fun (i : Instr) (c r : Nat) => done i c r s
    let owner := fun (f : Owner → Owner) => { s with owners := s.owners.map (fun x => if x.id = o then f x else x) }
    let key := m 6 ++ m 5 ++ m 4 ++ m 3
    let windows := fun (f : List (BitVec 16 × Word × Word) → List (BitVec 16 × Word × Word)) =>
      { s with fabric := { s.fabric with windows := f s.fabric.windows } }
    let w0 := m 2 ||| 0x8000000000000000
    let exported := ∃ w ∈ s.fabric.windows, w.1 = o ∧ w.2.1.getLsbD 63 = true
    let imported := ∃ w ∈ s.fabric.imports, w.1 = o
    let n := (m 2).toNat / 2 ^ 8 % 8
    let slot : Option Bool := if m 2 = 0 then some false else if m 2 = 1 then some true else none
    (∀ ic ∈ ([(.ownerDel, 0x02), (.setRoot, 0x03), (.setTtb, 0x04), (.keyLoad, 0x10), (.keyUse, 0x11), (.keyRetire, 0x12),
        (.sigPolicy, 0x30), (.errRead, 0x31)] : List (Instr × Nat)), ¬ known → fails ic.1 ic.2 1) ∧
    (¬ known → done .ownerNew 0x01 0 { s with owners := s.owners ++ [⟨o, (m 2).toNat, 0, none, none, false, false, [], 0, 0, 0, 0⟩] }) ∧
    (known → fails .ownerNew 0x01 1) ∧
    (known → busy → fails .ownerDel 0x02 2 ∧ fails .setTtb 0x04 2) ∧
    (known → ¬ busy → done .ownerDel 0x02 0 { s with
        tlb := s.tlb.filter (fun e => e.owner != o)
        owners := s.owners.filter (fun x => x.id != o)
        vdoms := s.vdoms.filter (fun x => x.owner != o)
        fabric := { s.fabric with windows := s.fabric.windows.filter (fun w => BitVec.ofNat 16 (w.2.2.toNat / 2 ^ 48) != o) } } ∧
      done .setTtb 0x04 0 (owner (fun x => { x with ttb := m 2 }))) ∧
    (known →
      done .setRoot 0x03 0 { owner (fun x => { x with root := (m 2).toNat }) with tlb := s.tlb.filter (fun e => e.owner != o) } ∧
      (∀ b : Bool, slot = some b →
        done .keyLoad 0x10 0 (owner (fun x => if b then { x with key1 := some key } else { x with key0 := some key })) ∧
        done .keyUse 0x11 0 (owner (fun x => { x with useSlot := b })) ∧
        done .keyRetire 0x12 0 (owner (fun x => if b then { x with key1 := none } else { x with key0 := none }))) ∧
      (slot = none → fails .keyLoad 0x10 1 ∧ fails .keyUse 0x11 1 ∧ fails .keyRetire 0x12 1) ∧
      (4 < n → fails .sigPolicy 0x30 1) ∧
      (n ≤ 4 → ∃ ks : List (BitVec 256), ks.length = n ∧ (0 < n → ks.head? = some key) ∧
        done .sigPolicy 0x30 0 (owner (fun x => { x with sigRequired := (m 2).getLsbD 0, sigKeys := ks }))) ∧
      (∀ x : Owner, s.owners.find? (fun x => x.id == o) = some x → code = 0x31 → ∃ t : State, exec .errRead s = .next t ∧
        t.host.mbResult = some 0 ∧ t.host.mailbox[1] = x.corrupt.setWidth 64 ∧ t.host.mailbox[2] = x.tagErr.setWidth 64 ∧
        t.host.mailbox[3] = x.revoked.setWidth 64 ∧ t.host.mailbox[4] = x.accessErr.setWidth 64 ∧ t.owners = s.owners)) ∧
    (let good := ((m 2).toNat / 2 ^ 60 % 8 = 2 ∨ (m 2).toNat / 2 ^ 60 % 8 = 3 ∨ (m 2).toNat / 2 ^ 60 % 8 = 4) ∧
        (∃ x ∈ s.owners, x.id = BitVec.ofNat 16 ((m 3).toNat / 2 ^ 48)) ∧
        (∃ x ∈ s.owners, x.id = BitVec.ofNat 16 ((m 3).toNat / 2 ^ 32))
     (good → done .exportWin 0x20 0 (windows (fun ws => (o, w0, m 3) :: ws.filter (fun w => w.1 != o)))) ∧
     (¬ good → fails .exportWin 0x20 1)) ∧
    (exported → done .revoke 0x21 0 (windows (fun ws => ws.map (fun w =>
      if w.1 = o then (w.1, w.2.1 &&& 0x7FFFFFFFFFFFFFFF, w.2.2) else w)))) ∧
    (¬ exported → fails .revoke 0x21 1) ∧
    (imported → fails .importWin 0x22 1 ∧
      done .unimport 0x23 0 { s with fabric := { s.fabric with imports := s.fabric.imports.filter (fun w => w.1 != o) } }) ∧
    (¬ imported → fails .unimport 0x23 1 ∧
      done .importWin 0x22 0 { s with fabric := { s.fabric with imports := s.fabric.imports ++ [(o, m 2)] } }) ∧
    (s.quotes < 2 ^ 20 → code = 0x40 → ∃ t : State, exec .quote s = .next t ∧ t.host.mbResult = some 0 ∧ t.quotes = s.quotes + 1 ∧
      t.owners = s.owners ∧ t.host.mailbox[0] = m 0 ∧ ∃ q : Quote, t.host.quote = some q ∧ q.nonce = m 4 ++ m 3 ++ m 2 ++ m 1 ∧
        q.firmware = Config.shake256 Config.firmwareBytes ∧ q.config = Config.shake256 Config.configBytes ∧
        q.certificate = Config.certificate ∧ q.signature = Config.sign (Config.shake256 q.message) s.quotes) ∧
    (2 ^ 20 ≤ s.quotes → fails .quote 0x40 3) ∧
    (let finished := fun (u : State) (r : BitVec 16) => ∃ t : State, exec .mailboxResult u = .next t ∧ t.host.mbBusy = false ∧
        t.host.mbResult = none ∧ t.host.mailbox[0].toNat / 2 ^ 32 % 2 ^ 16 = r.toNat ∧
        t.host.mailbox[0].toNat % 2 ^ 32 = (m 0).toNat % 2 ^ 32 ∧ t.owners = s.owners ∧ t.fabric = s.fabric
     (∀ r : BitVec 16, finished (s.onHost (fun h => { h with mbResult := some r })) r) ∧
     (code ∉ [0x01, 0x02, 0x03, 0x04, 0x10, 0x11, 0x12, 0x20, 0x21, 0x22, 0x23, 0x30, 0x31, 0x40] → finished s 1) ∧
     (code ∈ [0x01, 0x02, 0x03, 0x04, 0x10, 0x11, 0x12, 0x20, 0x21, 0x22, 0x23, 0x30, 0x31, 0x40] →
       exec .mailboxResult s = .next s))

/-- R383, R384, R386, R391, R392, R393, R64, R83: accesses from outside. The raw aperture reads and writes bytes of package memory
and of the Vats, and the host its own memory, with floors between the die where the host's access comes in, which is free (log
49), and the home; a read of a tile that is stored, plain and unpressed records the agent, changes no other byte and returns
the bytes of its ROW image; an aperture write replaces its bytes; a tile that its entry keeps away is an abort that ACCESSERR
counts (log 30, DEDUCED). A peer's request is carried out inside its window with its permission; one of another importer,
without the permission bit of its kind, or that runs past the window's end has no effect, as one to a window that is revoked
or not exported, and is counted as revoked, for the importer and, of a window that has a record, the exporter. One that is
carried out takes floors between the die of its port and the home of its bytes (R338; log 49). A read that has ended, or
failed, holds no writes of the tile any more (R329). -/
def Obligations.OutsideAccesses : Prop :=
  ∀ (tier : Tier) (pa : Nat) (bytes : List Byte) (off len : Nat) (owner window id : BitVec 16) (idx bkey : BitVec 32) (k b : Nat)
    (t : Tte) (vals : TileVals) (op : AmoOp) (rel : Bool) (v cmp : Word) (pt : Nat) (s : State), s.memOk → s.bad = [] →
    let key := cellKey tier pa
    let answer := fun (r : Option (List Byte)) (u : State) => u.onHost (fun h => { h with answer := r })
    ((tier = .vat ∨ tier = .pkg ∨ tier = .host) → bytes.length ≤ 64 → pa + bytes.length ≤ tierSize tier →
      let met := s.exchangeFrom (Config.hostModule key) key
      exec (.hostRawAccess false tier pa bytes) s = .next (answer (some (memRead s.mem key bytes.length)) met) ∧
      ∃ u : State, exec (.hostRawAccess true tier pa bytes) s = .next u ∧ { u with mem := s.mem } = met ∧
        (∀ i < bytes.length, memByte u.mem (key + i) = bytes.getD i 0) ∧
        (∀ x : Nat, x < key ∨ key + bytes.length ≤ x → memByte u.mem x = memByte s.mem x)) ∧
    (let entry := fun (o : BitVec 16) (sub i : Nat) => readEntry s (s.outsider sub o).ctx 0 i = .ok (k, t) ∧ t.owner = o ∧
        s.plainEntry k t ∧ t.press = false ∧ (t.tier = 2 ∨ t.tier = 3) ∧ valuesOf s (s.outsider sub o).ctx i t = .ok vals ∧
        b = cellKey (if t.tier = 2 then .vat else .pkg) (t.loc * 512) ∧ t.loc * 512 + t.backLen ≤ tierSize (if t.tier = 2 then .vat else .pkg) ∧
        (k + 64 ≤ b ∨ b + t.backLen ≤ k)
     let image := packBytes (fmtWidth t.fmt) vals.vals
     let reads := fun (i : Instr) (sub off len : Nat) => ∃ u : State, exec i s = .next u ∧ u.owners = s.owners ∧
        (∃ bs : List Byte, u.host.answer = some bs ∧ bs.length = len ∧ ∀ n < len, bs.getD n 0 = image.getD (off + n) 0) ∧
        (∃ g ∈ u.recs, g.entry = k ∧ g.slot = .a ∧ g.party = ⟨0, sub⟩) ∧ (∀ h ∈ u.aonHolds, h.2 ≠ 2 ^ 79 + sub) ∧
        ((∀ c ∈ s.entries, c.key = k → c.tte = s.tableTte k) → ∀ x : Nat, x < k + 56 ∨ k + 60 ≤ x → memByte u.mem x = memByte s.mem x) ∧
        ∀ x : Nat, x < k ∨ k + 64 ≤ x → memByte u.mem x = memByte s.mem x
     let tap := s.host.tapsel.toNat
     (entry (BitVec.ofNat 16 (tap / 2 ^ 48)) 0 (tap % 2 ^ 32) → reads (.tileApertureRead off len) 0 off len) ∧
     (∀ port : Option Nat, let sub := if port.isSome then 2 else 1
       entry owner sub idx.toNat → reads (.outsideAgentRead port owner idx) sub 0 32768) ∧
     (entry (BitVec.ofNat 16 (tap / 2 ^ 48)) 0 (tap % 2 ^ 32) → t.refcnt = 1 → t.fmt = .fp32 → t.layout = 0 →
       s.aonHolds = [] → off < 4 * (t.rows * t.cols) → bytes ≠ [] →
       ∃ u : State, exec (.tileApertureWrite off bytes) s = .next u ∧ u.owners = s.owners ∧
         (∃ g ∈ u.recs, g.entry = k ∧ g.slot = .w ∧ g.party = ⟨0, 0⟩) ∧
         (∀ i < bytes.length, off + i < 4 * (t.rows * t.cols) → memByte u.mem (b + off + i) = bytes.getD i 0) ∧
         (∀ x : Nat, (x < k ∨ k + 64 ≤ x) → (x < b + off ∨ b + off + bytes.length ≤ x ∨ b + 4 * (t.rows * t.cols) ≤ x) →
           memByte u.mem x = memByte s.mem x)) ∧
     (∀ o : Owner, readEntry s (s.outsider 0 (BitVec.ofNat 16 (tap / 2 ^ 48))).ctx 0 (tap % 2 ^ 32) =
         .error (tileAbsent 0 (tap % 2 ^ 32)) → s.owners = [o] → o.id = BitVec.ofNat 16 (tap / 2 ^ 48) →
       exec (.tileApertureRead off len) s =
         .next { answer none s with
           owners := [{ o with accessErr := o.accessErr + 1 }], aonHolds := s.aonHolds.filter (fun h => h.2 ≠ 2 ^ 79) })) ∧
    (let admits := fun (x : Word) (y : Word) (n bit : Nat) =>
        s.fabric.windows.find? (fun w => w.1 == window && w.2.1.getLsbD 63) = some (window, x, y) ∧
        BitVec.ofNat 16 (y.toNat / 2 ^ 32) = owner ∧ off + n ≤ (y.toNat % 2 ^ 24 + 1) * 512 ∧ y.getLsbD bit = true
     (∀ x y : Word, x.toNat / 2 ^ 60 % 8 = 2 ∨ x.toNat / 2 ^ 60 % 8 = 3 →
       let wt := if x.toNat / 2 ^ 60 % 8 = 2 then Tier.vat else .pkg
       let base := x.toNat % 2 ^ 40 * 512 + off
       let wk := cellKey wt base
       let met := s.exchangeFrom (portDie pt) wk
       let summed := met.storeBytes wk (leBytes 8 ((leAt s.mem wk 8 + v.toNat) % 2 ^ 64))
       (base + len ≤ tierSize wt → admits x y len 31 → exec (.peerRequest owner window ⟨pt, .read off len⟩) s =
         .next (answer (some (memRead s.mem wk len)) met)) ∧
       (base + bytes.length ≤ tierSize wt → admits x y bytes.length 30 →
         exec (.peerRequest owner window ⟨pt, .write off bytes⟩) s = .next (met.storeBytes wk bytes)) ∧
       (base + 8 ≤ tierSize wt → base % 8 = 0 → admits x y 8 29 →
         exec (.peerRequest owner window ⟨pt, .atomic off .add v 0 false⟩) s = .next summed ∧
         ∃ u : State, exec (.peerRequest owner window ⟨pt, .atomic off .add v 0 true⟩) s = .next u ∧ u.mem = summed.mem ∧
           u.host.peerEpoch = s.host.peerEpoch + 1)) ∧
     (let counted := fun (p : BitVec 16 → Prop) [DecidablePred p] => { s with
         owners := s.owners.map (fun o => if p o.id then { o with revoked := o.revoked + 1 } else o) }
      let refused := fun (y : Word) (p : PeerOp) => exec (.peerRequest owner window ⟨pt, p⟩) s =
        .next (counted (fun o => o = owner ∨ o = BitVec.ofNat 16 (y.toNat / 2 ^ 48)))
      (∀ x y : Word, s.fabric.windows.find? (fun w => w.1 == window && w.2.1.getLsbD 63) = some (window, x, y) →
        let n := if op = .fadd then 4 else 8
        (¬ admits x y len 31 → refused y (.read off len)) ∧ (¬ admits x y bytes.length 30 → refused y (.write off bytes)) ∧
        (¬ admits x y n 29 → refused y (.atomic off op v cmp rel) ∧ refused y (.member off op v cmp id bkey))) ∧
      (s.fabric.windows.find? (fun w => w.1 == window && w.2.1.getLsbD 63) = none →
       (s.fabric.windows.find? (·.1 == window) = none →
         exec (.peerRequest owner window ⟨pt, .read off len⟩) s = .next (counted (· = owner))) ∧
       (∀ x y : Word, s.fabric.windows.find? (·.1 == window) = some (window, x, y) →
         refused y (.read off len)))))

/-! ## The fabric and the engines -/

/-- R387 to R390, R392, R393, R205, R230, R334: the ports. On a link that is up, a flit whose CRC fails is not accepted and a
replay is asked for; until the flit after the last good LSEQ arrives, no other is taken. A good one that is taken raises the
floors that the port's die knows by those that it carries (R338; log 49). One of KIND 0 or 1 joins the group of its owner, and
one of a reserved KIND is counted in LINKERR; those of KIND 2, 3 and 5 have no effect of their own here (log 32). A tag that
does not agree with the owner's key over a group of at most 16 flits drops the group, with the owner's transfers that have a
flit in it, and is counted in TAGERR. A link goes down after the first failure and eight failed replays, and training brings
it up with what the peer advertises. The CRC's conventions and the link id in the nonce are log 32 (PRESUMED and DESIGN
CHOICE), the tag's function log 9. A transfer that was dropped with its flits posts CORRUPT (3), and one to a revoked window
REVOKED (6), also that of a TREDST on its way to its die. -/
def Obligations.FabricEvents : Prop :=
  ∀ (n : Nat) (h : n < 48) (f : Flit) (press sym ksel : Bool) (o : BitVec 16) (tag : BitVec 128) (lost : List Nat) (g : Nat) (fl : Word)
    (s : State),
    let p := s.fabric.ports[n]
    let port := fun (q : Port) => { s with fabric := { s.fabric with ports := s.fabric.ports.set n q } }
    let good := crc32 (leBytes 4 (f.owner.toNat * 2 ^ 16 + f.kind.toNat * 2 ^ 12 + (if f.vc then 2 ^ 11 else 0) +
      (if f.ksel then 2 ^ 10 else 0) + f.lseq.toNat) ++ f.payload) = f.crc ∧ f.payload.length = 56
    let takes := p.replays < 9 ∧ (p.asked = false ∨ f.lseq = p.lseq + 1)
    let taken := { p with lseq := f.lseq, replays := 0, asked := false }
    let cutIn := fun (q r : List Cmd) => r = q.map (fun c => if c.id ∈ lost then { c with cut := true } else c)
    let cuts := fun (t : State) => cutIn s.job.ceQ t.job.ceQ ∧ cutIn s.job.mxQ t.job.mxQ ∧ cutIn s.job.vqQ t.job.vqQ
    (p.up = false → exec (.flitReceived n ⟨f, lost, []⟩) s = .next s) ∧
    (p.up = true → ¬ good →
      exec (.flitReceived n ⟨f, lost, []⟩) s = .next (port { p with replays := p.replays + 1, asked := true })) ∧
    (p.up = true → good →
      (¬ takes → exec (.flitReceived n ⟨f, lost, []⟩) s = .next s) ∧
      (takes → 6 ≤ f.kind.toNat → exec (.flitReceived n ⟨f, lost, []⟩) s = .next (port { taken with linkErr := p.linkErr + 1 })) ∧
      (takes → f.kind.toNat ≤ 1 → p.groups = [] →
        exec (.flitReceived n ⟨f, lost, []⟩) s = .next (port { taken with groups := [⟨f.owner, [f]⟩] })) ∧
      (takes → f.kind.toNat ∈ [2, 3, 5] → exec (.flitReceived n ⟨f, lost, []⟩) s = .next (port taken)) ∧
      (takes → f.kind.toNat < 6 → let die := portDie n
        let d := s.dies[die]
        ∃ t : State, exec (.flitReceived n ⟨f, lost, [(g, fl)]⟩) s = .next t ∧ t.mem = s.mem ∧
          (∀ i : Fin 4, t.dies[i].floorPkg = s.dies[i].floorPkg ∧ (i ≠ die → t.dies[i] = s.dies[i])) ∧ (d.out = true → t.dies[die] = d) ∧
          (d.out = false → (d.grantFloor g).toNat ≤ (t.dies[die].grantFloor g).toNat ∧
            (t.dies[die].grantFloor g).toNat ≤ max (d.grantFloor g).toNat fl.toNat ∧
            ((∀ x : Fin 4, s.dies[x].out = false → fl.toNat ≤ s.dies[x].earliest.toNat) →
              (t.dies[die].grantFloor g).toNat = max (d.grantFloor g).toNat fl.toNat)))) ∧
    (p.replays < 9 → exec (.linkDown ⟨n, lost⟩) s = .next s) ∧
    (9 ≤ p.replays → ∃ t : State, exec (.linkDown ⟨n, lost⟩) s = .next t ∧ cuts t ∧ t.mem = s.mem ∧
      t.fabric = (port { p with up := false, replays := 0, asked := false, groups := [] }).fabric) ∧
    exec (.linkTraining n press sym) s = .next (port { p with
      up := true, lseq := 0, replays := 0, asked := false, pressCap := press, symCap := sym, groups := [] }) ∧
    (p.up = true → ∀ x : Owner, s.owners = [x] → x.id = o → ∃ t : State, exec (.tagFlit n o ksel ⟨tag, lost⟩) s = .next t ∧
      (∀ g ∈ (t.fabric.ports[n]).groups, g.owner ≠ o) ∧ t.mem = s.mem ∧
      (let fails := t.owners = [{ x with tagErr := x.tagErr + 1 }] ∧ (s.job.owner = o → cuts t) ∧ (s.job.owner ≠ o → t.job = s.job)
       ((if ksel then x.key1 else x.key0) = none → fails) ∧
       (∀ key, (if ksel then x.key1 else x.key0) = some key → ∀ g : FlitGroup, p.groups = [g] → g.owner = o → p.nonces = [] →
         if g.flits.length ≤ 16 ∧ tag = Config.gmac key (n * 2 ^ 64) (g.flits.flatMap Flit.bytes)
         then t.owners = [x] ∧ t.job = s.job else fails))) ∧
    (∀ (c : Cmd) (rest : List Cmd), s.hasJob → c.parked = false →
      let ends := fun (i : Instr) (e : Engine) (st : Nat) => ∃ t : State, exec i s = .next t ∧ s.job.tookPosting t.job e c st ∧
        (c.ver = none → (∀ g ∈ s.recs, ∀ x, g.batch = some x → x.2 ≠ c.id) → t.mem = s.mem)
      let counts := fun (i : Instr) => ∃ t : State, exec i s = .next t ∧
        ∀ x ∈ s.owners, x.id = s.job.owner → { x with revoked := x.revoked + 1 } ∈ t.owners
      (s.job.ceQ = c :: rest → (∀ w a b r cc uint, c.instr ≠ .tdedup w a b r cc uint) →
        (peerCmd s c = true → ends (.transferRevoked 0) .ce 6 ∧ counts (.transferRevoked 0) ∧
          (c.cut = true → ends (.copyEngineCompletion 0) .ce 3)) ∧
        (peerCmd s c = false → exec (.transferRevoked 0) s = .next s)) ∧
      (s.job.ceQ = [] → s.job.mxQ = c :: rest → peerCmd s c = true →
        ends (.transferRevoked 0) .mx 6 ∧ counts (.transferRevoked 0)) ∧
      (s.job.ceQ = [] → s.job.mxQ = [] → s.job.vqQ = c :: rest → hasArrived s s.job.uid c = false → peerCmd s c = true →
        ends (.transferRevoked 0) .vq 6 ∧ counts (.transferRevoked 0)))

/-- R205 to R208, R220, R221, R224, R225, R230, R349, R222, R227 to R229, R345, R350, R351, R46: the completion of a Copy Engine
command. One behind an earlier command of its party does not complete; a TPREF posts OK and changes no tile; a TFILL makes an
unpooled stored tile the symbol of its KIND and operands; a TLD, TST or TCOPY between plain FP32 tiles gives the destination's
backing the elements of the source's; a TPROMO writes the values of a symbol into the tile's backing; a TLDAS waits while its
stamp is not past at the home that its request reaches, where it carries floors (R338); a command that ends with an error
status writes nothing. AON_WRITE_HOLD (R329): after it the home holds the writes of others to the AON tiles that a command
reads, those of row scales too, or a tile-mode VLD or an outside agent. A command that has not begun holds none: one behind an
earlier command of its party, a matrix command that is not the next, or a member whose turn in its batch has not come (log 73,
DEDUCED); and no hold of a command outlives its reads, also where it waits on. Completions between two tiles. A TALIAS gives
its tile the symbol of the source, or makes it a REPEAT of a stored one, whose REFCNT rises; a TDEDUP does so where the
elements are equal, and posts 1 and changes neither tile's content where they are not; a TGATH takes its rows by an index list
from a column of one tile, and an index beyond the column posts BADIDX (5); a TCOMMIT of a symbol holds a pending version,
stamped past the die's latest and the newest version; a PUBL of a version that no tile has staged still raises LASTPUB.
TSTASH, and TSCAT into a column of one tile. A TSTASH whose destination has another layout than ROWCOL, or another format or
shape than the source, posts SHAPE (4) and writes nothing; else both halves of the destination hold the source's elements, the
COL half in column order. A TSCAT writes row r of its source to the row that index r names, the highest r where indices
repeat, and leaves every other row; an index beyond the column posts BADIDX (5) and writes nothing. -/
def Obligations.EngineThreadResults : Prop :=
  (∀ (n : Nat) (c : Cmd) (s : State), s.memOk → s.hasJob → s.job.ceQ[n]? = some c → c.parked = false → c.cut = false →
    let first := ∀ d ∈ s.job.ceQ.take n, d.cc ≠ c.cc
    let posts := fun (st : Nat) (p : State → Prop) =>
      ∃ t : State, exec (.copyEngineCompletion n) s = .next t ∧ s.job.tookPosting t.job .ce c st ∧
        (∀ h ∈ t.aonHolds, h.2 ≠ c.id) ∧ p t
    let x := c.x.toNat
    let y := c.y.toNat
    let ctx := s.job.tctx
    let ia := Cap.tile c.capA (x / 2 ^ 48) (x / 2 ^ 32 % 2 ^ 16)
    let ib := Cap.tile c.capB (x / 2 ^ 16 % 2 ^ 16) (x % 2 ^ 16)
    let clear := fun (k : Nat) (t : Tte) => t.aon = false ∧ t.versioned = false ∧
      (∀ r : RecSlot, t.record r / 2 ^ 18 = 0x3FFF) ∧ ∀ g ∈ s.recs, g.entry ≠ k
    let plain := fun (t : Tte) => t.fmt = .fp32 ∧ t.layout = 0 ∧ t.press = false ∧ t.tier ≤ 4
    let apart := fun (a la b lb : Nat) => a + la ≤ b ∨ b + lb ≤ a
    (¬ first → exec (.copyEngineCompletion n) s = .next s) ∧
    (first → ∀ (w : Wheel) (a : Pair) (r : SReg) (cc : Cc) (uint : Bool), c.instr = .tpref w a r cc uint →
      posts 0 (fun t => t.mem = s.mem ∧ t.owners = s.owners ∧ t.recs = s.recs)) ∧
    (first → s.bad = [] → s.aonHolds = [] → ∀ (w : Wheel) (a : Pair) (r : SReg) (cc : Cc) (uint : Bool) (kind : FillKind) (k : Nat)
      (t : Tte), c.instr = .tfill w a r cc uint kind → openWrite s ctx c.capA ia = .ok (k, t) → t.kind = 0 → clear k t →
      t.pooled = false → (kind = .zero ∨ t.fmt ≠ .e2m1) →
      posts 0 (fun u => (u.tte k).fmtCode = t.fmtCode ∧ (u.tte k).owner = t.owner ∧ (u.tte k).loc = t.loc ∧
        (match kind with
          | .zero => (u.tte k).kind = 1 ∧ ∀ i j : Nat, i < t.rows → j < t.cols → elemAt (u.tte k).symbolVals.vals t.cols i j = 0
          | .const => (u.tte k).kind = 2 ∧ (u.tte k).syma = x % 2 ^ 32 % 2 ^ fmtWidth t.fmt
          | .ramp => (u.tte k).kind = 3 ∧ (u.tte k).syma = x % 2 ^ 32 ∧ (u.tte k).symb = y / 2 ^ 32 ∧ (u.tte k).symc = y % 2 ^ 32
          | .had => (u.tte k).kind = 4 ∧ (u.tte k).syma = x % 2 ^ 32) ∧
        ∀ z : Nat, z < k ∨ k + 64 ≤ z → memByte u.mem z = memByte s.mem z)) ∧
    (first → s.bad = [] → s.aonHolds = [] → ∀ (w : Wheel) (a b : Pair) (r : SReg) (cc : Cc) (uint : Bool) (ka kb sk dk : Nat)
      (ta tb : Tte), c.instr ∈ ([.tst w a b r cc uint, .tld w a b r cc uint, .tcopy w a b r cc uint] : List Instr) →
      openTile s ctx c.capA 0 ia = .ok (ka, ta) → openWrite s ctx c.capB ib = .ok (kb, tb) → ta.kind = 0 → tb.kind = 0 →
      clear ka ta → clear kb tb → plain ta → plain tb → tb.detect = false →
      ta.rows = tb.rows → ta.cols = tb.cols → backKey s ctx 0 ia ta = .ok sk → backKey s ctx 1 ib tb = .ok dk →
      apart ka 64 kb 64 → apart ka 64 sk ta.backLen → apart kb 64 sk ta.backLen → apart ka 64 dk tb.backLen → apart kb 64 dk tb.backLen →
      posts 0 (fun u => (∀ i < 4 * (tb.rows * tb.cols), memByte u.mem (dk + i) = memByte s.mem (sk + i)) ∧
        ∀ z : Nat, (z < ka ∨ ka + 64 ≤ z) → (z < kb ∨ kb + 64 ≤ z) → (z < dk ∨ dk + tb.backLen ≤ z) →
          memByte u.mem z = memByte s.mem z)) ∧
    (first → s.bad = [] → s.aonHolds = [] → ∀ (w : Wheel) (a : Pair) (r : SReg) (cc : Cc) (uint : Bool) (k dk : Nat) (t : Tte),
      c.instr = .tpromo w a r cc uint → openTile s ctx c.capA 0 ia = .ok (k, t) →
      (t.kind = 0 → posts 0 (fun u => u.mem = s.mem ∧ u.recs = s.recs)) ∧
      (1 ≤ t.kind → t.kind ≤ 4 → clear k t → t.pooled = false → plain t → backKey s ctx 1 ia t = .ok dk → apart k 64 dk t.backLen →
        posts 0 (fun u => (u.tte k).kind = 0 ∧ (u.tte k).refcnt = 1 ∧ (u.tte k).loc = t.loc ∧
          (∀ i j : Nat, i < t.rows → j < t.cols →
            leAt u.mem (dk + 4 * (i * t.cols + j)) 4 = elemAt t.symbolVals.vals t.cols i j % 2 ^ 32) ∧
          ∀ z : Nat, (z < k ∨ k + 64 ≤ z) → (z < dk ∨ dk + t.backLen ≤ z) → memByte u.mem z = memByte s.mem z))) ∧
    (first → ∀ (w : Wheel) (a b : Pair) (r : SReg) (cc : Cc) (uint : Bool) (sc : Scope) (k kb : Nat) (t tb : Tte),
      c.instr = .tldas w a b r cc uint sc → openTile s ctx c.capA 0 ia = .ok (k, t) → openWrite s ctx c.capB ib = .ok (kb, tb) →
      t.versioned = true → sameShape t tb = true →
      ¬ c.y < (s.exchange s.myDie (homeDie k t)).knownFloor (homeDie k t) (domainOf s sc (homeDie k t)) →
      exec (.copyEngineCompletion n) s = .next { s with aonHolds := s.aonHolds.filter (fun h => h.2 != c.id) }) ∧
    (first → ∀ st : Nat, 3 ≤ st → st ≤ 8 → runCopy c (s.endHolds c.id) = .error (.post st) → c.ver = none →
      posts st (fun t => t.mem = s.mem ∧ t.recs = s.recs)) ∧
    (first → c.id < 2 ^ 80 → ∀ (w : Wheel) (a b : Pair) (r : SReg) (cc : Cc) (uint : Bool) (k : Nat), c.instr = .tld w a b r cc uint →
      entryKey ctx 0 ia = .ok k → (s.tte k).aon = true →
      ∃ t : State, exec (.aonWriteHold n) s = .next t ∧ { t with aonHolds := s.aonHolds } = s ∧ (k, c.id) ∈ t.aonHolds ∧
        (∀ h ∈ s.aonHolds, h ∈ t.aonHolds) ∧
        ∀ who : Who, who.cmd ≠ c.id → writeTile who k t = .error (.stall .engineQueue)) ∧
    (let len := s.job.ceQ.length + s.job.mxQ.length + s.job.vqQ.length
     let holds := fun (i k by_ : Nat) => ∃ t : State, exec (.aonWriteHold i) s = .next t ∧ { t with aonHolds := s.aonHolds } = s ∧
       (k, by_) ∈ t.aonHolds ∧ ∀ who : Who, who.cmd ≠ by_ → writeTile who k t = .error (.stall .engineQueue)
     let member := fun (d : Cmd) => ∃ (die : Fin 4) (g : Batch) (m : Req), g ∈ s.dies[die].batches ∧ g.applying = true ∧
       g.members.head? = some m ∧ m.uid = s.job.uid ∧ m.cmd.id = d.id
     let reads := fun (i : Nat) (d : Cmd) => (s.job.ceQ ++ s.job.mxQ ++ s.job.vqQ)[i]? = some d ∧ d.parked = false ∧
       (if i < s.job.ceQ.length then ∀ e ∈ s.job.ceQ.take i, e.cc ≠ d.cc
         else if i < s.job.ceQ.length + s.job.mxQ.length then i = s.job.ceQ.length else member d)
     (∀ (i : Nat) (d : Cmd) (idx k : Nat), reads i d → d.id < 2 ^ 80 → idx ∈ s.readTiles d →
       entryKey ctx 0 idx = .ok k → (s.tte k).aon = true → holds i k d.id) ∧
     (∀ i < len, (∀ d : Cmd, ¬ reads i d) → exec (.aonWriteHold i) s = .next s) ∧
     ((∀ j ∈ s.others, j.uid ≠ s.job.uid) → ∀ k ∈ s.aonKeys s.vldTile, holds len k (2 ^ 80 + s.job.uid)) ∧
     (∀ k m : Nat, m < 3 → (s.tte k).aon = true → holds (len + 1 + (3 * k + m)) k (2 ^ 79 + m)))) ∧
  (∀ (n : Nat) (c : Cmd) (w : Wheel) (a b : Pair) (r : SReg) (cc : Cc) (uint : Bool) (ka kb sk dk : Nat) (ta tb : Tte) (s : State),
    s.memOk → s.hasJob → s.job.ceQ[n]? = some c → c.parked = false → c.cut = false → c.ver = none → s.bad = [] →
    s.aonHolds = [] → (∀ d ∈ s.job.ceQ.take n, d.cc ≠ c.cc) →
    let posts := fun (st : Nat) (p : State → Prop) =>
      ∃ t : State, exec (.copyEngineCompletion n) s = .next t ∧ s.job.tookPosting t.job .ce c st ∧ p t
    let x := c.x.toNat
    let ctx := s.job.tctx
    let ia := Cap.tile c.capA (x / 2 ^ 48) (x / 2 ^ 32 % 2 ^ 16)
    let ib := Cap.tile c.capB (x / 2 ^ 16 % 2 ^ 16) (x % 2 ^ 16)
    let clear := fun (k : Nat) (t : Tte) => t.aon = false ∧ t.versioned = false ∧
      (∀ r : RecSlot, t.record r / 2 ^ 18 = 0x3FFF) ∧ ∀ g ∈ s.recs, g.entry ≠ k
    let plain := fun (t : Tte) => t.kind = 0 ∧ t.fmt = .fp32 ∧ t.layout = 0 ∧ t.press = false ∧ t.tier ≤ 4
    let apart := fun (a la b lb : Nat) => a + la ≤ b ∨ b + lb ≤ a
    let repeats := fun (u : State) => (u.tte ka).kind = 5 ∧ (u.tte ka).syma = ib % 2 ^ 32 ∧ (u.tte kb).refcnt = tb.refcnt + 1 ∧
      (u.tte kb).kind = 0 ∧ (u.tte kb).loc = tb.loc ∧ ∀ z : Nat, (z < ka ∨ ka + 64 ≤ z) → (z < kb ∨ kb + 64 ≤ z) →
        memByte u.mem z = memByte s.mem z
    (openWrite s ctx c.capA ia = .ok (ka, ta) → openTile s ctx c.capB 0 ib = .ok (kb, tb) → clear ka ta → clear kb tb → apart ka 64 kb 64 →
      ta.kind = 0 → ta.pooled = false → isLtt ia = isLtt ib → sameShape ta tb = true → ta.layout = tb.layout →
      (c.instr = .talias w a b r cc uint →
        (1 ≤ tb.kind → tb.kind ≤ 4 → posts 0 (fun u => (u.tte ka).kind = tb.kind ∧ (u.tte ka).syma = tb.syma ∧
          (u.tte ka).symb = tb.symb ∧ (u.tte ka).symc = tb.symc ∧ (u.tte kb).kind = tb.kind)) ∧
        (tb.kind = 0 → tb.refcnt < 65535 → posts 0 repeats)) ∧
      (c.instr = .tdedup w a b r cc uint → plain ta → plain tb → tb.refcnt < 65535 → backKey s ctx 0 ia ta = .ok dk →
        backKey s ctx 0 ib tb = .ok sk → apart ka 64 sk tb.backLen → apart kb 64 sk tb.backLen → apart ka 64 dk ta.backLen →
        apart kb 64 dk ta.backLen →
        if ∀ i < 4 * (ta.rows * ta.cols), memByte s.mem (dk + i) = memByte s.mem (sk + i) then posts 0 repeats
        else posts 1 (fun u => (u.tte ka).kind = 0 ∧ (u.tte kb).kind = 0 ∧
          ((∀ c ∈ s.entries, c.key = ka ∨ c.key = kb → c.tte = s.tableTte c.key) → ∀ z : Nat, (z < ka + 48 ∨ ka + 64 ≤ z) →
            (z < kb + 48 ∨ kb + 64 ≤ z) → memByte u.mem z = memByte s.mem z) ∧
          ∀ z : Nat, (z < ka ∨ ka + 64 ≤ z) → (z < kb ∨ kb + 64 ≤ z) → memByte u.mem z = memByte s.mem z))) ∧
    (let ga := Cap.tile c.capA 0 0
     let gb := Cap.tile c.capB 0 0
     c.instr = .tgath w a b r cc uint → Cap.rowt c.capA = 1 → openTile s ctx c.capA 0 ga = .ok (ka, ta) →
      openWrite s ctx c.capB gb = .ok (kb, tb) → clear ka ta → clear kb tb → plain ta → plain tb → ta.cols = tb.cols →
      backKey s ctx 0 ga ta = .ok sk → backKey s ctx 1 gb tb = .ok dk → apart ka 64 kb 64 → apart ka 64 sk ta.backLen →
      apart kb 64 sk ta.backLen → apart ka 64 dk tb.backLen → apart kb 64 dk tb.backLen →
      ∀ (idx : List Nat) (s' : State), indexList c tb.rows s = .ok (idx, s') → idx.length = tb.rows →
        ((∀ i ∈ idx, i < ta.rows) → posts 0 (fun u => ∀ q < tb.rows, ∀ i < 4 * tb.cols,
          memByte u.mem (dk + 4 * tb.cols * q + i) = memByte s.mem (sk + 4 * tb.cols * idx.getD q 0 + i))) ∧
        ((∃ i ∈ idx, ta.rows ≤ i) → posts 5 (fun u => u.mem = s.mem))) ∧
    (∀ sc : Scope, c.instr = .tcommit w a b r cc uint sc → c.y.getLsbD 0 = false →
      openTile s ctx c.capA 0 ia = .ok (ka, ta) → clear ka ta → 1 ≤ ta.kind → ta.kind ≤ 4 →
      openTile s ctx c.capB 1 ib = .ok (kb, tb) → tb.kind = 0 → tb.refcnt = 1 → commitOk s ctx tb = true → sameShape ta tb = true →
      apart ka 64 kb 64 → (s.tileVers.filter (·.entry == kb)).length < 2 →
      (∀ d ∈ s.job.ceQ, d.id = c.id → d = c) →
      posts 0 (fun u => ∃ v : TileVer, u.tileVers = s.tileVers ++ [v] ∧ v.entry = kb ∧ v.index = ib ∧ v.state = .pending ∧
        v.tte.kind = ta.kind ∧ v.tte.syma = ta.syma ∧ v.tte.symb = ta.symb ∧ v.tte.symc = ta.symc ∧ v.recBlock = none ∧
        v.pver = BitVec.ofNat 16 (c.y.toNat / 2 ^ 48) ∧ (u.tte kb).kind = 0 ∧ (u.tte kb).stamp = tb.stamp ∧
        (max s.dies[homeDie kb tb].latest.toNat (s.newestStamp kb + 1) < 2 ^ 64 →
          v.stamp.toNat = max s.dies[homeDie kb tb].latest.toNat (s.newestStamp kb + 1)))) ∧
    (∀ v : SReg, c.instr = .publ w cc a v .pkg → s.job.vdom ≠ 0 → s.vdoms = [] → s.tileVers = [] → Cap.rowt c.capA = 1 →
      Cap.colt c.capA = 1 → openTile s ctx c.capA 0 (Cap.tile c.capA 0 0) = .ok (ka, ta) → ta.kind = 0 → ta.refcnt = 1 →
      commitOk s ctx ta = true →
      posts 0 (fun u => u.mem = s.mem ∧ u.tileVers = [] ∧
        u.vdoms = [⟨s.job.owner, s.job.vdom, BitVec.ofNat 16 c.x.toNat, s.dies[s.myDie].latest, .pkg⟩]))) ∧
  (∀ (n : Nat) (c : Cmd) (w : Wheel) (a b : Pair) (r : SReg) (cc : Cc) (uint : Bool) (ka kb sk dk : Nat) (ta tb : Tte) (s : State),
    s.memOk → s.hasJob → s.job.ceQ[n]? = some c → c.parked = false → c.cut = false → c.ver = none → s.bad = [] →
    s.aonHolds = [] → (∀ d ∈ s.job.ceQ.take n, d.cc ≠ c.cc) →
    let posts := fun (st : Nat) (p : State → Prop) =>
      ∃ t : State, exec (.copyEngineCompletion n) s = .next t ∧ s.job.tookPosting t.job .ce c st ∧ p t
    let x := c.x.toNat
    let ctx := s.job.tctx
    let opens := fun (ia ib : Nat) => openTile s ctx c.capA 0 ia = .ok (ka, ta) ∧ openWrite s ctx c.capB ib = .ok (kb, tb)
    let clear := fun (k : Nat) (t : Tte) => t.aon = false ∧ t.versioned = false ∧
      (∀ r : RecSlot, t.record r / 2 ^ 18 = 0x3FFF) ∧ ∀ g ∈ s.recs, g.entry ≠ k
    let plain := fun (t : Tte) (layout : Nat) => t.kind = 0 ∧ t.fmt = .fp32 ∧ t.layout = layout ∧ t.press = false ∧ t.tier ≤ 4
    let apart := fun (a la b lb : Nat) => a + la ≤ b ∨ b + lb ≤ a
    let placed := fun (ia ib : Nat) => clear ka ta ∧ clear kb tb ∧ backKey s ctx 0 ia ta = .ok sk ∧ backKey s ctx 1 ib tb = .ok dk ∧
      apart ka 64 kb 64 ∧ apart ka 64 sk ta.backLen ∧ apart kb 64 sk ta.backLen ∧ apart ka 64 dk tb.backLen ∧
      apart kb 64 dk tb.backLen ∧ apart sk ta.backLen dk tb.backLen
    let elsewhere := fun (u : State) => ∀ z : Nat, (z < ka ∨ ka + 64 ≤ z) → (z < kb ∨ kb + 64 ≤ z) → (z < dk ∨ dk + tb.backLen ≤ z) →
      memByte u.mem z = memByte s.mem z
    (let ia := Cap.tile c.capA (x / 2 ^ 48) (x / 2 ^ 32 % 2 ^ 16)
     let ib := Cap.tile c.capB (x / 2 ^ 16 % 2 ^ 16) (x % 2 ^ 16)
     c.instr = .tstash w a b r cc uint → opens ia ib →
      (tb.layout ≠ 3 ∨ ¬ (ta.fmtCode = tb.fmtCode ∧ ta.rows = tb.rows ∧ ta.cols = tb.cols) → posts 4 (fun u => u.mem = s.mem)) ∧
      (plain ta 0 → plain tb 3 → tb.detect = false → ta.rows = tb.rows → ta.cols = tb.cols → placed ia ib →
        posts 0 (fun u => elsewhere u ∧ ∀ i j : Nat, i < ta.rows → j < ta.cols →
          let e := leAt s.mem (sk + 4 * (i * ta.cols + j)) 4
          leAt u.mem (dk + 4 * (i * ta.cols + j)) 4 = e ∧ leAt u.mem (dk + tb.backLen / 2 + 4 * (j * ta.rows + i)) 4 = e))) ∧
    (let ia := Cap.tile c.capA 0 0
     let ib := Cap.tile c.capB 0 0
     let row := fun (m : List Host.Cell) (k q i : Nat) => memByte m (k + 4 * ta.cols * q + i)
     c.instr = .tscat w a b r cc uint → Cap.rowt c.capB = 1 → opens ia ib → plain ta 0 → plain tb 0 → ta.cols = tb.cols → placed ia ib →
      ∀ (idx : List Nat) (s' : State), indexList c ta.rows s = .ok (idx, s') → idx.length = ta.rows →
        ((∀ i ∈ idx, i < tb.rows) → posts 0 (fun u => elsewhere u ∧
          (∀ i < 4 * ta.cols, ∀ q < ta.rows, (∀ p < ta.rows, q < p → idx.getD p 0 ≠ idx.getD q 0) →
            row u.mem dk (idx.getD q 0) i = row s.mem sk q i) ∧
          (∀ i < 4 * ta.cols, ∀ q < tb.rows, q ∉ idx → row u.mem dk q i = row s.mem dk q i))) ∧
        ((∃ i ∈ idx, tb.rows ≤ i) → posts 5 (fun u => u.mem = s.mem))))

/-- R213, R214, R217, R215, R216, R223: the arrival of a command of the Vat operation queue at its die, while no batch is being
applied there (it carries floors, R338). An OBOPEN that names a fit region and a free id opens its batch, and else posts BATCH
(7); an ordered atomic joins the open batch that holds its word, posts BATCH outside the region or for another tier than VAT,
and is held where no batch has its id. An OBCLOSE of a batch that has no members lets both commands post OK and frees the id;
one that finds no batch and no held request, or names another tier, posts BATCH. The last member arrives at a batch of one
ordered atomic. The batch is applied: memory takes the atomic's value, s[d] of the issuing stream's bank the old one, s[d] is
no longer pending, both commands post OK and the id is free. One whose word meets an uncorrectable error posts CORRUPT (3) and
leaves memory and s[d] as they were. The application of a batch with several members, and of a TREDST. Atomics of one job on
one word are applied in ascending key order, each to what the one before it left, and each register takes the word that its
member found; members that share a key post DUPKEY (8) and have no effect; a member of a peer package that meets an
uncorrectable error counts in CORRUPT of its importer (R393); a TREDST between plain tiles adds the rounded source to the
destination, element by element, in FP32 and in I32. -/
def Obligations.OrderedBatchResults : Prop :=
  (∀ (c : Cmd) (rest : List Cmd) (s : State), s.hasJob → s.job.vqQ = c :: rest → c.parked = false → c.ver = none →
    (∀ d : Fin 4, s.dies[d].batches.all (fun b => !b.applying) = true) → hasArrived s s.job.uid c = false →
    (∀ g ∈ s.recs, ∀ y, g.batch = some y → y.2 ≠ c.id) →
    let die : Fin 4 := ⟨c.pa / 2 ^ 29 % 4, Nat.mod_lt _ (by decide)⟩
    let d := s.dies[die]
    let len := c.y.toNat % 2 ^ 32
    let count := c.y.toNat / 2 ^ 32
    let next := exec (.orderedRequestArrival 0) s
    let same := fun (t : State) (i : Fin 4) => t.dies[i].batches = s.dies[i].batches ∧ t.dies[i].held = s.dies[i].held
    let refused := ∃ t : State, next = .next t ∧ s.job.tookPosting t.job .vq c 7 ∧ t.mem = s.mem ∧ ∀ i : Fin 4, same t i
    (∀ (w : Wheel) (cc : Cc) (a b : SReg) (id : BitVec 16), c.instr = .obopen w cc a b id →
      let fit := c.tier = .vat ∧ c.pa % 64 = 0 ∧ len ≠ 0 ∧ len % 64 = 0 ∧ len ≤ c.room ∧ count ≠ 0 ∧ count ≤ 65536 ∧
        ∀ x ∈ d.batches, ¬ (x.owner = s.job.owner ∧ x.id = id)
      (¬ fit → refused) ∧
      (fit → (∀ x ∈ d.held, ¬ (x.owner = s.job.owner ∧ x.id = id)) →
        next = .next ((s.gossip s.myDie die).onDie die (fun d => { d with
          batches := d.batches ++ [⟨s.job.owner, id, c.pa, len, count, s.job.uid, c, [], false, [], []⟩] })))) ∧
    (∀ (w : Wheel) (cc : Cc) (a b : SReg), c.instr = .obclose w cc a b →
      let id := BitVec.ofNat 16 c.y.toNat
      (c.tier ≠ .vat → refused) ∧
      (c.tier = .vat → d.batches.find? (fun b => b.owner == s.job.owner && b.id == id) = none →
        (∀ x ∈ d.held, ¬ (x.owner = s.job.owner ∧ x.id = id)) → refused) ∧
      (∀ (o : Cmd) (b : Batch), c.tier = .vat → d.batches.find? (fun b => b.owner == s.job.owner && b.id == id) = some b →
        b.members = [] → b.closers = [] → b.openUid = s.job.uid → b.openCmd = o → o.cc ≠ c.cc →
        ∃ t : State, next = .next t ∧ t.mem = s.mem ∧ t.job.vqQ = rest.filter (fun x => x.id ≠ c.id ∧ x.id ≠ o.id) ∧
          (∀ x ∈ [c, o], t.job.cc[x.cc.toNat]'x.cc.isLt = postedWord (s.job.cc[x.cc.toNat]'x.cc.isLt) 0) ∧
          t.dies[die].batches = d.batches.filter (fun b => ¬ (b.owner = s.job.owner ∧ b.id = id)))) ∧
    (∀ (w : Wheel) (x a b : SReg), c.instr ∈ ([.amoadd w .ord x a b, .amoand w .ord x a b, .amoor w .ord x a b, .amoxor w .ord x a b,
        .amomin w .ord x a b, .amomax w .ord x a b, .amominn w .ord x a b, .amomaxn w .ord x a b, .amoxchg w .ord x a b,
        .amocas w .ord x a b, .amoincb w .ord x a b, .amofadd w .ord x a b] : List Instr) → c.cc = x →
      (c.tier ≠ .vat → refused) ∧
      (c.tier = .vat →
        let id := BitVec.ofNat 16 (c.y.toNat / 2 ^ 48)
        let r : Req := ⟨s.job.uid, s.job.owner, c, BitVec.ofNat 32 c.y.toNat, c.pa / 8 * 8, 8⟩
        let load := d.held.length + (d.batches.map (·.members.length)).sum
        (∀ b : Batch, d.batches.find? (fun b => b.owner == s.job.owner && b.id == id) = some b →
          let inside := b.base ≤ c.pa / 8 * 8 ∧ c.pa / 8 * 8 + 8 ≤ b.base + b.len
          (¬ inside → refused) ∧
          (inside → load < 65536 → b.members.length + 1 < b.count →
            ∃ t : State, next = .next t ∧ t.job = s.job ∧ t.mem = s.mem ∧ t.dies[die].held = d.held ∧
              { b with members := b.members ++ [r] } ∈ t.dies[die].batches)) ∧
        (d.batches.find? (fun b => b.owner == s.job.owner && b.id == id) = none → load < 65536 →
          ∃ t : State, next = .next t ∧ { t with dies := s.dies } = s ∧ t.dies[die].batches = d.batches ∧
            t.dies[die].held = d.held ++ [⟨s.job.owner, id, r⟩] ∧ ∀ i : Fin 4, i ≠ die → same t i)))) ∧
  (∀ (o c : Cmd) (w : Wheel) (x a b : SReg) (base len : Nat) (id : BitVec 16) (s : State), s.memOk → s.hasJob →
    s.job.vqQ = [o, c] → o.id ≠ c.id → c.parked = false → c.ver = none → c.cc = x → c.tier = .vat → c.cc ≠ o.cc →
    (∀ g ∈ s.recs, ∀ y, g.batch = some y → y.2 ≠ c.id) →
    let die : Fin 4 := ⟨c.pa / 2 ^ 29 % 4, Nat.mod_lt _ (by decide)⟩
    let key := cellKey .vat c.pa
    id = BitVec.ofNat 16 (c.y.toNat / 2 ^ 48) → base ≤ c.pa / 8 * 8 → c.pa / 8 * 8 + 8 ≤ base + len →
    (∀ i : Fin 4, s.dies[i].held = [] ∧ s.dies[i].batches =
      if i = die then [⟨s.job.owner, id, base, len, 1, s.job.uid, o, [], false, [], []⟩] else []) →
    let ends := fun (st : Nat) (p : State → Prop) => ∃ t : State, exec (.orderedRequestArrival 1) s = .next t ∧ t.job.vqQ = [] ∧
      (∀ y st', (y, st') ∈ [(c, st), (o, 0)] → t.job.cc[y.cc.toNat]'y.cc.isLt = postedWord (s.job.cc[y.cc.toNat]'y.cc.isLt) st') ∧
      (∀ i : Fin 4, t.dies[i].batches = [] ∧ t.dies[i].held = []) ∧
      (let z := t.job.stream c.stream
       x ≠ 0 → (if c.bank = true ∧ x.getLsbD 3 = true then z.shadowPend else z.pend).getLsbD x.toNat = false) ∧
      (∀ (y : StreamId) (r : SReg) (z : Bool), y ≠ c.stream ∨ r ≠ x →
        (t.job.stream y).regIn z r = (s.job.stream y).regIn z r) ∧ p t
    let v := c.x
    let gives := fun (i : Instr) (n : Nat) (f : Word → Option Word) => c.instr = i →
      let old := BitVec.ofNat 64 (leAt s.mem key n)
      (s.good key n = true → ends 0 (fun t => leAt t.mem key n = ((f old).getD old).toNat % 256 ^ n ∧
        (t.job.stream c.stream).regIn c.bank x = (if x = 0 then 0 else old) ∧
        ∀ z : Nat, z < key ∨ key + n ≤ z → memByte t.mem z = memByte s.mem z)) ∧
      (s.good key n = false → ends 3 (fun t => t.mem = s.mem ∧
        (t.job.stream c.stream).regIn c.bank x = (s.job.stream c.stream).regIn c.bank x))
    gives (.amoadd w .ord x a b) 8 (fun old => some (old + v)) ∧
    gives (.amoand w .ord x a b) 8 (fun old => some (old &&& v)) ∧
    gives (.amoor w .ord x a b) 8 (fun old => some (old ||| v)) ∧
    gives (.amoxor w .ord x a b) 8 (fun old => some (old ^^^ v)) ∧
    gives (.amomin w .ord x a b) 8 (fun old => some (if v.toInt < old.toInt then v else old)) ∧
    gives (.amomax w .ord x a b) 8 (fun old => some (if old.toInt < v.toInt then v else old)) ∧
    gives (.amominn w .ord x a b) 8 (fun old => some (if v.toNat < old.toNat then v else old)) ∧
    gives (.amomaxn w .ord x a b) 8 (fun old => some (if old.toNat < v.toNat then v else old)) ∧
    gives (.amoxchg w .ord x a b) 8 (fun _ => some v) ∧
    gives (.amocas w .ord x a b) 8 (fun old => if old = c.c then some v else none) ∧
    gives (.amoincb w .ord x a b) 8 (fun old => if old.toNat < v.toNat then some (old + 1) else none) ∧
    gives (.amofadd w .ord x a b) 4 (fun old => some (BitVec.ofNat 64
      (roundTo .fp32 rneCtx (addVal .rne (decodeVal .fp32 old.toNat) (decodeVal .fp32 (v.toNat % 2 ^ 32))).1).1))) ∧
  (∀ (d : Fin 4) (b : Batch) (s : State), s.memOk → s.hasJob → b.openUid = s.job.uid → b.closers = [] →
    (∀ r ∈ b.members, r.uid = s.job.uid ∧ r.cmd.ver = none) →
    let t := applyBatch d b s
    let ours := fun (y : Batch) => y.owner = b.owner ∧ y.id = b.id
    let noRec := fun (r : Req) => ∀ g ∈ s.recs, ∀ y, g.batch = some y → y.2 ≠ r.cmd.id
    let reg := fun (u : State) (r : Req) => (u.job.stream r.cmd.stream).regIn r.cmd.bank r.cmd.cc
    let amo := fun (r : Req) => (amoOf r.cmd.instr).isSome = true ∧ noRec r
    (∀ (pa : Nat) (seq : Nat → Word), b.members.Pairwise (fun x y => x.key.toNat < y.key.toNat) →
      b.members.Pairwise (fun x y => x.cmd.id ≠ y.cmd.id ∧ (x.cmd.stream ≠ y.cmd.stream ∨ x.cmd.cc ≠ y.cmd.cc)) →
      (∀ r ∈ b.members, amo r ∧ r.cmd.tier = .vat ∧ r.cmd.pa = pa) → s.good (cellKey .vat pa) 8 = true →
      seq 0 = BitVec.ofNat 64 (leAt s.mem (cellKey .vat pa) 8) →
      (∀ (i : Nat) (h : i < b.members.length), ∃ f : AmoFn, amoOf b.members[i].cmd.instr = some (8, f) ∧
        seq (i + 1) = (f (seq i) b.members[i].cmd.x b.members[i].cmd.c).getD (seq i)) →
      leAt t.mem (cellKey .vat pa) 8 = (seq b.members.length).toNat ∧
      (∀ z : Nat, z < cellKey .vat pa ∨ cellKey .vat pa + 8 ≤ z → memByte t.mem z = memByte s.mem z) ∧
      (∀ (i : Nat) (h : i < b.members.length), b.members[i].cmd.cc ≠ 0 → reg t b.members[i] = seq i) ∧
      ∀ y ∈ t.dies[d].batches, ¬ ours y) ∧
    (∀ p q : Req, b.members = [p, q] → p.key = q.key → p.cmd.id ≠ q.cmd.id → amo p → amo q →
      t.mem = s.mem ∧ t.job.errcnt = s.job.errcnt + 2 ∧ (∀ y ∈ t.dies[d].batches, ¬ ours y) ∧
      (∀ r ∈ [p, q], reg t r = reg s r ∧ ((∀ c ∈ [p, q, ⟨0, 0, b.openCmd, 0, 0, 0⟩], c.cmd.cc = r.cmd.cc → c = r) →
        t.job.cc[r.cmd.cc.toNat]'r.cmd.cc.isLt = postedWord (s.job.cc[r.cmd.cc.toNat]'r.cmd.cc.isLt) 8))) ∧
    (∀ r : Req, r.uid = 0 → r.cmd.ver = none →
      (endReq r 3 s).owners = s.owners.map (fun o => if o.id = r.owner then { o with corrupt := o.corrupt + 1 } else o)) ∧
    (∀ (r : Req) (w : Wheel) (pa pb : Pair) (x : SReg) (cc : Cc) (uint : Bool) (ka kb sk dk : Nat) (ta tb : Tte), b.members = [r] →
      r.cmd.instr = .tredst w pa pb x cc uint → s.bad = [] → s.aonHolds = [] → r.cmd.cc ≠ b.openCmd.cc →
      let c := r.cmd
      let ctx := s.job.tctx
      let n := c.x.toNat
      let ia := Cap.tile c.capA (n / 2 ^ 48) (n / 2 ^ 32 % 2 ^ 16)
      let ib := Cap.tile c.capB (n / 2 ^ 16 % 2 ^ 16) (n % 2 ^ 16)
      let plain := fun (t : Tte) => t.kind = 0 ∧ (t.fmt = .fp32 ∨ t.fmt = .i32) ∧ t.layout = 0 ∧ t.press = false ∧ t.tier ≤ 4
      let apart := fun (a la b lb : Nat) => a + la ≤ b ∨ b + lb ≤ a
      openTile s ctx c.capA 0 ia = .ok (ka, ta) → openWrite s ctx c.capB ib = .ok (kb, tb) → plain ta → plain tb → ta.fmt = tb.fmt →
      ta.aon = false → ta.versioned = false → tb.aon = false → (∀ z : RecSlot, ta.record z / 2 ^ 18 = 0x3FFF) →
      (∀ g ∈ s.recs, g.entry ≠ ka) → (∀ g ∈ s.recs, ∀ y, g.batch = some y → y.2 = c.id → g.entry = kb) →
      tb.tier = 2 → tb.pooled = false → ta.rows = tb.rows → ta.cols = tb.cols → backKey s ctx 0 ia ta = .ok sk →
      backKey s ctx 1 ib tb = .ok dk → apart ka 64 kb 64 → apart ka 64 sk ta.backLen → apart kb 64 sk ta.backLen →
      apart ka 64 dk tb.backLen → apart kb 64 dk tb.backLen →
      t.job.cc[c.cc.toNat]'c.cc.isLt = postedWord (s.job.cc[c.cc.toNat]'c.cc.isLt) 0 ∧ (∀ y ∈ t.dies[d].batches, ¬ ours y) ∧
      (∀ i < ta.rows, ∀ j < ta.cols, let at_ := 4 * (i * ta.cols + j)
        let old := leAt s.mem (dk + at_) 4
        let new := leAt s.mem (sk + at_) 4
        let val := decodeVal .fp32
        leAt t.mem (dk + at_) 4 = if tb.fmt = .i32 then (old + new) % 2 ^ 32
          else (roundTo .fp32 rneCtx (addVal .rne (val old) (val (roundTo .fp32 rneCtx (val new)).1)).1).1) ∧
      ∀ z : Nat, (z < ka ∨ ka + 64 ≤ z) → (z < kb ∨ kb + 64 ≤ z) → (z < dk ∨ dk + tb.backLen ≤ z) →
        memByte t.mem z = memByte s.mem z))

/-- R215, R214: the order in which requests arrive plays no part in what a batch does: with distinct keys, a batch whose members
stand in another order is applied with the same result, to the last bit of the machine. -/
def Obligations.BatchOrderPlaysNoPart : Prop :=
  ∀ (d : Fin 4) (b : Batch) (ms ns : List Req) (s : State), ms.Perm ns → ms.Pairwise (fun x y => x.key ≠ y.key) →
    applyBatch d { b with members := ms } s = applyBatch d { b with members := ns } s

/-! ## Encodings, reset and invariants -/

/-- R141, R142, R167 to R170, R171, R173, R180, R193, R209, R211, R213, R218, R245, R254, R256, R257, R261, R268, R277, R278,
R290, R314, R327, R340, R351: words written out from the encoding tables decode to the instructions that they stand for; the
word of the worked example with MAJOR 0x20 is refused. -/
def Obligations.DecodedWords : Prop :=
  let n : Wheel := ⟨false, false, false, false⟩
  let x : Wheel := ⟨true, false, false, true⟩
  (∀ p ∈ ([(0x908C7FFC, .addi x 3 1 0x3FFC), (0x980C77FC, .ldd x 3 1 0x7FC), (0x00510C00, .add n 4 4 3), (0x06108000, .spush n 4 2),
      (0x060D0010, .spop n 3 4), (0x07840006, .loop n 1 6), (0x07807FFC, .endl n 0x3FFC), (0x06940004, .bqz n 5 4),
      (0x05BFFFFC, .jmp n 0x3FFFFC), (0x07000000, .nop n), (0x07000011, .safe n 1), (0x07000334, .mark n 3 .pkg),
      (0x07000016, .bar n .cluster), (0x07144007, .waitc n 5 1), (0x074C0082, .csrr n 3 8), (0x07558000, .trap n 5 6),
      (0x074D0014, .fqack n 3 4 true), (0x074D0055, .sret n 3 4 5), (0x07518006, .launch n 4 6)] : List (IWord × Instr)),
    decodeWords p.1 0 = .ok p.2) ∧
  (∀ p ∈ ([(0x0814B003, .ldd n 5 2 3), (0x089893A0, .amoincb n .ord 6 2 4), (0x0A139200, .tld n 2 3 9 2 false),
      (0x0C800080, .mzero n .acc0 1 false), (0x0CE802A2, .mdrain n .acc2 4 5 false (some .sr) .tile false),
      (0x0D600300, .mmov n .acc2 .acc0 6 false false), (0x0E440089, .vclt n 2 0 1 0), (0x0EC02304, .kpop n 2 3 0),
      (0x0F081020, .vcomp n 4 1 2), (0x0F8A1300, .qrn n 5 1 3 0), (0x0F800021, .qcfg n 2), (0x0F808012, .qldt n 2 1)] :
      List (IWord × Instr)),
    decodeWords p.1 0 = .ok p.2) ∧
  decodeWords 0x0FCC5678 0x00401234 = .ok (.li64 n 3 0x48D05678) ∧ decodeWords 0x0FC48C00 0x00800007 = .ok (.obopen n 1 2 3 7) ∧
  decodeWords 0x980C7FFC 0 = .error .functionCode

/-- R143: a word of major 0x00 or of a reserved major is refused, and so is a two-word instruction whose second word has a Wheel
bit; and no bit of a word that decodes is without meaning: the instruction is well-formed, and its encoding is that word, to
the last bit. -/
def Obligations.RefusedWords : Prop :=
  ∀ w w2 : IWord,
    (w.toNat / 2 ^ 22 % 64 ∈ [0x00, 0x0C, 0x0D, 0x0E, 0x0F, 0x1F, 0x24, 0x25, 0x26, 0x27, 0x2D, 0x2E, 0x2F, 0x36, 0x37] →
      decodeWords w w2 = .error .majorOpcode) ∧
    (w.toNat / 2 ^ 22 % 64 = 0x3F → w2.toNat / 2 ^ 28 ≠ 0 → decodeWords w w2 = .error .secondWheel) ∧
    (∀ i : Instr, decodeWords w w2 = .ok i →
      i.wf = true ∧ encode i = some (w, if w.toNat / 2 ^ 22 % 64 = 0x3F then some w2 else none))

/-- R120, R141, R142: for every well-formed instruction, with every operand at every value that its fields admit, the bytes of its
encoding decode to it, whatever bytes follow them. -/
def Obligations.RoundTrip : Prop :=
  ∀ (i : Instr) (w : IWord) (w2 : Option IWord) (rest : List Byte), i.wf = true → encode i = some (w, w2) →
    decode (leBytes 4 w.toNat ++ (match w2 with | some x => leBytes 4 x.toNat | none => []) ++ rest) =
      .ok (i, if w2.isSome then 8 else 4)

/-- R109, R122, R204, R339, R344, R364, R365, R371, R375: the values that the spec's tables give for reset, on every core and die;
the parts that no table gives stand in the assumption log (5). Every invariant below holds at reset. -/
def Obligations.ResetValues : Prop :=
  let s := State.reset
  s.memOk ∧ s.launchesOk ∧ s.epsmax = 2000 ∧ s.vwater = 0 ∧ s.safemax = 1024 ∧ s.age = Vector.replicate 7 0 ∧ s.launches = [] ∧ s.parked = [] ∧
    s.entries = [] ∧ s.desc = Vector.replicate 4 0 ∧ s.quotes = 0 ∧
    (∀ d : Fin 4, s.dies[d].fqHead = 0 ∧ s.dies[d].fqTail = 0 ∧ s.dies[d].fqOvf = false ∧ s.dies[d].faults = 0) ∧
    (∀ core < 192, let j := (s.focus core).job
      j.core = core ∧ j.uid = 0 ∧ j.tokens = Vector.replicate 8 0 ∧ j.cc = Vector.replicate 16 0 ∧ j.errcnt = 0 ∧ j.errtrap = 0 ∧
      j.trapinfo = 0 ∧ j.et = .fp32 ∧ j.accv = 0 ∧ (∀ a : Fin 3, (j.acc[a]).status = 0x2000000000) ∧
      (∀ r : Fin 16, j.a.regs[r] = 0 ∧ j.m.regs[r] = 0 ∧ j.v.regs[r] = 0 ∧ j.e.regs[r] = 0))

/-- R1, R197 (log 4): every step keeps memory in its canonical form, from every state in which it has that form. -/
def Obligations.StepKeepsMemoryCanonical : Prop :=
  ∀ s t : State, s.memOk → step s = .next t → t.memOk

/-- R103, R106: every step keeps the launches apart: their numbers rise, and stand below the next one; none is ever removed, and
an ended launch stays ended with its status. -/
def Obligations.StepKeepsLaunches : Prop :=
  ∀ s t : State, s.launchesOk → step s = .next t → t.launchesOk ∧ s.nextLaunch ≤ t.nextLaunch ∧
    ∀ l ∈ s.launches, ∃ m ∈ t.launches, m.id = l.id ∧ m.words = l.words ∧ m.key = l.key ∧ (l.state = .ended → m.state = .ended ∧ m.status = l.status)

/-! ## Races -/

/-- R298, R309 to R313, R326, R330, R341, R403: the check of a tile access against the records that the device has placed, and
what it records. An access passes when each slot that it looks at is empty or ordered before it, by the same party, by an
acquired epoch or by a barrier (a MANY record by a barrier of its instance; nobody has acquired the posting of a TREDST that
has not posted), and else raises MM_RACE (0x0D); a write looks at all three slots and a read at W, an AON tile lets reads and
writes pass each other, and a VERSIONED tile is not checked. A TFILL that passes leaves its own record in W and empties A and
B; a read takes slot A, then B, then merges into B. A MANY record stands while one of its readers is live (log 15, DEDUCED). -/
def Obligations.RaceChecks : Prop :=
  ∀ (k : Nat) (p : Party) (write : Bool) (g : RecSlot → Option RecTag) (s : State), s.memOk →
    let t := s.tte k
    let bitsOf : List (Scope × Nat) := [(.cluster, 6), (.die, 3), (.pkg, 0)]
    let slots : List RecSlot := if write then (if t.aon then [.w] else [.w, .a, .b]) else (if t.aon then [] else [.w])
    let seen := ∀ r ∈ slots, match g r with
      | none => t.record r / 2 ^ 18 = 0x3FFF
      | some x => t.record r / 2 ^ 18 ≠ 0x3FFF ∧ s.placed k t r = some x
    let acquired := fun (x : RecTag) => x.batch = none ∧ ∃ a e : Nat, (s.tableOf p).find? (·.1 == x.party) = some (x.party, a) ∧ e ≤ a ∧
      e % 512 = x.bits.toNat / 2 ^ 9 % 512 ∧ e ≤ s.epochOf x.party ∧ s.epochOf x.party < e + 512
    let moved := fun (i : Job) (sb : Scope × Nat) (x : RecTag) => s.genAt i sb.1 % 8 ≠ x.bits.toNat / 2 ^ sb.2 % 8
    let barriered := fun (x : RecTag) => ∃ i j : Job, s.jobOf? p.uid = some i ∧ s.jobOf? x.party.uid = some j ∧
      i.launch = j.launch ∧ ∃ sb ∈ bitsOf, i.instNo sb.1 ≠ none ∧ i.instNo sb.1 = j.instNo sb.1 ∧ moved i sb x
    let manyPast := fun (x : RecTag) => ∃ i : Job, s.jobOf? p.uid = some i ∧ ∃ sb ∈ bitsOf, ∃ no : Nat,
      x.inst = some (sb.1, i.launch, no) ∧ i.instNo sb.1 = some no ∧ moved i sb x
    let ordered := fun (x : RecTag) => if x.many then manyPast x else x.party = p ∨ acquired x ∨ barriered x
    let passes := ∀ r ∈ slots, ∀ x, g r = some x → ordered x
    let fill := fun (n : Nat) (c : Cmd) => s.hasJob ∧ s.job.ceQ[n]? = some c ∧ c.parked = false ∧ c.cut = false ∧
      (∀ d ∈ s.job.ceQ.take n, d.cc ≠ c.cc) ∧ (∃ w a r cc uint, c.instr = .tfill w a r cc uint .zero) ∧
      openWrite s s.job.tctx c.capA (Cap.tile c.capA (c.x.toNat / 2 ^ 48) (c.x.toNat / 2 ^ 32 % 2 ^ 16)) = .ok (k, t) ∧
      s.aonHolds = [] ∧ p = ⟨s.job.uid, 1 + c.cc.toNat⟩ ∧ write = true
    (t.versioned = true → checkAccess k t p write none s = .ok s) ∧
    (t.versioned = false → seen → passes → checkAccess k t p write none s = .ok s) ∧
    (t.versioned = false → seen → ¬ passes → checkAccess k t p write none s = .error (mmRace (if write then 1 else 0))) ∧
    (∀ (n : Nat) (c : Cmd), fill n c → seen →
      (passes → t.kind = 0 → t.pooled = false → ∃ u : State, exec (.copyEngineCompletion n) s = .next u ∧ s.job.tookPosting u.job .ce c 0 ∧
        (u.tte k).record .w = s.job.core % 2 ^ 8 * 2 ^ 24 + (1 + c.cc.toNat) * 2 ^ 18 +
          (s.job.posts (1 + c.cc.toNat) + 1) % 2 ^ 9 * 2 ^ 9 + s.genAt s.job .cluster % 8 * 2 ^ 6 +
          s.genAt s.job .die % 8 * 2 ^ 3 + s.genAt s.job .pkg % 8 ∧
        (u.tte k).record .a = 2 ^ 32 - 1 ∧ (u.tte k).record .b = 2 ^ 32 - 1) ∧
      (¬ passes → exec (.copyEngineCompletion n) s = .next (takeThreadTrap s.job.uid .ce c ⟨0x0D, 1, 0, none⟩ s))) ∧
    (t.versioned = false →
      let u := recordAccess k p false none s
      let mine := s.recordOf p 0
      let own := fun (r : RecSlot) => ∃ x, s.placed k t r = some x ∧ x.many = false ∧ x.party = p
      (u.tte k).record .w = t.record .w ∧
      (own .a ∨ (s.placed k t .a = none ∧ ¬ own .b) → (u.tte k).record .a = mine ∧ (u.tte k).record .b = t.record .b) ∧
      (¬ own .a → own .b ∨ (s.placed k t .a ≠ none ∧ s.placed k t .b = none) →
        (u.tte k).record .a = t.record .a ∧ (u.tte k).record .b = mine) ∧
      (¬ own .a → ¬ own .b → s.placed k t .a ≠ none → s.placed k t .b ≠ none →
        (u.tte k).record .a = t.record .a ∧ (u.tte k).record .b / 2 ^ 18 % 2 ^ 6 = 0x3F))
end

