-- ==== Sys2Proof/Laws/Memory.lean ====
section
/-!
SUPPORT. Laws/Memory.lean: what reading and writing memory do: the canonical form is kept, a byte that is written reads
back, and every other byte reads as before (notes/assumptions 4).
-/
namespace Sys2Proof.Machine

/-- The canonical form as a property of the whole list. -/
theorem memory_wf_iff (m : List Host.Cell) :
    Memory.wf m = true ↔ m.Pairwise (fun c d => c.1 < d.1) ∧ ∀ c ∈ m, c.2 ≠ unlisted c.1 := by
  induction m with
  | nil => simp [Memory.wf]
  | cons c m ih =>
    cases m with
    | nil => simp [Memory.wf]
    | cons d m =>
      simp only [Memory.wf, Bool.and_eq_true, decide_eq_true_eq, bne_iff_ne, ih]
      constructor
      · rintro ⟨⟨h1, h2⟩, h3, h4⟩
        refine ⟨List.pairwise_cons.2 ⟨?_, h3⟩, ?_⟩
        · intro x hx
          rcases List.mem_cons.1 hx with rfl | hx
          · exact h2
          · exact Nat.lt_trans h2 ((List.pairwise_cons.1 h3).1 x hx)
        · intro x hx
          rcases List.mem_cons.1 hx with rfl | hx
          · exact h1
          · exact h4 x hx
      · rintro ⟨h1, h2⟩
        exact ⟨⟨h2 c (by simp), (List.pairwise_cons.1 h1).1 d (by simp)⟩, (List.pairwise_cons.1 h1).2,
          fun x hx => h2 x (by simp [hx])⟩

/-- The keys of listed bytes lie among the keys written, and none reads as unlisted. -/
theorem listed_bounds (bs : List Byte) (k : Nat) :
    ∀ c ∈ listed k bs, k ≤ c.1 ∧ c.1 < k + bs.length ∧ c.2 ≠ unlisted c.1 := by
  induction bs generalizing k with
  | nil => simp [listed]
  | cons b bs ih =>
    intro c hc
    simp only [listed] at hc
    split at hc
    · obtain ⟨h1, h2, h3⟩ := ih (k + 1) c hc
      simp only [List.length_cons]
      exact ⟨by omega, by omega, h3⟩
    · rcases List.mem_cons.1 hc with rfl | hc
      · simp only [List.length_cons]
        exact ⟨Nat.le_refl _, by omega, ‹_›⟩
      · obtain ⟨h1, h2, h3⟩ := ih (k + 1) c hc
        simp only [List.length_cons]
        exact ⟨by omega, by omega, h3⟩

/-- Listed bytes stand in rising order. -/
theorem listed_pairwise (bs : List Byte) (k : Nat) : (listed k bs).Pairwise (fun c d => c.1 < d.1) := by
  induction bs generalizing k with
  | nil => simp [listed]
  | cons b bs ih =>
    simp only [listed]
    split
    · exact ih (k + 1)
    · refine List.pairwise_cons.2 ⟨fun c hc => ?_, ih (k + 1)⟩
      have := listed_bounds bs (k + 1) c hc
      show k < c.1
      omega

/-- The cells from a key on are cells of the list at or above it. -/
theorem mem_cellsFrom (m : List Host.Cell) (k : Nat) (h : m.Pairwise (fun c d => c.1 < d.1)) :
    ∀ c ∈ cellsFrom k m, c ∈ m ∧ k ≤ c.1 := by
  induction m with
  | nil => simp [cellsFrom]
  | cons d m ih =>
    intro c hc
    simp only [cellsFrom] at hc
    split at hc
    · have := ih (List.pairwise_cons.1 h).2 c hc
      exact ⟨List.mem_cons_of_mem _ this.1, this.2⟩
    · refine ⟨hc, ?_⟩
      rcases List.mem_cons.1 hc with rfl | hc
      · omega
      · have := (List.pairwise_cons.1 h).1 c hc
        omega

/-- The cells from a key on are a tail of the list. -/
theorem cellsFrom_pairwise (m : List Host.Cell) (k : Nat) (h : m.Pairwise (fun c d => c.1 < d.1)) :
    (cellsFrom k m).Pairwise (fun c d => c.1 < d.1) := by
  induction m with
  | nil => simp [cellsFrom]
  | cons d m ih =>
    simp only [cellsFrom]
    split
    · exact ih (List.pairwise_cons.1 h).2
    · exact h

/-- The keys of memory after a write are keys of before or keys written. -/
theorem mem_memWrite (m : List Host.Cell) (k : Nat) (bs : List Byte) (h : m.Pairwise (fun c d => c.1 < d.1)) :
    ∀ c ∈ memWrite m k bs, c ∈ m ∨ c ∈ listed k bs := by
  induction m with
  | nil => intro c hc; exact Or.inr hc
  | cons d m ih =>
    intro c hc
    simp only [memWrite] at hc
    split at hc
    · rcases List.mem_cons.1 hc with rfl | hc
      · exact Or.inl (by simp)
      · rcases ih (List.pairwise_cons.1 h).2 c hc with h' | h'
        · exact Or.inl (List.mem_cons_of_mem _ h')
        · exact Or.inr h'
    · rcases List.mem_append.1 hc with hc | hc
      · exact Or.inr hc
      · exact Or.inl (mem_cellsFrom _ _ h c hc).1

/-- A write keeps the canonical form. -/
theorem memWrite_wf (m : List Host.Cell) (k : Nat) (bs : List Byte) (h : Memory.wf m = true) :
    Memory.wf (memWrite m k bs) = true := by
  rw [memory_wf_iff] at h ⊢
  obtain ⟨h1, h2⟩ := h
  constructor
  · clear h2
    induction m with
    | nil => exact listed_pairwise bs k
    | cons d m ih =>
      simp only [memWrite]
      split
      · rename_i hlt
        refine List.pairwise_cons.2 ⟨fun c hc => ?_, ih (List.pairwise_cons.1 h1).2⟩
        rcases mem_memWrite m k bs (List.pairwise_cons.1 h1).2 c hc with hc | hc
        · exact (List.pairwise_cons.1 h1).1 c hc
        · have := listed_bounds bs k c hc
          omega
      · refine List.pairwise_append.2 ⟨listed_pairwise bs k, cellsFrom_pairwise _ _ h1, fun c hc e he => ?_⟩
        have := listed_bounds bs k c hc
        have := (mem_cellsFrom _ _ h1 e he).2
        omega
  · intro c hc
    rcases mem_memWrite m k bs h1 c hc with hc | hc
    · exact h2 c hc
    · exact (listed_bounds bs k c hc).2.2

/-- Unlisting a range of keys keeps the canonical form. -/
theorem clearRange_wf (r : Nat × Nat) (m : List Host.Cell) (h : Memory.wf m = true) : Memory.wf (clearRange r m) = true := by
  rw [memory_wf_iff] at h ⊢
  exact ⟨h.1.filter _, fun c hc => h.2 c (List.mem_filter.1 hc).1⟩

/-- A byte that no cell lists reads as unlisted. -/
theorem memByte_absent (m : List Host.Cell) (a : Nat) (h : ∀ c ∈ m, c.1 ≠ a) : memByte m a = unlisted a := by
  induction m with
  | nil => rfl
  | cons c m ih =>
    have hc : c.1 ≠ a := h c (by simp)
    simp only [memByte, hc, if_false]
    split
    · exact ih (fun d hd => h d (by simp [hd]))
    · rfl

/-- A byte below every cell of a list. -/
theorem memByte_append_left (l m : List Host.Cell) (a : Nat) (hl : l.Pairwise (fun c d => c.1 < d.1))
    (h : ∀ c ∈ m, a < c.1) : memByte (l ++ m) a = memByte l a := by
  induction l with
  | nil => exact memByte_absent m a (fun c hc => by have := h c hc; omega)
  | cons c l ih =>
    simp only [List.cons_append, memByte]
    rw [ih (List.pairwise_cons.1 hl).2]

/-- A byte above every cell of a list. -/
theorem memByte_append_right (l m : List Host.Cell) (a : Nat) (h : ∀ c ∈ l, c.1 < a) : memByte (l ++ m) a = memByte m a := by
  induction l with
  | nil => rfl
  | cons c l ih =>
    simp only [List.cons_append, memByte, if_pos (h c (by simp))]
    exact ih (fun d hd => h d (by simp [hd]))

/-- A listed byte reads as what was listed, any other as unlisted. -/
theorem memByte_listed (bs : List Byte) (k a : Nat) :
    memByte (listed k bs) a = if k ≤ a ∧ a < k + bs.length then bs.getD (a - k) 0 else unlisted a := by
  induction bs generalizing k with
  | nil =>
    have : ¬ (k ≤ a ∧ a < k + ([] : List Byte).length) := by simp only [List.length_nil]; omega
    rw [if_neg this]
    rfl
  | cons b bs ih =>
    have key : memByte (listed k (b :: bs)) a = if a = k then b else memByte (listed (k + 1) bs) a := by
      simp only [listed]
      split
      · rename_i hb
        split
        · rename_i hk
          subst hk
          rw [memByte_absent _ _ (fun c hc => by have := listed_bounds bs (a + 1) c hc; omega), hb]
        · rfl
      · simp only [memByte]
        by_cases h1 : a = k
        · subst h1; simp
        · by_cases h2 : k < a
          · simp [h1, h2]
          · have h3 : ¬ k = a := fun e => h1 e.symm
            simp only [h1, h2, h3, if_false]
            rw [memByte_absent _ _ (fun c hc => by have := listed_bounds bs (k + 1) c hc; omega)]
    rw [key, ih]
    by_cases h1 : a = k
    · subst h1; simp
    · by_cases h2 : k + 1 ≤ a ∧ a < k + 1 + bs.length
      · have h3 : k ≤ a ∧ a < k + (b :: bs).length := by simp only [List.length_cons]; omega
        have h4 : a - k = (a - (k + 1)) + 1 := by omega
        rw [if_neg h1, if_pos h2, if_pos h3, h4, List.getD_cons_succ]
      · have h3 : ¬ (k ≤ a ∧ a < k + (b :: bs).length) := by simp only [List.length_cons]; omega
        rw [if_neg h1, if_neg h2, if_neg h3]

/-- The cells from a key on give the bytes at and above it. -/
theorem memByte_cellsFrom (m : List Host.Cell) (k a : Nat) (h : k ≤ a) : memByte (cellsFrom k m) a = memByte m a := by
  induction m with
  | nil => rfl
  | cons c m ih =>
    simp only [cellsFrom]
    split
    · rw [ih]
      have : c.1 < a := by omega
      simp [memByte, this]
    · rfl

/-- What a byte reads as after a write: the byte written inside the range, what it was before outside. -/
theorem memByte_memWrite (m : List Host.Cell) (k : Nat) (bs : List Byte) (a : Nat) (h : Memory.wf m = true) :
    memByte (memWrite m k bs) a = if k ≤ a ∧ a < k + bs.length then bs.getD (a - k) 0 else memByte m a := by
  replace h := ((memory_wf_iff m).1 h).1
  induction m with
  | nil => simpa [memWrite, memByte] using memByte_listed bs k a
  | cons c m ih =>
    have hp := List.pairwise_cons.1 h
    simp only [memWrite]
    split
    · rename_i hlt
      simp only [memByte]
      rw [ih hp.2]
      by_cases h1 : c.1 < a
      · simp [h1]
      · have h2 : ¬ (k ≤ a ∧ a < k + bs.length) := by omega
        simp [h1, h2]
    · rename_i hge
      by_cases h1 : a < k + bs.length
      · rw [memByte_append_left _ _ _ (listed_pairwise bs k)
            (fun d hd => by have := (mem_cellsFrom _ _ h d hd).2; omega), memByte_listed]
        by_cases h2 : k ≤ a
        · simp [h1, h2]
        · simp only [h2, false_and, if_false]
          have h3 : ¬ c.1 < a := by omega
          have h4 : ¬ c.1 = a := by omega
          simp [memByte, h3, h4]
      · rw [memByte_append_right _ _ _ (fun d hd => by have := listed_bounds bs k d hd; omega),
          memByte_cellsFrom _ _ _ (by omega)]
        simp [h1]

/-- Reading consecutive bytes of rising cells reads each of them. -/
theorem readFrom_eq (n : Nat) : ∀ (m : List Host.Cell) (k : Nat), m.Pairwise (fun c d => c.1 < d.1) → (∀ c ∈ m, k ≤ c.1) →
    readFrom m k n = (List.range n).map (fun i => memByte m (k + i)) := by
  induction n with
  | zero => intro m k _ _; cases m <;> rfl
  | succ n ih =>
    intro m k hm hk
    rw [List.range_succ_eq_map, List.map_cons, List.map_map]
    cases m with
    | nil =>
      simp only [readFrom, memByte]
      rw [ih [] (k + 1) List.Pairwise.nil (by simp)]
      simp [memByte, Function.comp_def, Nat.add_assoc, Nat.add_comm 1]
    | cons c m =>
      have hp := List.pairwise_cons.1 hm
      have hc := hk c (by simp)
      simp only [readFrom]
      split
      · rename_i he
        rw [ih m (k + 1) hp.2 (fun d hd => by have := hp.1 d hd; omega)]
        have h1 : ¬ c.1 < k := by omega
        simp only [Nat.add_zero, memByte, if_neg h1, if_pos he, List.cons.injEq, true_and]
        refine List.map_congr_left fun i _ => ?_
        have h2 : c.1 < k + (i + 1) := by omega
        simp only [Function.comp_apply, Nat.succ_eq_add_one, if_pos h2]
        congr 1
        omega
      · rename_i he
        rw [ih (c :: m) (k + 1) hm (fun d hd => by
          rcases List.mem_cons.1 hd with rfl | hd
          · omega
          · have := hp.1 d hd; omega)]
        have h1 : ¬ c.1 < k := by omega
        simp only [Nat.add_zero, List.cons.injEq]
        refine ⟨by simp [memByte, h1, he], List.map_congr_left fun i _ => ?_⟩
        simp only [Function.comp_apply, Nat.succ_eq_add_one]
        congr 1
        omega

/-- Reading n bytes reads each byte. -/
theorem memRead_eq (m : List Host.Cell) (k n : Nat) (h : Memory.wf m = true) :
    memRead m k n = (List.range n).map (fun i => memByte m (k + i)) := by
  have h := ((memory_wf_iff m).1 h).1
  rw [memRead, readFrom_eq n _ _ (cellsFrom_pairwise m k h) (fun c hc => (mem_cellsFrom m k h c hc).2)]
  exact List.map_congr_left fun i _ => memByte_cellsFrom m k (k + i) (by omega)

/-- The length of what is read. -/
theorem memRead_length (m : List Host.Cell) (k n : Nat) : (memRead m k n).length = n := by
  suffices ∀ (m : List Host.Cell) k, (readFrom m k n).length = n from this _ _
  induction n with
  | zero => intro m k; cases m <;> rfl
  | succ n ih =>
    intro m k
    cases m with
    | nil => simp [readFrom, ih]
    | cons c m =>
      simp only [readFrom]
      split <;> simp [ih]

/-- What was written reads back. -/
theorem memRead_memWrite (m : List Host.Cell) (k : Nat) (bs : List Byte) (h : Memory.wf m = true) :
    memRead (memWrite m k bs) k bs.length = bs := by
  rw [memRead_eq _ _ _ (memWrite_wf m k bs h)]
  refine List.ext_getElem (by simp) fun i h1 h2 => ?_
  simp only [List.getElem_map, List.getElem_range, memByte_memWrite _ _ _ _ h]
  rw [if_pos ⟨by omega, by omega⟩, Nat.add_sub_cancel_left]
  simp [List.getD, h2]

/-- A byte of an unlisted range reads as unlisted, any other as before. -/
theorem memByte_clearRange (r : Nat × Nat) (m : List Host.Cell) (a : Nat) (h : Memory.wf m = true) :
    memByte (clearRange r m) a = if r.1 ≤ a ∧ a < r.2 then unlisted a else memByte m a := by
  replace h := ((memory_wf_iff m).1 h).1
  induction m with
  | nil => simp [clearRange, memByte]
  | cons c m ih =>
    have hp := List.pairwise_cons.1 h
    have ih := ih hp.2
    have ha : ∀ d ∈ m, c.1 < d.1 := hp.1
    simp only [clearRange, List.filter_cons] at ih ⊢
    split
    · rename_i hc
      simp only [Bool.or_eq_true, decide_eq_true_eq] at hc
      simp only [memByte]
      rw [ih]
      by_cases h1 : r.1 ≤ a ∧ a < r.2
      · have h2 : ¬ c.1 = a := by omega
        simp [h1, h2]
      · simp [h1]
    · rename_i hc
      simp only [Bool.or_eq_true, decide_eq_true_eq] at hc
      rw [ih]
      by_cases h1 : r.1 ≤ a ∧ a < r.2
      · simp [h1]
      · simp only [h1, if_false, memByte]
        by_cases h2 : c.1 < a
        · simp [h2]
        · have h3 : ¬ c.1 = a := by omega
          simp only [h2, h3, if_false]
          exact memByte_absent m a (fun d hd => by have := ha d hd; omega)

/-! ## Little-endian numbers -/

/-- The bytes of a number are as many as asked for. -/
theorem leBytes_length (n x : Nat) : (leBytes n x).length = n := by
  induction n generalizing x with
  | zero => rfl
  | succ n ih => simp [leBytes, ih]

/-- A number read back from its bytes, modulo what they hold. -/
theorem leNat_leBytes (n x : Nat) : leNat (leBytes n x) = x % 256 ^ n := by
  induction n generalizing x with
  | zero => simp [leBytes, leNat, Nat.mod_one]
  | succ n ih =>
    simp only [leBytes, leNat, ih, BitVec.toNat_ofNat]
    rw [Nat.pow_add_one 256 n, Nat.mul_comm (256 ^ n) 256, Nat.mod_mul]

/-- A load gives what a store of the same size put at the same key. -/
theorem load_store (s : State) (k n v : Nat) (h : Memory.wf s.mem = true) : (s.store k n v).load k n = v % 256 ^ n := by
  have := memRead_memWrite s.mem k (leBytes n v) h
  rw [leBytes_length] at this
  simp only [State.load, State.store, State.storeBytes, this, leNat_leBytes]

/-- Exchanges keep a number below their bound. -/
theorem swapAll_lt (n : Nat) (ps : List (Nat × Nat)) (x : Nat) (h : x < n) : swapAll n ps x < n := by
  unfold swapAll
  induction ps generalizing x with
  | nil => exact h
  | cons p ps ih =>
    refine ih _ ?_
    dsimp only
    repeat' split
    all_goals omega

/-- Exchanges bring no two numbers together: each bank and channel holds as many words as another (R8). -/
theorem swapAll_injective (n : Nat) (ps : List (Nat × Nat)) (x y : Nat) (h : swapAll n ps x = swapAll n ps y) : x = y := by
  unfold swapAll at h
  induction ps generalizing x y with
  | nil => exact h
  | cons p ps ih =>
    have := ih _ _ h
    dsimp only at this
    repeat' split at this
    all_goals omega

/-- A word of a Vat lies in one of 256 banks (R8). -/
theorem vatBank_lt (d : Fin 4) (pa : Nat) : vatBank d pa < 256 :=
  Nat.div_lt_of_lt_mul (swapAll_lt _ _ _ (by omega))

/-- A granule of package memory lies in one of 64 channels (R8). -/
theorem pkgChannel_lt (g : Nat) (h : g < 2 ^ 31) : pkgChannel g < 64 := Nat.div_lt_of_lt_mul (swapAll_lt _ _ _ h)

/-- A byte outside a store reads as before. -/
theorem memByte_store (s : State) (k n v a : Nat) (h : Memory.wf s.mem = true) (ha : a < k ∨ k + n ≤ a) :
    memByte (s.store k n v).mem a = memByte s.mem a := by
  simp only [State.store, State.storeBytes, memByte_memWrite _ _ _ _ h, leBytes_length]
  have : ¬ (k ≤ a ∧ a < k + n) := by omega
  simp [this]

/-- A load whose bytes lie outside a store. -/
theorem load_store_other (s : State) (k n v k' n' : Nat) (h : Memory.wf s.mem = true) (ha : k' + n' ≤ k ∨ k + n ≤ k') :
    (s.store k n v).load k' n' = s.load k' n' := by
  have h' : Memory.wf (s.store k n v).mem = true := memWrite_wf _ _ _ h
  simp only [State.load]
  rw [memRead_eq _ _ _ h', memRead_eq _ _ _ h]
  congr 1
  refine List.map_congr_left fun i hi => memByte_store s k n v _ h ?_
  have := List.mem_range.1 hi
  omega

end Sys2Proof.Machine
end

