-- ==== Sys2Proof/Laws/Entries.lean ====
section
/-!
SUPPORT. Laws/Entries.lean: what reading and changing a tile entry does, with the copies that tile entry caches hold
(spec/03_tiles.md R50, R66).
-/
namespace Sys2Proof.Machine

/-- Where no copy of an entry is held, a core sees the table. -/
theorem State.tte_of_no_copy (s : State) (k : Nat) (h : ∀ c ∈ s.entries, c.key ≠ k) : s.tte k = s.tableTte k := by
  have h1 : s.entryCopy k = none := by
    rw [State.entryCopy, List.find?_eq_none.2 fun c hc => by simp [h c hc], List.find?_eq_none.2 fun c hc => by simp [h c hc]]
    rfl
  simp [State.tte, h1]

/-- A copy that a core reads is a copy of that entry. -/
theorem State.entryCopy_mem (s : State) (k : Nat) (c : TteCopy) (h : s.entryCopy k = some c) : c ∈ s.entries ∧ c.key = k := by
  rw [State.entryCopy] at h
  cases h1 : s.entries.find? (fun c => c.key == k && c.core == s.job.core) with
  | some d =>
    obtain rfl : d = c := by simpa [h1] using h
    have h2 := List.find?_some h1
    exact ⟨List.mem_of_find?_eq_some h1, (by simpa using h2 : d.key = k ∧ _).1⟩
  | none =>
    have h2 : s.entries.find? (fun c => c.key == k && c.late) = some c := by simpa [h1] using h
    exact ⟨List.mem_of_find?_eq_some h2, (by simpa using List.find?_some h2 : c.key = k ∧ _).1⟩

/-- A device change of an entry that no cache keeps back stands in the table. -/
theorem State.setTte_of_no_late (s : State) (k : Nat) (t : Tte) (h : ∀ c ∈ s.entries, c.key = k → c.late = false) :
    (s.setTte k t).mem = memWrite s.mem k (leBytes 64 t.toNat) := by
  have h1 : s.entries.any (fun c => c.key == k && c.late) = false := by
    simp only [List.any_eq_false, Bool.and_eq_true, beq_iff_eq, not_and, Bool.not_eq_true]
    exact fun c hc hk => h c hc hk
  simp only [State.setTte, h1]
  rfl

/-- A device change of an entry changes memory and the copies, and nothing else. -/
theorem State.setTte_eq (s : State) (k : Nat) (t : Tte) :
    s.setTte k t = { s with mem := (s.setTte k t).mem, entries := (s.setTte k t).entries } := by
  unfold State.setTte
  dsimp only
  split <;> rfl

/-- Memory keeps its canonical form. -/
theorem State.setTte_wf (s : State) (k : Nat) (t : Tte) (h : Memory.wf s.mem = true) : Memory.wf (s.setTte k t).mem = true := by
  unfold State.setTte
  dsimp only
  split
  · exact h
  · exact memWrite_wf _ _ _ h

/-- The table's content after a device change that reaches it. -/
theorem State.setTte_tableTte (s : State) (k : Nat) (t : Tte) (hm : Memory.wf s.mem = true)
    (h : ∀ c ∈ s.entries, c.key = k → c.late = false) : (s.setTte k t).tableTte k = t := by
  have h1 : s.entries.any (fun c => c.key == k && c.late) = false := by
    simp only [List.any_eq_false, Bool.and_eq_true, beq_iff_eq, not_and, Bool.not_eq_true]
    exact fun c hc hk => h c hc hk
  have h2 : (s.setTte k t).load k 64 = t.toNat % 256 ^ 64 := by
    unfold State.setTte
    simp only [h1, Bool.false_eq_true, if_false]
    exact load_store { s with entries := _ } k 64 t.toNat hm
  rw [State.tableTte, h2, Nat.mod_eq_of_lt (by have := t.isLt; omega)]
  simp

/-- Every core sees a device change of an entry (R50). -/
theorem State.setTte_tte (s : State) (k : Nat) (t : Tte) (j : Job) (hm : Memory.wf s.mem = true) :
    State.tte { s.setTte k t with job := j } k = t := by
  have he : (s.setTte k t).entries = s.entries.map (fun c => if c.key = k then { c with tte := t } else c) := by
    unfold State.setTte
    dsimp only
    split <;> rfl
  unfold State.tte
  cases hc : State.entryCopy { s.setTte k t with job := j } k with
  | some c =>
    obtain ⟨h1, h2⟩ := State.entryCopy_mem _ _ _ hc
    replace h1 : c ∈ (s.setTte k t).entries := h1
    rw [he, List.mem_map] at h1
    obtain ⟨d, -, rfl⟩ := h1
    split at h2 <;> simp_all
  | none =>
    refine State.setTte_tableTte s k t hm fun c hc' hk => ?_
    rw [Bool.eq_false_iff]
    intro hl
    have : (if c.key = k then { c with tte := t } else c) ∈ (s.setTte k t).entries := he ▸ List.mem_map_of_mem hc'
    rw [State.entryCopy] at hc
    rw [if_pos hk] at this
    have h2 : (∀ x ∈ (s.setTte k t).entries, x.key = k → ¬x.core = j.core) ∧
        ∀ x ∈ (s.setTte k t).entries, x.key = k → x.late = false := by simpa using hc
    exact absurd (h2.2 _ this hk) (by simp [hl])

end Sys2Proof.Machine
end

