-- ==== Sys2Proof/Laws/Exec.lean ====
section
/-!
SUPPORT. Laws/Exec.lean: the meaning that each arm of exec calls, so that no later proof unfolds the match.
-/
namespace Sys2Proof.Machine

@[simp] theorem exec_add (w : Wheel) (d a b : SReg) (s : State) :
    exec (.add w d a b) s = execAdd w d a b s := rfl
@[simp] theorem exec_sub (w : Wheel) (d a b : SReg) (s : State) :
    exec (.sub w d a b) s = execSub w d a b s := rfl
@[simp] theorem exec_mul (w : Wheel) (d a b : SReg) (s : State) :
    exec (.mul w d a b) s = execMul w d a b s := rfl
@[simp] theorem exec_mulh (w : Wheel) (d a b : SReg) (s : State) :
    exec (.mulh w d a b) s = execMulh w d a b s := rfl
@[simp] theorem exec_mulhn (w : Wheel) (d a b : SReg) (s : State) :
    exec (.mulhn w d a b) s = execMulhn w d a b s := rfl
@[simp] theorem exec_div (w : Wheel) (d a b : SReg) (s : State) :
    exec (.div w d a b) s = execDiv w d a b s := rfl
@[simp] theorem exec_divn (w : Wheel) (d a b : SReg) (s : State) :
    exec (.divn w d a b) s = execDivn w d a b s := rfl
@[simp] theorem exec_rem (w : Wheel) (d a b : SReg) (s : State) :
    exec (.rem w d a b) s = execRem w d a b s := rfl
@[simp] theorem exec_remn (w : Wheel) (d a b : SReg) (s : State) :
    exec (.remn w d a b) s = execRemn w d a b s := rfl
@[simp] theorem exec_and (w : Wheel) (d a b : SReg) (s : State) :
    exec (.and w d a b) s = execAnd w d a b s := rfl
@[simp] theorem exec_or (w : Wheel) (d a b : SReg) (s : State) :
    exec (.or w d a b) s = execOr w d a b s := rfl
@[simp] theorem exec_xor (w : Wheel) (d a b : SReg) (s : State) :
    exec (.xor w d a b) s = execXor w d a b s := rfl
@[simp] theorem exec_shl (w : Wheel) (d a b : SReg) (s : State) :
    exec (.shl w d a b) s = execShl w d a b s := rfl
@[simp] theorem exec_shr (w : Wheel) (d a b : SReg) (s : State) :
    exec (.shr w d a b) s = execShr w d a b s := rfl
@[simp] theorem exec_sra (w : Wheel) (d a b : SReg) (s : State) :
    exec (.sra w d a b) s = execSra w d a b s := rfl
@[simp] theorem exec_slt (w : Wheel) (d a b : SReg) (s : State) :
    exec (.slt w d a b) s = execSlt w d a b s := rfl
@[simp] theorem exec_sltn (w : Wheel) (d a b : SReg) (s : State) :
    exec (.sltn w d a b) s = execSltn w d a b s := rfl
@[simp] theorem exec_min (w : Wheel) (d a b : SReg) (s : State) :
    exec (.min w d a b) s = execMin w d a b s := rfl
@[simp] theorem exec_max (w : Wheel) (d a b : SReg) (s : State) :
    exec (.max w d a b) s = execMax w d a b s := rfl
@[simp] theorem exec_minn (w : Wheel) (d a b : SReg) (s : State) :
    exec (.minn w d a b) s = execMinn w d a b s := rfl
@[simp] theorem exec_maxn (w : Wheel) (d a b : SReg) (s : State) :
    exec (.maxn w d a b) s = execMaxn w d a b s := rfl
@[simp] theorem exec_clz (w : Wheel) (d a : SReg) (s : State) :
    exec (.clz w d a) s = execClz w d a s := rfl
@[simp] theorem exec_popc (w : Wheel) (d a : SReg) (s : State) :
    exec (.popc w d a) s = execPopc w d a s := rfl
@[simp] theorem exec_addi (w : Wheel) (d a : SReg) (imm : BitVec 14) (s : State) :
    exec (.addi w d a imm) s = execAddi w d a imm s := rfl
@[simp] theorem exec_andi (w : Wheel) (d a : SReg) (imm : BitVec 14) (s : State) :
    exec (.andi w d a imm) s = execAndi w d a imm s := rfl
@[simp] theorem exec_ori (w : Wheel) (d a : SReg) (imm : BitVec 14) (s : State) :
    exec (.ori w d a imm) s = execOri w d a imm s := rfl
@[simp] theorem exec_xori (w : Wheel) (d a : SReg) (imm : BitVec 14) (s : State) :
    exec (.xori w d a imm) s = execXori w d a imm s := rfl
@[simp] theorem exec_shli (w : Wheel) (d a : SReg) (imm : BitVec 6) (s : State) :
    exec (.shli w d a imm) s = execShli w d a imm s := rfl
@[simp] theorem exec_shri (w : Wheel) (d a : SReg) (imm : BitVec 6) (s : State) :
    exec (.shri w d a imm) s = execShri w d a imm s := rfl
@[simp] theorem exec_srai (w : Wheel) (d a : SReg) (imm : BitVec 6) (s : State) :
    exec (.srai w d a imm) s = execSrai w d a imm s := rfl
@[simp] theorem exec_slti (w : Wheel) (d a : SReg) (imm : BitVec 14) (s : State) :
    exec (.slti w d a imm) s = execSlti w d a imm s := rfl
@[simp] theorem exec_sltni (w : Wheel) (d a : SReg) (imm : BitVec 14) (s : State) :
    exec (.sltni w d a imm) s = execSltni w d a imm s := rfl
@[simp] theorem exec_lui (w : Wheel) (d : SReg) (imm : BitVec 18) (s : State) :
    exec (.lui w d imm) s = execLui w d imm s := rfl
@[simp] theorem exec_li64 (w : Wheel) (d : SReg) (imm : BitVec 40) (s : State) :
    exec (.li64 w d imm) s = execLi64 w d imm s := rfl
@[simp] theorem exec_beq (w : Wheel) (a b : SReg) (off : BitVec 14) (s : State) :
    exec (.beq w a b off) s = execBeq w a b off s := rfl
@[simp] theorem exec_bne (w : Wheel) (a b : SReg) (off : BitVec 14) (s : State) :
    exec (.bne w a b off) s = execBne w a b off s := rfl
@[simp] theorem exec_blt (w : Wheel) (a b : SReg) (off : BitVec 14) (s : State) :
    exec (.blt w a b off) s = execBlt w a b off s := rfl
@[simp] theorem exec_bge (w : Wheel) (a b : SReg) (off : BitVec 14) (s : State) :
    exec (.bge w a b off) s = execBge w a b off s := rfl
@[simp] theorem exec_bltn (w : Wheel) (a b : SReg) (off : BitVec 14) (s : State) :
    exec (.bltn w a b off) s = execBltn w a b off s := rfl
@[simp] theorem exec_bgen (w : Wheel) (a b : SReg) (off : BitVec 14) (s : State) :
    exec (.bgen w a b off) s = execBgen w a b off s := rfl
@[simp] theorem exec_jmp (w : Wheel) (off : BitVec 22) (s : State) :
    exec (.jmp w off) s = execJmp w off s := rfl
@[simp] theorem exec_jal (w : Wheel) (off : BitVec 22) (s : State) :
    exec (.jal w off) s = execJal w off s := rfl
@[simp] theorem exec_spush (w : Wheel) (q : QNum) (a : SReg) (s : State) :
    exec (.spush w q a) s = execSpush w q a s := rfl
@[simp] theorem exec_spop (w : Wheel) (d : SReg) (q : QNum) (s : State) :
    exec (.spop w d q) s = execSpop w d q s := rfl
@[simp] theorem exec_qcnt (w : Wheel) (d : SReg) (q : QNum) (s : State) :
    exec (.qcnt w d q) s = execQcnt w d q s := rfl
@[simp] theorem exec_sspill (w : Wheel) (r : SReg) (slot : BitVec 6) (s : State) :
    exec (.sspill w r slot) s = execSspill w r slot s := rfl
@[simp] theorem exec_sfill (w : Wheel) (d : SReg) (slot : BitVec 6) (s : State) :
    exec (.sfill w d slot) s = execSfill w d slot s := rfl
@[simp] theorem exec_bqz (w : Wheel) (q : QNum) (off : BitVec 14) (s : State) :
    exec (.bqz w q off) s = execBqz w q off s := rfl
@[simp] theorem exec_bqnz (w : Wheel) (q : QNum) (off : BitVec 14) (s : State) :
    exec (.bqnz w q off) s = execBqnz w q off s := rfl
@[simp] theorem exec_vpush (w : Wheel) (v : VReg) (q : QNum) (k : KReg) (s : State) :
    exec (.vpush w v q k) s = execVpush w v q k s := rfl
@[simp] theorem exec_vpop (w : Wheel) (v : VReg) (q : QNum) (k : KReg) (s : State) :
    exec (.vpop w v q k) s = execVpop w v q k s := rfl
@[simp] theorem exec_vspill (w : Wheel) (v : VReg) (slot : BitVec 5) (s : State) :
    exec (.vspill w v slot) s = execVspill w v slot s := rfl
@[simp] theorem exec_vfill (w : Wheel) (v : VReg) (slot : BitVec 5) (s : State) :
    exec (.vfill w v slot) s = execVfill w v slot s := rfl
@[simp] theorem exec_nop (w : Wheel) (s : State) :
    exec (.nop w) s = execNop w s := rfl
@[simp] theorem exec_safe (w : Wheel) (id : BitVec 10) (s : State) :
    exec (.safe w id) s = execSafe w id s := rfl
@[simp] theorem exec_halt (w : Wheel) (s : State) :
    exec (.halt w) s = execHalt w s := rfl
@[simp] theorem exec_rdv (w : Wheel) (s : State) :
    exec (.rdv w) s = execRdv w s := rfl
@[simp] theorem exec_mark (w : Wheel) (eng : BitVec 4) (scope : Scope) (s : State) :
    exec (.mark w eng scope) s = execMark w eng scope s := rfl
@[simp] theorem exec_join (w : Wheel) (s : State) :
    exec (.join w) s = execJoin w s := rfl
@[simp] theorem exec_bar (w : Wheel) (scope : Scope) (s : State) :
    exec (.bar w scope) s = execBar w scope s := rfl
@[simp] theorem exec_waitc (w : Wheel) (d : SReg) (cc : Cc) (s : State) :
    exec (.waitc w d cc) s = execWaitc w d cc s := rfl
@[simp] theorem exec_disc (w : Wheel) (cc : Cc) (s : State) :
    exec (.disc w cc) s = execDisc w cc s := rfl
@[simp] theorem exec_trap (w : Wheel) (d a : SReg) (s : State) :
    exec (.trap w d a) s = execTrap w d a s := rfl
@[simp] theorem exec_uret (w : Wheel) (s : State) :
    exec (.uret w) s = execUret w s := rfl
@[simp] theorem exec_csrr (w : Wheel) (d : SReg) (csr : BitVec 10) (s : State) :
    exec (.csrr w d csr) s = execCsrr w d csr s := rfl
@[simp] theorem exec_csrw (w : Wheel) (a : SReg) (csr : BitVec 10) (s : State) :
    exec (.csrw w a csr) s = execCsrw w a csr s := rfl
@[simp] theorem exec_fqack (w : Wheel) (d a : SReg) (endJob : Bool) (s : State) :
    exec (.fqack w d a endJob) s = execFqack w d a endJob s := rfl
@[simp] theorem exec_sret (w : Wheel) (d a r : SReg) (s : State) :
    exec (.sret w d a r) s = execSret w d a r s := rfl
@[simp] theorem exec_launch (w : Wheel) (cc : Cc) (a : SReg) (s : State) :
    exec (.launch w cc a) s = execLaunch w cc a s := rfl
@[simp] theorem exec_loop (w : Wheel) (a : SReg) (off : BitVec 14) (s : State) :
    exec (.loop w a off) s = execLoop w a off s := rfl
@[simp] theorem exec_endl (w : Wheel) (off : BitVec 14) (s : State) :
    exec (.endl w off) s = execEndl w off s := rfl
@[simp] theorem exec_jr (w : Wheel) (a : SReg) (s : State) :
    exec (.jr w a) s = execJr w a s := rfl
@[simp] theorem exec_ldb (w : Wheel) (d a : SReg) (off : BitVec 11) (s : State) :
    exec (.ldb w d a off) s = execLdb w d a off s := rfl
@[simp] theorem exec_ldbn (w : Wheel) (d a : SReg) (off : BitVec 11) (s : State) :
    exec (.ldbn w d a off) s = execLdbn w d a off s := rfl
@[simp] theorem exec_ldh (w : Wheel) (d a : SReg) (off : BitVec 11) (s : State) :
    exec (.ldh w d a off) s = execLdh w d a off s := rfl
@[simp] theorem exec_ldhn (w : Wheel) (d a : SReg) (off : BitVec 11) (s : State) :
    exec (.ldhn w d a off) s = execLdhn w d a off s := rfl
@[simp] theorem exec_ldw (w : Wheel) (d a : SReg) (off : BitVec 11) (s : State) :
    exec (.ldw w d a off) s = execLdw w d a off s := rfl
@[simp] theorem exec_ldwn (w : Wheel) (d a : SReg) (off : BitVec 11) (s : State) :
    exec (.ldwn w d a off) s = execLdwn w d a off s := rfl
@[simp] theorem exec_ldd (w : Wheel) (d a : SReg) (off : BitVec 11) (s : State) :
    exec (.ldd w d a off) s = execLdd w d a off s := rfl
@[simp] theorem exec_stb (w : Wheel) (r a : SReg) (off : BitVec 11) (s : State) :
    exec (.stb w r a off) s = execStb w r a off s := rfl
@[simp] theorem exec_sth (w : Wheel) (r a : SReg) (off : BitVec 11) (s : State) :
    exec (.sth w r a off) s = execSth w r a off s := rfl
@[simp] theorem exec_stw (w : Wheel) (r a : SReg) (off : BitVec 11) (s : State) :
    exec (.stw w r a off) s = execStw w r a off s := rfl
@[simp] theorem exec_std (w : Wheel) (r a : SReg) (off : BitVec 11) (s : State) :
    exec (.std w r a off) s = execStd w r a off s := rfl
@[simp] theorem exec_amoadd (w : Wheel) (o : AmoOrd) (d a b : SReg) (s : State) :
    exec (.amoadd w o d a b) s = execAmoadd w o d a b s := rfl
@[simp] theorem exec_amoand (w : Wheel) (o : AmoOrd) (d a b : SReg) (s : State) :
    exec (.amoand w o d a b) s = execAmoand w o d a b s := rfl
@[simp] theorem exec_amoor (w : Wheel) (o : AmoOrd) (d a b : SReg) (s : State) :
    exec (.amoor w o d a b) s = execAmoor w o d a b s := rfl
@[simp] theorem exec_amoxor (w : Wheel) (o : AmoOrd) (d a b : SReg) (s : State) :
    exec (.amoxor w o d a b) s = execAmoxor w o d a b s := rfl
@[simp] theorem exec_amomin (w : Wheel) (o : AmoOrd) (d a b : SReg) (s : State) :
    exec (.amomin w o d a b) s = execAmomin w o d a b s := rfl
@[simp] theorem exec_amomax (w : Wheel) (o : AmoOrd) (d a b : SReg) (s : State) :
    exec (.amomax w o d a b) s = execAmomax w o d a b s := rfl
@[simp] theorem exec_amominn (w : Wheel) (o : AmoOrd) (d a b : SReg) (s : State) :
    exec (.amominn w o d a b) s = execAmominn w o d a b s := rfl
@[simp] theorem exec_amomaxn (w : Wheel) (o : AmoOrd) (d a b : SReg) (s : State) :
    exec (.amomaxn w o d a b) s = execAmomaxn w o d a b s := rfl
@[simp] theorem exec_amoxchg (w : Wheel) (o : AmoOrd) (d a b : SReg) (s : State) :
    exec (.amoxchg w o d a b) s = execAmoxchg w o d a b s := rfl
@[simp] theorem exec_amocas (w : Wheel) (o : AmoOrd) (d a b : SReg) (s : State) :
    exec (.amocas w o d a b) s = execAmocas w o d a b s := rfl
@[simp] theorem exec_amoincb (w : Wheel) (o : AmoOrd) (d a b : SReg) (s : State) :
    exec (.amoincb w o d a b) s = execAmoincb w o d a b s := rfl
@[simp] theorem exec_amofadd (w : Wheel) (o : AmoOrd) (d a b : SReg) (s : State) :
    exec (.amofadd w o d a b) s = execAmofadd w o d a b s := rfl
@[simp] theorem exec_obopen (w : Wheel) (cc : Cc) (a b : SReg) (id : BitVec 16) (s : State) :
    exec (.obopen w cc a b id) s = execObopen w cc a b id s := rfl
@[simp] theorem exec_obclose (w : Wheel) (cc : Cc) (a b : SReg) (s : State) :
    exec (.obclose w cc a b) s = execObclose w cc a b s := rfl
@[simp] theorem exec_tld (w : Wheel) (a b : Pair) (r : SReg) (cc : Cc) (uint : Bool) (s : State) :
    exec (.tld w a b r cc uint) s = execTld w a b r cc uint s := rfl
@[simp] theorem exec_tldas (w : Wheel) (a b : Pair) (r : SReg) (cc : Cc) (uint : Bool) (scope : Scope) (s : State) :
    exec (.tldas w a b r cc uint scope) s = execTldas w a b r cc uint scope s := rfl
@[simp] theorem exec_tpref (w : Wheel) (a : Pair) (r : SReg) (cc : Cc) (uint : Bool) (s : State) :
    exec (.tpref w a r cc uint) s = execTpref w a r cc uint s := rfl
@[simp] theorem exec_tgath (w : Wheel) (a b : Pair) (r : SReg) (cc : Cc) (uint : Bool) (s : State) :
    exec (.tgath w a b r cc uint) s = execTgath w a b r cc uint s := rfl
@[simp] theorem exec_tst (w : Wheel) (a b : Pair) (r : SReg) (cc : Cc) (uint : Bool) (s : State) :
    exec (.tst w a b r cc uint) s = execTst w a b r cc uint s := rfl
@[simp] theorem exec_tstash (w : Wheel) (a b : Pair) (r : SReg) (cc : Cc) (uint : Bool) (s : State) :
    exec (.tstash w a b r cc uint) s = execTstash w a b r cc uint s := rfl
@[simp] theorem exec_tscat (w : Wheel) (a b : Pair) (r : SReg) (cc : Cc) (uint : Bool) (s : State) :
    exec (.tscat w a b r cc uint) s = execTscat w a b r cc uint s := rfl
@[simp] theorem exec_tredst (w : Wheel) (a b : Pair) (r : SReg) (cc : Cc) (uint : Bool) (s : State) :
    exec (.tredst w a b r cc uint) s = execTredst w a b r cc uint s := rfl
@[simp] theorem exec_tcommit (w : Wheel) (a b : Pair) (r : SReg) (cc : Cc) (uint : Bool) (scope : Scope) (s : State) :
    exec (.tcommit w a b r cc uint scope) s = execTcommit w a b r cc uint scope s := rfl
@[simp] theorem exec_tcopy (w : Wheel) (a b : Pair) (r : SReg) (cc : Cc) (uint : Bool) (s : State) :
    exec (.tcopy w a b r cc uint) s = execTcopy w a b r cc uint s := rfl
@[simp] theorem exec_tfill (w : Wheel) (a : Pair) (r : SReg) (cc : Cc) (uint : Bool) (kind : FillKind) (s : State) :
    exec (.tfill w a r cc uint kind) s = execTfill w a r cc uint kind s := rfl
@[simp] theorem exec_tdedup (w : Wheel) (a b : Pair) (r : SReg) (cc : Cc) (uint : Bool) (s : State) :
    exec (.tdedup w a b r cc uint) s = execTdedup w a b r cc uint s := rfl
@[simp] theorem exec_tpromo (w : Wheel) (a : Pair) (r : SReg) (cc : Cc) (uint : Bool) (s : State) :
    exec (.tpromo w a r cc uint) s = execTpromo w a r cc uint s := rfl
@[simp] theorem exec_talias (w : Wheel) (a b : Pair) (r : SReg) (cc : Cc) (uint : Bool) (s : State) :
    exec (.talias w a b r cc uint) s = execTalias w a b r cc uint s := rfl
@[simp] theorem exec_tinfo (w : Wheel) (a : Pair) (r : SReg) (word : BitVec 3) (s : State) :
    exec (.tinfo w a r word) s = execTinfo w a r word s := rfl
@[simp] theorem exec_cnarrow (w : Wheel) (d a : Pair) (b : SReg) (s : State) :
    exec (.cnarrow w d a b) s = execCnarrow w d a b s := rfl
@[simp] theorem exec_cperm (w : Wheel) (d a : Pair) (b : SReg) (s : State) :
    exec (.cperm w d a b) s = execCperm w d a b s := rfl
@[simp] theorem exec_cget (w : Wheel) (d : SReg) (a : Pair) (sel : BitVec 4) (s : State) :
    exec (.cget w d a sel) s = execCget w d a sel s := rfl
@[simp] theorem exec_ctag (w : Wheel) (d : SReg) (a : Pair) (s : State) :
    exec (.ctag w d a) s = execCtag w d a s := rfl
@[simp] theorem exec_mma (w : Wheel) (acc : AccId) (a b c : Pair) (cc : Cc) (uint tb ta hold ovr : Bool) (s : State) :
    exec (.mma w acc a b c cc uint tb ta hold ovr) s = execMma w acc a b c cc uint tb ta hold ovr s := rfl
@[simp] theorem exec_macc (w : Wheel) (acc : AccId) (c : Pair) (cc : Cc) (uint ovr : Bool) (s : State) :
    exec (.macc w acc c cc uint ovr) s = execMacc w acc c cc uint ovr s := rfl
@[simp] theorem exec_mzero (w : Wheel) (acc : AccId) (cc : Cc) (uint : Bool) (s : State) :
    exec (.mzero w acc cc uint) s = execMzero w acc cc uint s := rfl
@[simp] theorem exec_mdrain (w : Wheel) (acc : AccId) (d : Pair) (cc : Cc) (uint : Bool) (mode : Option RMode) (q : QuantKind) (int : Bool) (s : State) :
    exec (.mdrain w acc d cc uint mode q int) s = execMdrain w acc d cc uint mode q int s := rfl
@[simp] theorem exec_mstat (w : Wheel) (acc : AccId) (d : SReg) (clrs clrf : Bool) (s : State) :
    exec (.mstat w acc d clrs clrf) s = execMstat w acc d clrs clrf s := rfl
@[simp] theorem exec_mmov (w : Wheel) (acc : AccId) (src : AccId) (cc : Cc) (uint swap : Bool) (s : State) :
    exec (.mmov w acc src cc uint swap) s = execMmov w acc src cc uint swap s := rfl
@[simp] theorem exec_mmat (w : Wheel) (acc : AccId) (a b c : Pair) (cc : Cc) (uint tb ta hold ovr : Bool) (mask : MaskKind) (lower : Bool) (diag : BitVec 16) (s : State) :
    exec (.mmat w acc a b c cc uint tb ta hold ovr mask lower diag) s = execMmat w acc a b c cc uint tb ta hold ovr mask lower diag s := rfl
@[simp] theorem exec_vadd (w : Wheel) (d a b : VReg) (k : KReg) (s : State) :
    exec (.vadd w d a b k) s = execVadd w d a b k s := rfl
@[simp] theorem exec_vsub (w : Wheel) (d a b : VReg) (k : KReg) (s : State) :
    exec (.vsub w d a b k) s = execVsub w d a b k s := rfl
@[simp] theorem exec_vmul (w : Wheel) (d a b : VReg) (k : KReg) (s : State) :
    exec (.vmul w d a b k) s = execVmul w d a b k s := rfl
@[simp] theorem exec_vfma (w : Wheel) (d a b : VReg) (k : KReg) (s : State) :
    exec (.vfma w d a b k) s = execVfma w d a b k s := rfl
@[simp] theorem exec_vfms (w : Wheel) (d a b : VReg) (k : KReg) (s : State) :
    exec (.vfms w d a b k) s = execVfms w d a b k s := rfl
@[simp] theorem exec_vfnma (w : Wheel) (d a b : VReg) (k : KReg) (s : State) :
    exec (.vfnma w d a b k) s = execVfnma w d a b k s := rfl
@[simp] theorem exec_vmin (w : Wheel) (d a b : VReg) (k : KReg) (s : State) :
    exec (.vmin w d a b k) s = execVmin w d a b k s := rfl
@[simp] theorem exec_vmax (w : Wheel) (d a b : VReg) (k : KReg) (s : State) :
    exec (.vmax w d a b k) s = execVmax w d a b k s := rfl
@[simp] theorem exec_vabs (w : Wheel) (d a : VReg) (k : KReg) (s : State) :
    exec (.vabs w d a k) s = execVabs w d a k s := rfl
@[simp] theorem exec_vneg (w : Wheel) (d a : VReg) (k : KReg) (s : State) :
    exec (.vneg w d a k) s = execVneg w d a k s := rfl
@[simp] theorem exec_vdiv (w : Wheel) (d a b : VReg) (k : KReg) (s : State) :
    exec (.vdiv w d a b k) s = execVdiv w d a b k s := rfl
@[simp] theorem exec_vsqrt (w : Wheel) (d a : VReg) (k : KReg) (s : State) :
    exec (.vsqrt w d a k) s = execVsqrt w d a k s := rfl
@[simp] theorem exec_vrsq (w : Wheel) (d a : VReg) (k : KReg) (s : State) :
    exec (.vrsq w d a k) s = execVrsq w d a k s := rfl
@[simp] theorem exec_vrcp (w : Wheel) (d a : VReg) (k : KReg) (s : State) :
    exec (.vrcp w d a k) s = execVrcp w d a k s := rfl
@[simp] theorem exec_vexp2 (w : Wheel) (d a : VReg) (k : KReg) (s : State) :
    exec (.vexp2 w d a k) s = execVexp2 w d a k s := rfl
@[simp] theorem exec_vlog2 (w : Wheel) (d a : VReg) (k : KReg) (s : State) :
    exec (.vlog2 w d a k) s = execVlog2 w d a k s := rfl
@[simp] theorem exec_vtanh (w : Wheel) (d a : VReg) (k : KReg) (s : State) :
    exec (.vtanh w d a k) s = execVtanh w d a k s := rfl
@[simp] theorem exec_vsigm (w : Wheel) (d a : VReg) (k : KReg) (s : State) :
    exec (.vsigm w d a k) s = execVsigm w d a k s := rfl
@[simp] theorem exec_vceq (w : Wheel) (d : KReg) (a b : VReg) (k : KReg) (s : State) :
    exec (.vceq w d a b k) s = execVceq w d a b k s := rfl
@[simp] theorem exec_vcne (w : Wheel) (d : KReg) (a b : VReg) (k : KReg) (s : State) :
    exec (.vcne w d a b k) s = execVcne w d a b k s := rfl
@[simp] theorem exec_vclt (w : Wheel) (d : KReg) (a b : VReg) (k : KReg) (s : State) :
    exec (.vclt w d a b k) s = execVclt w d a b k s := rfl
@[simp] theorem exec_vcle (w : Wheel) (d : KReg) (a b : VReg) (k : KReg) (s : State) :
    exec (.vcle w d a b k) s = execVcle w d a b k s := rfl
@[simp] theorem exec_vcun (w : Wheel) (d : KReg) (a b : VReg) (k : KReg) (s : State) :
    exec (.vcun w d a b k) s = execVcun w d a b k s := rfl
@[simp] theorem exec_viadd (w : Wheel) (d a b : VReg) (k : KReg) (s : State) :
    exec (.viadd w d a b k) s = execViadd w d a b k s := rfl
@[simp] theorem exec_visub (w : Wheel) (d a b : VReg) (k : KReg) (s : State) :
    exec (.visub w d a b k) s = execVisub w d a b k s := rfl
@[simp] theorem exec_vimul (w : Wheel) (d a b : VReg) (k : KReg) (s : State) :
    exec (.vimul w d a b k) s = execVimul w d a b k s := rfl
@[simp] theorem exec_vand (w : Wheel) (d a b : VReg) (k : KReg) (s : State) :
    exec (.vand w d a b k) s = execVand w d a b k s := rfl
@[simp] theorem exec_vor (w : Wheel) (d a b : VReg) (k : KReg) (s : State) :
    exec (.vor w d a b k) s = execVor w d a b k s := rfl
@[simp] theorem exec_vxor (w : Wheel) (d a b : VReg) (k : KReg) (s : State) :
    exec (.vxor w d a b k) s = execVxor w d a b k s := rfl
@[simp] theorem exec_vshl (w : Wheel) (d a b : VReg) (k : KReg) (s : State) :
    exec (.vshl w d a b k) s = execVshl w d a b k s := rfl
@[simp] theorem exec_vshr (w : Wheel) (d a b : VReg) (k : KReg) (s : State) :
    exec (.vshr w d a b k) s = execVshr w d a b k s := rfl
@[simp] theorem exec_vsra (w : Wheel) (d a b : VReg) (k : KReg) (s : State) :
    exec (.vsra w d a b k) s = execVsra w d a b k s := rfl
@[simp] theorem exec_vimin (w : Wheel) (d a b : VReg) (k : KReg) (s : State) :
    exec (.vimin w d a b k) s = execVimin w d a b k s := rfl
@[simp] theorem exec_vimax (w : Wheel) (d a b : VReg) (k : KReg) (s : State) :
    exec (.vimax w d a b k) s = execVimax w d a b k s := rfl
@[simp] theorem exec_vrsum (w : Wheel) (a : VReg) (r : SReg) (k : KReg) (s : State) :
    exec (.vrsum w a r k) s = execVrsum w a r k s := rfl
@[simp] theorem exec_vrmax (w : Wheel) (a : VReg) (r : SReg) (k : KReg) (s : State) :
    exec (.vrmax w a r k) s = execVrmax w a r k s := rfl
@[simp] theorem exec_vrmin (w : Wheel) (a : VReg) (r : SReg) (k : KReg) (s : State) :
    exec (.vrmin w a r k) s = execVrmin w a r k s := rfl
@[simp] theorem exec_vrargmx (w : Wheel) (a : VReg) (r : SReg) (k : KReg) (s : State) :
    exec (.vrargmx w a r k) s = execVrargmx w a r k s := rfl
@[simp] theorem exec_kand (w : Wheel) (d a b : KReg) (k : KReg) (s : State) :
    exec (.kand w d a b k) s = execKand w d a b k s := rfl
@[simp] theorem exec_kor (w : Wheel) (d a b : KReg) (k : KReg) (s : State) :
    exec (.kor w d a b k) s = execKor w d a b k s := rfl
@[simp] theorem exec_kxor (w : Wheel) (d a b : KReg) (k : KReg) (s : State) :
    exec (.kxor w d a b k) s = execKxor w d a b k s := rfl
@[simp] theorem exec_knot (w : Wheel) (d a : KReg) (k : KReg) (s : State) :
    exec (.knot w d a k) s = execKnot w d a k s := rfl
@[simp] theorem exec_kpop (w : Wheel) (a : KReg) (r : SReg) (k : KReg) (s : State) :
    exec (.kpop w a r k) s = execKpop w a r k s := rfl
@[simp] theorem exec_kfirst (w : Wheel) (a : KReg) (r : SReg) (k : KReg) (s : State) :
    exec (.kfirst w a r k) s = execKfirst w a r k s := rfl
@[simp] theorem exec_kset (w : Wheel) (d : KReg) (r : SReg) (k : KReg) (s : State) :
    exec (.kset w d r k) s = execKset w d r k s := rfl
@[simp] theorem exec_vcvt (w : Wheel) (d a : VReg) (r : SReg) (k : KReg) (s : State) :
    exec (.vcvt w d a r k) s = execVcvt w d a r k s := rfl
@[simp] theorem exec_vquant (w : Wheel) (d a : VReg) (r : SReg) (k : KReg) (s : State) :
    exec (.vquant w d a r k) s = execVquant w d a r k s := rfl
@[simp] theorem exec_vdeq (w : Wheel) (d a : VReg) (r : SReg) (k : KReg) (s : State) :
    exec (.vdeq w d a r k) s = execVdeq w d a r k s := rfl
@[simp] theorem exec_vcfg (w : Wheel) (et : Fmt) (rm : Option RMode) (s : State) :
    exec (.vcfg w et rm) s = execVcfg w et rm s := rfl
@[simp] theorem exec_vcomp (w : Wheel) (d a : VReg) (k : KReg) (s : State) :
    exec (.vcomp w d a k) s = execVcomp w d a k s := rfl
@[simp] theorem exec_vexpd (w : Wheel) (d a : VReg) (k : KReg) (s : State) :
    exec (.vexpd w d a k) s = execVexpd w d a k s := rfl
@[simp] theorem exec_vperm (w : Wheel) (d a b : VReg) (k : KReg) (s : State) :
    exec (.vperm w d a b k) s = execVperm w d a b k s := rfl
@[simp] theorem exec_vslide (w : Wheel) (d a : VReg) (r : SReg) (k : KReg) (s : State) :
    exec (.vslide w d a r k) s = execVslide w d a r k s := rfl
@[simp] theorem exec_vbcast (w : Wheel) (d : VReg) (r : SReg) (k : KReg) (s : State) :
    exec (.vbcast w d r k) s = execVbcast w d r k s := rfl
@[simp] theorem exec_viota (w : Wheel) (d : VReg) (r : SReg) (k : KReg) (s : State) :
    exec (.viota w d r k) s = execViota w d r k s := rfl
@[simp] theorem exec_vsel (w : Wheel) (d a b : VReg) (k : KReg) (s : State) :
    exec (.vsel w d a b k) s = execVsel w d a b k s := rfl
@[simp] theorem exec_vmov (w : Wheel) (d a : VReg) (k : KReg) (s : State) :
    exec (.vmov w d a k) s = execVmov w d a k s := rfl
@[simp] theorem exec_vext (w : Wheel) (a : VReg) (r : SReg) (s : State) :
    exec (.vext w a r) s = execVext w a r s := rfl
@[simp] theorem exec_vins (w : Wheel) (d a : VReg) (r : SReg) (k : KReg) (s : State) :
    exec (.vins w d a r k) s = execVins w d a r k s := rfl
@[simp] theorem exec_vld (w : Wheel) (v : VReg) (a : SReg) (imm : BitVec 6) (k : KReg) (tile queue : Bool) (s : State) :
    exec (.vld w v a imm k tile queue) s = execVld w v a imm k tile queue s := rfl
@[simp] theorem exec_vldg (w : Wheel) (v : VReg) (a : SReg) (vi : VReg) (k : KReg) (queue : Bool) (s : State) :
    exec (.vldg w v a vi k queue) s = execVldg w v a vi k queue s := rfl
@[simp] theorem exec_vst (w : Wheel) (v : VReg) (a : SReg) (imm : BitVec 6) (k : KReg) (tile queue : Bool) (s : State) :
    exec (.vst w v a imm k tile queue) s = execVst w v a imm k tile queue s := rfl
@[simp] theorem exec_vsts (w : Wheel) (v : VReg) (a : SReg) (vi : VReg) (k : KReg) (queue : Bool) (s : State) :
    exec (.vsts w v a vi k queue) s = execVsts w v a vi k queue s := rfl
@[simp] theorem exec_qrn (w : Wheel) (d a : VReg) (r : SReg) (k : KReg) (s : State) :
    exec (.qrn w d a r k) s = execQrn w d a r k s := rfl
@[simp] theorem exec_qcfg (w : Wheel) (set : BitVec 8) (s : State) :
    exec (.qcfg w set) s = execQcfg w set s := rfl
@[simp] theorem exec_qldt (w : Wheel) (a : SReg) (dim : BitVec 6) (s : State) :
    exec (.qldt w a dim) s = execQldt w a dim s := rfl
@[simp] theorem exec_vtok (w : Wheel) (d a : VReg) (r : SReg) (k : KReg) (s : State) :
    exec (.vtok w d a r k) s = execVtok w d a r k s := rfl
@[simp] theorem exec_pvset (w : Wheel) (a : SReg) (s : State) :
    exec (.pvset w a) s = execPvset w a s := rfl
@[simp] theorem exec_tokbnd (w : Wheel) (s : State) :
    exec (.tokbnd w) s = execTokbnd w s := rfl
@[simp] theorem exec_publ (w : Wheel) (cc : Cc) (a : Pair) (v : SReg) (scope : Scope) (s : State) :
    exec (.publ w cc a v scope) s = execPubl w cc a v scope s := rfl
@[simp] theorem exec_clkr (w : Wheel) (d : SReg) (s : State) :
    exec (.clkr w d) s = execClkr w d s := rfl
@[simp] theorem exec_cwait (w : Wheel) (s : State) :
    exec (.cwait w) s = execCwait w s := rfl
@[simp] theorem exec_qselWrite (v : Word) (s : State) :
    exec (.qselWrite v) s = execQselWrite v s := rfl
@[simp] theorem exec_rcfgWrite (v : Word) (s : State) :
    exec (.rcfgWrite v) s = execRcfgWrite v s := rfl
@[simp] theorem exec_fqheadWrite (v : Word) (s : State) :
    exec (.fqheadWrite v) s = execFqheadWrite v s := rfl
@[simp] theorem exec_submit (v : Word) (s : State) :
    exec (.submit v) s = execSubmit v s := rfl
@[simp] theorem exec_tapselWrite (v : Word) (s : State) :
    exec (.tapselWrite v) s = execTapselWrite v s := rfl
@[simp] theorem exec_inval (v : Word) (s : State) :
    exec (.inval v) s = execInval v s := rfl
@[simp] theorem exec_invalComplete (s : State) : exec .invalComplete s = execInvalComplete s := rfl
@[simp] theorem exec_mgmtRegisterWrite (acc : WinAccess) (v : Word) (s : State) :
    exec (.mgmtRegisterWrite acc v) s = execMgmtRegisterWrite acc v s := rfl
@[simp] theorem exec_ownerNew (s : State) : exec .ownerNew s = execOwnerNew s := rfl
@[simp] theorem exec_ownerDel (s : State) : exec .ownerDel s = execOwnerDel s := rfl
@[simp] theorem exec_setRoot (s : State) : exec .setRoot s = execSetRoot s := rfl
@[simp] theorem exec_setTtb (s : State) : exec .setTtb s = execSetTtb s := rfl
@[simp] theorem exec_keyLoad (s : State) : exec .keyLoad s = execKeyLoad s := rfl
@[simp] theorem exec_keyUse (s : State) : exec .keyUse s = execKeyUse s := rfl
@[simp] theorem exec_keyRetire (s : State) : exec .keyRetire s = execKeyRetire s := rfl
@[simp] theorem exec_exportWin (s : State) : exec .exportWin s = execExportWin s := rfl
@[simp] theorem exec_revoke (s : State) : exec .revoke s = execRevoke s := rfl
@[simp] theorem exec_importWin (s : State) : exec .importWin s = execImportWin s := rfl
@[simp] theorem exec_unimport (s : State) : exec .unimport s = execUnimport s := rfl
@[simp] theorem exec_sigPolicy (s : State) : exec .sigPolicy s = execSigPolicy s := rfl
@[simp] theorem exec_errRead (s : State) : exec .errRead s = execErrRead s := rfl
@[simp] theorem exec_quote (s : State) : exec .quote s = execQuote s := rfl
@[simp] theorem exec_mailboxResult (s : State) : exec .mailboxResult s = execMailboxResult s := rfl
@[simp] theorem exec_hostRawAccess (write : Bool) (tier : Tier) (pa : Nat) (bytes : List Byte) (s : State) :
    exec (.hostRawAccess write tier pa bytes) s = execHostRawAccess write tier pa bytes s := rfl
@[simp] theorem exec_tileApertureRead (off len : Nat) (s : State) :
    exec (.tileApertureRead off len) s = execTileApertureRead off len s := rfl
@[simp] theorem exec_tileApertureWrite (off : Nat) (bytes : List Byte) (s : State) :
    exec (.tileApertureWrite off bytes) s = execTileApertureWrite off bytes s := rfl
@[simp] theorem exec_outsideAgentRead (port : Option Nat) (owner : BitVec 16) (index : BitVec 32) (s : State) :
    exec (.outsideAgentRead port owner index) s = execOutsideAgentRead port owner index s := rfl
@[simp] theorem exec_peerRequest (owner : BitVec 16) (window : BitVec 16) (op : PeerReq) (s : State) :
    exec (.peerRequest owner window op) s = execPeerRequest owner window op s := rfl
@[simp] theorem exec_dispatch (s : State) : exec .dispatch s = execDispatch s := rfl
@[simp] theorem exec_probeAck (launch : Nat) (s : State) :
    exec (.probeAck launch) s = execProbeAck launch s := rfl
@[simp] theorem exec_probeTimeout (launch : Nat) (s : State) :
    exec (.probeTimeout launch) s = execProbeTimeout launch s := rfl
@[simp] theorem exec_gangStart (launch : Nat) (s : State) :
    exec (.gangStart launch) s = execGangStart launch s := rfl
@[simp] theorem exec_grantRelease (note : GrantNote) (s : State) :
    exec (.grantRelease note) s = execGrantRelease note s := rfl
@[simp] theorem exec_launchAgeing (launch : Nat) (s : State) :
    exec (.launchAgeing launch) s = execLaunchAgeing launch s := rfl
@[simp] theorem exec_preemptSave (s : State) : exec .preemptSave s = execPreemptSave s := rfl
@[simp] theorem exec_safeHoldRelease (s : State) : exec .safeHoldRelease s = execSafeHoldRelease s := rfl
@[simp] theorem exec_resume (uid : Nat) (s : State) :
    exec (.resume uid) s = execResume uid s := rfl
@[simp] theorem exec_faultEntryWrite (die : BitVec 2) (s : State) :
    exec (.faultEntryWrite die) s = execFaultEntryWrite die s := rfl
@[simp] theorem exec_faultResume (seq : BitVec 32) (s : State) :
    exec (.faultResume seq) s = execFaultResume seq s := rfl
@[simp] theorem exec_wheelStall (s : State) : exec .wheelStall s = execWheelStall s := rfl
@[simp] theorem exec_uintDelivery (s : State) : exec .uintDelivery s = execUintDelivery s := rfl
@[simp] theorem exec_machineError (s : State) : exec .machineError s = execMachineError s := rfl
@[simp] theorem exec_copyEngineCompletion (n : Nat) (s : State) :
    exec (.copyEngineCompletion n) s = execCopyEngineCompletion n s := rfl
@[simp] theorem exec_matrixCommandCompletion (s : State) : exec .matrixCommandCompletion s = execMatrixCommandCompletion s := rfl
@[simp] theorem exec_orderedRequestArrival (n : Nat) (s : State) :
    exec (.orderedRequestArrival n) s = execOrderedRequestArrival n s := rfl
@[simp] theorem exec_aonWriteHold (n : Nat) (s : State) :
    exec (.aonWriteHold n) s = execAonWriteHold n s := rfl
@[simp] theorem exec_queueSlotFill (q : QNum) (slot : Nat) (s : State) :
    exec (.queueSlotFill q slot) s = execQueueSlotFill q slot s := rfl
@[simp] theorem exec_barrierComplete (arrivals : Arrivals) (s : State) :
    exec (.barrierComplete arrivals) s = execBarrierComplete arrivals s := rfl
@[simp] theorem exec_markerHead (n : Nat) (s : State) :
    exec (.markerHead n) s = execMarkerHead n s := rfl
@[simp] theorem exec_beacon (die : BitVec 2) (now earliest : Word) (latest : BeaconEnd) (s : State) :
    exec (.beacon die now earliest latest) s = execBeacon die now earliest latest s := rfl
@[simp] theorem exec_floorReport (die : BitVec 2) (package : Word) (known : GrantKnown) (s : State) :
    exec (.floorReport die package known) s = execFloorReport die package known s := rfl
@[simp] theorem exec_versionCurrent (entry : Nat) (s : State) :
    exec (.versionCurrent entry) s = execVersionCurrent entry s := rfl
@[simp] theorem exec_flitReceived (port : Nat) (rec : Received) (s : State) :
    exec (.flitReceived port rec) s = execFlitReceived port rec s := rfl
@[simp] theorem exec_linkDown (loss : LinkLoss) (s : State) :
    exec (.linkDown loss) s = execLinkDown loss s := rfl
@[simp] theorem exec_linkTraining (port : Nat) (pressCap symCap : Bool) (s : State) :
    exec (.linkTraining port pressCap symCap) s = execLinkTraining port pressCap symCap s := rfl
@[simp] theorem exec_tagFlit (port : Nat) (owner : BitVec 16) (ksel : Bool) (tag : TagEnd) (s : State) :
    exec (.tagFlit port owner ksel tag) s = execTagFlit port owner ksel tag s := rfl
@[simp] theorem exec_transferRevoked (n : Nat) (s : State) :
    exec (.transferRevoked n) s = execTransferRevoked n s := rfl
@[simp] theorem exec_throttle (mhz : Nat) (s : State) :
    exec (.throttle mhz) s = execThrottle mhz s := rfl
@[simp] theorem exec_thermalShutdown (die : BitVec 2) (s : State) :
    exec (.thermalShutdown die) s = execThermalShutdown die s := rfl
@[simp] theorem exec_boot (rec : BootRecord) (s : State) :
    exec (.boot rec) s = execBoot rec s := rfl
@[simp] theorem exec_dieReset (die : BitVec 2) (s : State) :
    exec (.dieReset die) s = execDieReset die s := rfl
@[simp] theorem exec_clockWide (s : State) : exec .clockWide s = execClockWide s := rfl
@[simp] theorem exec_knownFloorPassesStamp (die : BitVec 2) (now : Word) (s : State) :
    exec (.knownFloorPassesStamp die now) s = execKnownFloorPassesStamp die now s := rfl

end Sys2Proof.Machine
end

