-- ==== Sys2Proof/Laws/State.lean ====
section
/-!
SUPPORT. Laws/State.lean: what each update of a state, a job or a stream leaves as it was, one lemma for each field, so that no
later proof unfolds a record update.
-/
namespace Sys2Proof.Machine

/-! ## State.setJob -/

@[simp] theorem State.setJob_others (s : State) (j : Job) : (s.setJob j).others = s.others := rfl
@[simp] theorem State.setJob_cur (s : State) (j : Job) : (s.setJob j).cur = s.cur := rfl
@[simp] theorem State.setJob_agenda (s : State) (j : Job) : (s.setJob j).agenda = s.agenda := rfl
@[simp] theorem State.setJob_bad (s : State) (j : Job) : (s.setJob j).bad = s.bad := rfl
@[simp] theorem State.setJob_turns (s : State) (j : Job) : (s.setJob j).turns = s.turns := rfl
@[simp] theorem State.setJob_fresh (s : State) (j : Job) : (s.setJob j).fresh = s.fresh := rfl
@[simp] theorem State.setJob_nextUid (s : State) (j : Job) : (s.setJob j).nextUid = s.nextUid := rfl
@[simp] theorem State.setJob_nextCmd (s : State) (j : Job) : (s.setJob j).nextCmd = s.nextCmd := rfl
@[simp] theorem State.setJob_nextLaunch (s : State) (j : Job) : (s.setJob j).nextLaunch = s.nextLaunch := rfl
@[simp] theorem State.setJob_mem (s : State) (j : Job) : (s.setJob j).mem = s.mem := rfl
@[simp] theorem State.setJob_tlb (s : State) (j : Job) : (s.setJob j).tlb = s.tlb := rfl
@[simp] theorem State.setJob_dies (s : State) (j : Job) : (s.setJob j).dies = s.dies := rfl
@[simp] theorem State.setJob_epsmax (s : State) (j : Job) : (s.setJob j).epsmax = s.epsmax := rfl
@[simp] theorem State.setJob_vwater (s : State) (j : Job) : (s.setJob j).vwater = s.vwater := rfl
@[simp] theorem State.setJob_safemax (s : State) (j : Job) : (s.setJob j).safemax = s.safemax := rfl
@[simp] theorem State.setJob_age (s : State) (j : Job) : (s.setJob j).age = s.age := rfl
@[simp] theorem State.setJob_launches (s : State) (j : Job) : (s.setJob j).launches = s.launches := rfl
@[simp] theorem State.setJob_owners (s : State) (j : Job) : (s.setJob j).owners = s.owners := rfl
@[simp] theorem State.setJob_parked (s : State) (j : Job) : (s.setJob j).parked = s.parked := rfl
@[simp] theorem State.setJob_relsets (s : State) (j : Job) : (s.setJob j).relsets = s.relsets := rfl
@[simp] theorem State.setJob_vdoms (s : State) (j : Job) : (s.setJob j).vdoms = s.vdoms := rfl
@[simp] theorem State.setJob_tileVers (s : State) (j : Job) : (s.setJob j).tileVers = s.tileVers := rfl
@[simp] theorem State.setJob_reclaimed (s : State) (j : Job) : (s.setJob j).reclaimed = s.reclaimed := rfl
@[simp] theorem State.setJob_recs (s : State) (j : Job) : (s.setJob j).recs = s.recs := rfl
@[simp] theorem State.setJob_bars (s : State) (j : Job) : (s.setJob j).bars = s.bars := rfl
@[simp] theorem State.setJob_aonHolds (s : State) (j : Job) : (s.setJob j).aonHolds = s.aonHolds := rfl
@[simp] theorem State.setJob_entries (s : State) (j : Job) : (s.setJob j).entries = s.entries := rfl
@[simp] theorem State.setJob_host (s : State) (j : Job) : (s.setJob j).host = s.host := rfl
@[simp] theorem State.setJob_desc (s : State) (j : Job) : (s.setJob j).desc = s.desc := rfl
@[simp] theorem State.setJob_fabric (s : State) (j : Job) : (s.setJob j).fabric = s.fabric := rfl
@[simp] theorem State.setJob_torus (s : State) (j : Job) : (s.setJob j).torus = s.torus := rfl
@[simp] theorem State.setJob_coords (s : State) (j : Job) : (s.setJob j).coords = s.coords := rfl
@[simp] theorem State.setJob_booted (s : State) (j : Job) : (s.setJob j).booted = s.booted := rfl
@[simp] theorem State.setJob_now (s : State) (j : Job) : (s.setJob j).now = s.now := rfl
@[simp] theorem State.setJob_mhz (s : State) (j : Job) : (s.setJob j).mhz = s.mhz := rfl
@[simp] theorem State.setJob_quotes (s : State) (j : Job) : (s.setJob j).quotes = s.quotes := rfl
@[simp] theorem State.setJob_saved (s : State) (j : Job) : (s.setJob j).saved = s.saved := rfl

/-! ## State.setSt -/

@[simp] theorem State.setSt_others (s : State) (t : Stream) : (s.setSt t).others = s.others := rfl
@[simp] theorem State.setSt_cur (s : State) (t : Stream) : (s.setSt t).cur = s.cur := rfl
@[simp] theorem State.setSt_agenda (s : State) (t : Stream) : (s.setSt t).agenda = s.agenda := rfl
@[simp] theorem State.setSt_bad (s : State) (t : Stream) : (s.setSt t).bad = s.bad := rfl
@[simp] theorem State.setSt_turns (s : State) (t : Stream) : (s.setSt t).turns = s.turns := rfl
@[simp] theorem State.setSt_fresh (s : State) (t : Stream) : (s.setSt t).fresh = s.fresh := rfl
@[simp] theorem State.setSt_nextUid (s : State) (t : Stream) : (s.setSt t).nextUid = s.nextUid := rfl
@[simp] theorem State.setSt_nextCmd (s : State) (t : Stream) : (s.setSt t).nextCmd = s.nextCmd := rfl
@[simp] theorem State.setSt_nextLaunch (s : State) (t : Stream) : (s.setSt t).nextLaunch = s.nextLaunch := rfl
@[simp] theorem State.setSt_mem (s : State) (t : Stream) : (s.setSt t).mem = s.mem := rfl
@[simp] theorem State.setSt_tlb (s : State) (t : Stream) : (s.setSt t).tlb = s.tlb := rfl
@[simp] theorem State.setSt_dies (s : State) (t : Stream) : (s.setSt t).dies = s.dies := rfl
@[simp] theorem State.setSt_epsmax (s : State) (t : Stream) : (s.setSt t).epsmax = s.epsmax := rfl
@[simp] theorem State.setSt_vwater (s : State) (t : Stream) : (s.setSt t).vwater = s.vwater := rfl
@[simp] theorem State.setSt_safemax (s : State) (t : Stream) : (s.setSt t).safemax = s.safemax := rfl
@[simp] theorem State.setSt_age (s : State) (t : Stream) : (s.setSt t).age = s.age := rfl
@[simp] theorem State.setSt_launches (s : State) (t : Stream) : (s.setSt t).launches = s.launches := rfl
@[simp] theorem State.setSt_owners (s : State) (t : Stream) : (s.setSt t).owners = s.owners := rfl
@[simp] theorem State.setSt_parked (s : State) (t : Stream) : (s.setSt t).parked = s.parked := rfl
@[simp] theorem State.setSt_relsets (s : State) (t : Stream) : (s.setSt t).relsets = s.relsets := rfl
@[simp] theorem State.setSt_vdoms (s : State) (t : Stream) : (s.setSt t).vdoms = s.vdoms := rfl
@[simp] theorem State.setSt_tileVers (s : State) (t : Stream) : (s.setSt t).tileVers = s.tileVers := rfl
@[simp] theorem State.setSt_reclaimed (s : State) (t : Stream) : (s.setSt t).reclaimed = s.reclaimed := rfl
@[simp] theorem State.setSt_recs (s : State) (t : Stream) : (s.setSt t).recs = s.recs := rfl
@[simp] theorem State.setSt_bars (s : State) (t : Stream) : (s.setSt t).bars = s.bars := rfl
@[simp] theorem State.setSt_aonHolds (s : State) (t : Stream) : (s.setSt t).aonHolds = s.aonHolds := rfl
@[simp] theorem State.setSt_entries (s : State) (t : Stream) : (s.setSt t).entries = s.entries := rfl
@[simp] theorem State.setSt_host (s : State) (t : Stream) : (s.setSt t).host = s.host := rfl
@[simp] theorem State.setSt_desc (s : State) (t : Stream) : (s.setSt t).desc = s.desc := rfl
@[simp] theorem State.setSt_fabric (s : State) (t : Stream) : (s.setSt t).fabric = s.fabric := rfl
@[simp] theorem State.setSt_torus (s : State) (t : Stream) : (s.setSt t).torus = s.torus := rfl
@[simp] theorem State.setSt_coords (s : State) (t : Stream) : (s.setSt t).coords = s.coords := rfl
@[simp] theorem State.setSt_booted (s : State) (t : Stream) : (s.setSt t).booted = s.booted := rfl
@[simp] theorem State.setSt_now (s : State) (t : Stream) : (s.setSt t).now = s.now := rfl
@[simp] theorem State.setSt_mhz (s : State) (t : Stream) : (s.setSt t).mhz = s.mhz := rfl
@[simp] theorem State.setSt_quotes (s : State) (t : Stream) : (s.setSt t).quotes = s.quotes := rfl
@[simp] theorem State.setSt_saved (s : State) (t : Stream) : (s.setSt t).saved = s.saved := rfl

/-! ## State.onJob -/

@[simp] theorem State.onJob_others (s : State) (f : Job → Job) : (s.onJob f).others = s.others := rfl
@[simp] theorem State.onJob_cur (s : State) (f : Job → Job) : (s.onJob f).cur = s.cur := rfl
@[simp] theorem State.onJob_agenda (s : State) (f : Job → Job) : (s.onJob f).agenda = s.agenda := rfl
@[simp] theorem State.onJob_bad (s : State) (f : Job → Job) : (s.onJob f).bad = s.bad := rfl
@[simp] theorem State.onJob_turns (s : State) (f : Job → Job) : (s.onJob f).turns = s.turns := rfl
@[simp] theorem State.onJob_fresh (s : State) (f : Job → Job) : (s.onJob f).fresh = s.fresh := rfl
@[simp] theorem State.onJob_nextUid (s : State) (f : Job → Job) : (s.onJob f).nextUid = s.nextUid := rfl
@[simp] theorem State.onJob_nextCmd (s : State) (f : Job → Job) : (s.onJob f).nextCmd = s.nextCmd := rfl
@[simp] theorem State.onJob_nextLaunch (s : State) (f : Job → Job) : (s.onJob f).nextLaunch = s.nextLaunch := rfl
@[simp] theorem State.onJob_mem (s : State) (f : Job → Job) : (s.onJob f).mem = s.mem := rfl
@[simp] theorem State.onJob_tlb (s : State) (f : Job → Job) : (s.onJob f).tlb = s.tlb := rfl
@[simp] theorem State.onJob_dies (s : State) (f : Job → Job) : (s.onJob f).dies = s.dies := rfl
@[simp] theorem State.onJob_epsmax (s : State) (f : Job → Job) : (s.onJob f).epsmax = s.epsmax := rfl
@[simp] theorem State.onJob_vwater (s : State) (f : Job → Job) : (s.onJob f).vwater = s.vwater := rfl
@[simp] theorem State.onJob_safemax (s : State) (f : Job → Job) : (s.onJob f).safemax = s.safemax := rfl
@[simp] theorem State.onJob_age (s : State) (f : Job → Job) : (s.onJob f).age = s.age := rfl
@[simp] theorem State.onJob_launches (s : State) (f : Job → Job) : (s.onJob f).launches = s.launches := rfl
@[simp] theorem State.onJob_owners (s : State) (f : Job → Job) : (s.onJob f).owners = s.owners := rfl
@[simp] theorem State.onJob_parked (s : State) (f : Job → Job) : (s.onJob f).parked = s.parked := rfl
@[simp] theorem State.onJob_relsets (s : State) (f : Job → Job) : (s.onJob f).relsets = s.relsets := rfl
@[simp] theorem State.onJob_vdoms (s : State) (f : Job → Job) : (s.onJob f).vdoms = s.vdoms := rfl
@[simp] theorem State.onJob_tileVers (s : State) (f : Job → Job) : (s.onJob f).tileVers = s.tileVers := rfl
@[simp] theorem State.onJob_reclaimed (s : State) (f : Job → Job) : (s.onJob f).reclaimed = s.reclaimed := rfl
@[simp] theorem State.onJob_recs (s : State) (f : Job → Job) : (s.onJob f).recs = s.recs := rfl
@[simp] theorem State.onJob_bars (s : State) (f : Job → Job) : (s.onJob f).bars = s.bars := rfl
@[simp] theorem State.onJob_aonHolds (s : State) (f : Job → Job) : (s.onJob f).aonHolds = s.aonHolds := rfl
@[simp] theorem State.onJob_entries (s : State) (f : Job → Job) : (s.onJob f).entries = s.entries := rfl
@[simp] theorem State.onJob_host (s : State) (f : Job → Job) : (s.onJob f).host = s.host := rfl
@[simp] theorem State.onJob_desc (s : State) (f : Job → Job) : (s.onJob f).desc = s.desc := rfl
@[simp] theorem State.onJob_fabric (s : State) (f : Job → Job) : (s.onJob f).fabric = s.fabric := rfl
@[simp] theorem State.onJob_torus (s : State) (f : Job → Job) : (s.onJob f).torus = s.torus := rfl
@[simp] theorem State.onJob_coords (s : State) (f : Job → Job) : (s.onJob f).coords = s.coords := rfl
@[simp] theorem State.onJob_booted (s : State) (f : Job → Job) : (s.onJob f).booted = s.booted := rfl
@[simp] theorem State.onJob_now (s : State) (f : Job → Job) : (s.onJob f).now = s.now := rfl
@[simp] theorem State.onJob_mhz (s : State) (f : Job → Job) : (s.onJob f).mhz = s.mhz := rfl
@[simp] theorem State.onJob_quotes (s : State) (f : Job → Job) : (s.onJob f).quotes = s.quotes := rfl
@[simp] theorem State.onJob_saved (s : State) (f : Job → Job) : (s.onJob f).saved = s.saved := rfl

/-! ## State.onSt -/

@[simp] theorem State.onSt_others (s : State) (f : Stream → Stream) : (s.onSt f).others = s.others := rfl
@[simp] theorem State.onSt_cur (s : State) (f : Stream → Stream) : (s.onSt f).cur = s.cur := rfl
@[simp] theorem State.onSt_agenda (s : State) (f : Stream → Stream) : (s.onSt f).agenda = s.agenda := rfl
@[simp] theorem State.onSt_bad (s : State) (f : Stream → Stream) : (s.onSt f).bad = s.bad := rfl
@[simp] theorem State.onSt_turns (s : State) (f : Stream → Stream) : (s.onSt f).turns = s.turns := rfl
@[simp] theorem State.onSt_fresh (s : State) (f : Stream → Stream) : (s.onSt f).fresh = s.fresh := rfl
@[simp] theorem State.onSt_nextUid (s : State) (f : Stream → Stream) : (s.onSt f).nextUid = s.nextUid := rfl
@[simp] theorem State.onSt_nextCmd (s : State) (f : Stream → Stream) : (s.onSt f).nextCmd = s.nextCmd := rfl
@[simp] theorem State.onSt_nextLaunch (s : State) (f : Stream → Stream) : (s.onSt f).nextLaunch = s.nextLaunch := rfl
@[simp] theorem State.onSt_mem (s : State) (f : Stream → Stream) : (s.onSt f).mem = s.mem := rfl
@[simp] theorem State.onSt_tlb (s : State) (f : Stream → Stream) : (s.onSt f).tlb = s.tlb := rfl
@[simp] theorem State.onSt_dies (s : State) (f : Stream → Stream) : (s.onSt f).dies = s.dies := rfl
@[simp] theorem State.onSt_epsmax (s : State) (f : Stream → Stream) : (s.onSt f).epsmax = s.epsmax := rfl
@[simp] theorem State.onSt_vwater (s : State) (f : Stream → Stream) : (s.onSt f).vwater = s.vwater := rfl
@[simp] theorem State.onSt_safemax (s : State) (f : Stream → Stream) : (s.onSt f).safemax = s.safemax := rfl
@[simp] theorem State.onSt_age (s : State) (f : Stream → Stream) : (s.onSt f).age = s.age := rfl
@[simp] theorem State.onSt_launches (s : State) (f : Stream → Stream) : (s.onSt f).launches = s.launches := rfl
@[simp] theorem State.onSt_owners (s : State) (f : Stream → Stream) : (s.onSt f).owners = s.owners := rfl
@[simp] theorem State.onSt_parked (s : State) (f : Stream → Stream) : (s.onSt f).parked = s.parked := rfl
@[simp] theorem State.onSt_relsets (s : State) (f : Stream → Stream) : (s.onSt f).relsets = s.relsets := rfl
@[simp] theorem State.onSt_vdoms (s : State) (f : Stream → Stream) : (s.onSt f).vdoms = s.vdoms := rfl
@[simp] theorem State.onSt_tileVers (s : State) (f : Stream → Stream) : (s.onSt f).tileVers = s.tileVers := rfl
@[simp] theorem State.onSt_reclaimed (s : State) (f : Stream → Stream) : (s.onSt f).reclaimed = s.reclaimed := rfl
@[simp] theorem State.onSt_recs (s : State) (f : Stream → Stream) : (s.onSt f).recs = s.recs := rfl
@[simp] theorem State.onSt_bars (s : State) (f : Stream → Stream) : (s.onSt f).bars = s.bars := rfl
@[simp] theorem State.onSt_aonHolds (s : State) (f : Stream → Stream) : (s.onSt f).aonHolds = s.aonHolds := rfl
@[simp] theorem State.onSt_entries (s : State) (f : Stream → Stream) : (s.onSt f).entries = s.entries := rfl
@[simp] theorem State.onSt_host (s : State) (f : Stream → Stream) : (s.onSt f).host = s.host := rfl
@[simp] theorem State.onSt_desc (s : State) (f : Stream → Stream) : (s.onSt f).desc = s.desc := rfl
@[simp] theorem State.onSt_fabric (s : State) (f : Stream → Stream) : (s.onSt f).fabric = s.fabric := rfl
@[simp] theorem State.onSt_torus (s : State) (f : Stream → Stream) : (s.onSt f).torus = s.torus := rfl
@[simp] theorem State.onSt_coords (s : State) (f : Stream → Stream) : (s.onSt f).coords = s.coords := rfl
@[simp] theorem State.onSt_booted (s : State) (f : Stream → Stream) : (s.onSt f).booted = s.booted := rfl
@[simp] theorem State.onSt_now (s : State) (f : Stream → Stream) : (s.onSt f).now = s.now := rfl
@[simp] theorem State.onSt_mhz (s : State) (f : Stream → Stream) : (s.onSt f).mhz = s.mhz := rfl
@[simp] theorem State.onSt_quotes (s : State) (f : Stream → Stream) : (s.onSt f).quotes = s.quotes := rfl
@[simp] theorem State.onSt_saved (s : State) (f : Stream → Stream) : (s.onSt f).saved = s.saved := rfl

/-! ## State.storeBytes -/

@[simp] theorem State.storeBytes_job (s : State) (k : Nat) (bs : List Byte) : (s.storeBytes k bs).job = s.job := rfl
@[simp] theorem State.storeBytes_others (s : State) (k : Nat) (bs : List Byte) : (s.storeBytes k bs).others = s.others := rfl
@[simp] theorem State.storeBytes_cur (s : State) (k : Nat) (bs : List Byte) : (s.storeBytes k bs).cur = s.cur := rfl
@[simp] theorem State.storeBytes_agenda (s : State) (k : Nat) (bs : List Byte) : (s.storeBytes k bs).agenda = s.agenda := rfl
@[simp] theorem State.storeBytes_bad (s : State) (k : Nat) (bs : List Byte) : (s.storeBytes k bs).bad = s.bad := rfl
@[simp] theorem State.storeBytes_turns (s : State) (k : Nat) (bs : List Byte) : (s.storeBytes k bs).turns = s.turns := rfl
@[simp] theorem State.storeBytes_fresh (s : State) (k : Nat) (bs : List Byte) : (s.storeBytes k bs).fresh = s.fresh := rfl
@[simp] theorem State.storeBytes_nextUid (s : State) (k : Nat) (bs : List Byte) : (s.storeBytes k bs).nextUid = s.nextUid := rfl
@[simp] theorem State.storeBytes_nextCmd (s : State) (k : Nat) (bs : List Byte) : (s.storeBytes k bs).nextCmd = s.nextCmd := rfl
@[simp] theorem State.storeBytes_nextLaunch (s : State) (k : Nat) (bs : List Byte) : (s.storeBytes k bs).nextLaunch = s.nextLaunch := rfl
@[simp] theorem State.storeBytes_tlb (s : State) (k : Nat) (bs : List Byte) : (s.storeBytes k bs).tlb = s.tlb := rfl
@[simp] theorem State.storeBytes_dies (s : State) (k : Nat) (bs : List Byte) : (s.storeBytes k bs).dies = s.dies := rfl
@[simp] theorem State.storeBytes_epsmax (s : State) (k : Nat) (bs : List Byte) : (s.storeBytes k bs).epsmax = s.epsmax := rfl
@[simp] theorem State.storeBytes_vwater (s : State) (k : Nat) (bs : List Byte) : (s.storeBytes k bs).vwater = s.vwater := rfl
@[simp] theorem State.storeBytes_safemax (s : State) (k : Nat) (bs : List Byte) : (s.storeBytes k bs).safemax = s.safemax := rfl
@[simp] theorem State.storeBytes_age (s : State) (k : Nat) (bs : List Byte) : (s.storeBytes k bs).age = s.age := rfl
@[simp] theorem State.storeBytes_launches (s : State) (k : Nat) (bs : List Byte) : (s.storeBytes k bs).launches = s.launches := rfl
@[simp] theorem State.storeBytes_owners (s : State) (k : Nat) (bs : List Byte) : (s.storeBytes k bs).owners = s.owners := rfl
@[simp] theorem State.storeBytes_parked (s : State) (k : Nat) (bs : List Byte) : (s.storeBytes k bs).parked = s.parked := rfl
@[simp] theorem State.storeBytes_relsets (s : State) (k : Nat) (bs : List Byte) : (s.storeBytes k bs).relsets = s.relsets := rfl
@[simp] theorem State.storeBytes_vdoms (s : State) (k : Nat) (bs : List Byte) : (s.storeBytes k bs).vdoms = s.vdoms := rfl
@[simp] theorem State.storeBytes_tileVers (s : State) (k : Nat) (bs : List Byte) : (s.storeBytes k bs).tileVers = s.tileVers := rfl
@[simp] theorem State.storeBytes_reclaimed (s : State) (k : Nat) (bs : List Byte) : (s.storeBytes k bs).reclaimed = s.reclaimed := rfl
@[simp] theorem State.storeBytes_recs (s : State) (k : Nat) (bs : List Byte) : (s.storeBytes k bs).recs = s.recs := rfl
@[simp] theorem State.storeBytes_bars (s : State) (k : Nat) (bs : List Byte) : (s.storeBytes k bs).bars = s.bars := rfl
@[simp] theorem State.storeBytes_aonHolds (s : State) (k : Nat) (bs : List Byte) : (s.storeBytes k bs).aonHolds = s.aonHolds := rfl
@[simp] theorem State.storeBytes_entries (s : State) (k : Nat) (bs : List Byte) : (s.storeBytes k bs).entries = s.entries := rfl
@[simp] theorem State.storeBytes_host (s : State) (k : Nat) (bs : List Byte) : (s.storeBytes k bs).host = s.host := rfl
@[simp] theorem State.storeBytes_desc (s : State) (k : Nat) (bs : List Byte) : (s.storeBytes k bs).desc = s.desc := rfl
@[simp] theorem State.storeBytes_fabric (s : State) (k : Nat) (bs : List Byte) : (s.storeBytes k bs).fabric = s.fabric := rfl
@[simp] theorem State.storeBytes_torus (s : State) (k : Nat) (bs : List Byte) : (s.storeBytes k bs).torus = s.torus := rfl
@[simp] theorem State.storeBytes_coords (s : State) (k : Nat) (bs : List Byte) : (s.storeBytes k bs).coords = s.coords := rfl
@[simp] theorem State.storeBytes_booted (s : State) (k : Nat) (bs : List Byte) : (s.storeBytes k bs).booted = s.booted := rfl
@[simp] theorem State.storeBytes_now (s : State) (k : Nat) (bs : List Byte) : (s.storeBytes k bs).now = s.now := rfl
@[simp] theorem State.storeBytes_mhz (s : State) (k : Nat) (bs : List Byte) : (s.storeBytes k bs).mhz = s.mhz := rfl
@[simp] theorem State.storeBytes_quotes (s : State) (k : Nat) (bs : List Byte) : (s.storeBytes k bs).quotes = s.quotes := rfl
@[simp] theorem State.storeBytes_saved (s : State) (k : Nat) (bs : List Byte) : (s.storeBytes k bs).saved = s.saved := rfl

/-! ## State.onDie -/

@[simp] theorem State.onDie_job (s : State) (d : Fin 4) (f : Die → Die) : (s.onDie d f).job = s.job := rfl
@[simp] theorem State.onDie_others (s : State) (d : Fin 4) (f : Die → Die) : (s.onDie d f).others = s.others := rfl
@[simp] theorem State.onDie_cur (s : State) (d : Fin 4) (f : Die → Die) : (s.onDie d f).cur = s.cur := rfl
@[simp] theorem State.onDie_agenda (s : State) (d : Fin 4) (f : Die → Die) : (s.onDie d f).agenda = s.agenda := rfl
@[simp] theorem State.onDie_bad (s : State) (d : Fin 4) (f : Die → Die) : (s.onDie d f).bad = s.bad := rfl
@[simp] theorem State.onDie_turns (s : State) (d : Fin 4) (f : Die → Die) : (s.onDie d f).turns = s.turns := rfl
@[simp] theorem State.onDie_fresh (s : State) (d : Fin 4) (f : Die → Die) : (s.onDie d f).fresh = s.fresh := rfl
@[simp] theorem State.onDie_nextUid (s : State) (d : Fin 4) (f : Die → Die) : (s.onDie d f).nextUid = s.nextUid := rfl
@[simp] theorem State.onDie_nextCmd (s : State) (d : Fin 4) (f : Die → Die) : (s.onDie d f).nextCmd = s.nextCmd := rfl
@[simp] theorem State.onDie_nextLaunch (s : State) (d : Fin 4) (f : Die → Die) : (s.onDie d f).nextLaunch = s.nextLaunch := rfl
@[simp] theorem State.onDie_mem (s : State) (d : Fin 4) (f : Die → Die) : (s.onDie d f).mem = s.mem := rfl
@[simp] theorem State.onDie_tlb (s : State) (d : Fin 4) (f : Die → Die) : (s.onDie d f).tlb = s.tlb := rfl
@[simp] theorem State.onDie_epsmax (s : State) (d : Fin 4) (f : Die → Die) : (s.onDie d f).epsmax = s.epsmax := rfl
@[simp] theorem State.onDie_vwater (s : State) (d : Fin 4) (f : Die → Die) : (s.onDie d f).vwater = s.vwater := rfl
@[simp] theorem State.onDie_safemax (s : State) (d : Fin 4) (f : Die → Die) : (s.onDie d f).safemax = s.safemax := rfl
@[simp] theorem State.onDie_age (s : State) (d : Fin 4) (f : Die → Die) : (s.onDie d f).age = s.age := rfl
@[simp] theorem State.onDie_launches (s : State) (d : Fin 4) (f : Die → Die) : (s.onDie d f).launches = s.launches := rfl
@[simp] theorem State.onDie_owners (s : State) (d : Fin 4) (f : Die → Die) : (s.onDie d f).owners = s.owners := rfl
@[simp] theorem State.onDie_parked (s : State) (d : Fin 4) (f : Die → Die) : (s.onDie d f).parked = s.parked := rfl
@[simp] theorem State.onDie_relsets (s : State) (d : Fin 4) (f : Die → Die) : (s.onDie d f).relsets = s.relsets := rfl
@[simp] theorem State.onDie_vdoms (s : State) (d : Fin 4) (f : Die → Die) : (s.onDie d f).vdoms = s.vdoms := rfl
@[simp] theorem State.onDie_tileVers (s : State) (d : Fin 4) (f : Die → Die) : (s.onDie d f).tileVers = s.tileVers := rfl
@[simp] theorem State.onDie_reclaimed (s : State) (d : Fin 4) (f : Die → Die) : (s.onDie d f).reclaimed = s.reclaimed := rfl
@[simp] theorem State.onDie_recs (s : State) (d : Fin 4) (f : Die → Die) : (s.onDie d f).recs = s.recs := rfl
@[simp] theorem State.onDie_bars (s : State) (d : Fin 4) (f : Die → Die) : (s.onDie d f).bars = s.bars := rfl
@[simp] theorem State.onDie_aonHolds (s : State) (d : Fin 4) (f : Die → Die) : (s.onDie d f).aonHolds = s.aonHolds := rfl
@[simp] theorem State.onDie_entries (s : State) (d : Fin 4) (f : Die → Die) : (s.onDie d f).entries = s.entries := rfl
@[simp] theorem State.onDie_host (s : State) (d : Fin 4) (f : Die → Die) : (s.onDie d f).host = s.host := rfl
@[simp] theorem State.onDie_desc (s : State) (d : Fin 4) (f : Die → Die) : (s.onDie d f).desc = s.desc := rfl
@[simp] theorem State.onDie_fabric (s : State) (d : Fin 4) (f : Die → Die) : (s.onDie d f).fabric = s.fabric := rfl
@[simp] theorem State.onDie_torus (s : State) (d : Fin 4) (f : Die → Die) : (s.onDie d f).torus = s.torus := rfl
@[simp] theorem State.onDie_coords (s : State) (d : Fin 4) (f : Die → Die) : (s.onDie d f).coords = s.coords := rfl
@[simp] theorem State.onDie_booted (s : State) (d : Fin 4) (f : Die → Die) : (s.onDie d f).booted = s.booted := rfl
@[simp] theorem State.onDie_now (s : State) (d : Fin 4) (f : Die → Die) : (s.onDie d f).now = s.now := rfl
@[simp] theorem State.onDie_mhz (s : State) (d : Fin 4) (f : Die → Die) : (s.onDie d f).mhz = s.mhz := rfl
@[simp] theorem State.onDie_quotes (s : State) (d : Fin 4) (f : Die → Die) : (s.onDie d f).quotes = s.quotes := rfl
@[simp] theorem State.onDie_saved (s : State) (d : Fin 4) (f : Die → Die) : (s.onDie d f).saved = s.saved := rfl

/-! ## State.onHost -/

@[simp] theorem State.onHost_job (s : State) (f : HostWin → HostWin) : (s.onHost f).job = s.job := rfl
@[simp] theorem State.onHost_others (s : State) (f : HostWin → HostWin) : (s.onHost f).others = s.others := rfl
@[simp] theorem State.onHost_cur (s : State) (f : HostWin → HostWin) : (s.onHost f).cur = s.cur := rfl
@[simp] theorem State.onHost_agenda (s : State) (f : HostWin → HostWin) : (s.onHost f).agenda = s.agenda := rfl
@[simp] theorem State.onHost_bad (s : State) (f : HostWin → HostWin) : (s.onHost f).bad = s.bad := rfl
@[simp] theorem State.onHost_turns (s : State) (f : HostWin → HostWin) : (s.onHost f).turns = s.turns := rfl
@[simp] theorem State.onHost_fresh (s : State) (f : HostWin → HostWin) : (s.onHost f).fresh = s.fresh := rfl
@[simp] theorem State.onHost_nextUid (s : State) (f : HostWin → HostWin) : (s.onHost f).nextUid = s.nextUid := rfl
@[simp] theorem State.onHost_nextCmd (s : State) (f : HostWin → HostWin) : (s.onHost f).nextCmd = s.nextCmd := rfl
@[simp] theorem State.onHost_nextLaunch (s : State) (f : HostWin → HostWin) : (s.onHost f).nextLaunch = s.nextLaunch := rfl
@[simp] theorem State.onHost_mem (s : State) (f : HostWin → HostWin) : (s.onHost f).mem = s.mem := rfl
@[simp] theorem State.onHost_tlb (s : State) (f : HostWin → HostWin) : (s.onHost f).tlb = s.tlb := rfl
@[simp] theorem State.onHost_dies (s : State) (f : HostWin → HostWin) : (s.onHost f).dies = s.dies := rfl
@[simp] theorem State.onHost_epsmax (s : State) (f : HostWin → HostWin) : (s.onHost f).epsmax = s.epsmax := rfl
@[simp] theorem State.onHost_vwater (s : State) (f : HostWin → HostWin) : (s.onHost f).vwater = s.vwater := rfl
@[simp] theorem State.onHost_safemax (s : State) (f : HostWin → HostWin) : (s.onHost f).safemax = s.safemax := rfl
@[simp] theorem State.onHost_age (s : State) (f : HostWin → HostWin) : (s.onHost f).age = s.age := rfl
@[simp] theorem State.onHost_launches (s : State) (f : HostWin → HostWin) : (s.onHost f).launches = s.launches := rfl
@[simp] theorem State.onHost_owners (s : State) (f : HostWin → HostWin) : (s.onHost f).owners = s.owners := rfl
@[simp] theorem State.onHost_parked (s : State) (f : HostWin → HostWin) : (s.onHost f).parked = s.parked := rfl
@[simp] theorem State.onHost_relsets (s : State) (f : HostWin → HostWin) : (s.onHost f).relsets = s.relsets := rfl
@[simp] theorem State.onHost_vdoms (s : State) (f : HostWin → HostWin) : (s.onHost f).vdoms = s.vdoms := rfl
@[simp] theorem State.onHost_tileVers (s : State) (f : HostWin → HostWin) : (s.onHost f).tileVers = s.tileVers := rfl
@[simp] theorem State.onHost_reclaimed (s : State) (f : HostWin → HostWin) : (s.onHost f).reclaimed = s.reclaimed := rfl
@[simp] theorem State.onHost_recs (s : State) (f : HostWin → HostWin) : (s.onHost f).recs = s.recs := rfl
@[simp] theorem State.onHost_bars (s : State) (f : HostWin → HostWin) : (s.onHost f).bars = s.bars := rfl
@[simp] theorem State.onHost_aonHolds (s : State) (f : HostWin → HostWin) : (s.onHost f).aonHolds = s.aonHolds := rfl
@[simp] theorem State.onHost_entries (s : State) (f : HostWin → HostWin) : (s.onHost f).entries = s.entries := rfl
@[simp] theorem State.onHost_desc (s : State) (f : HostWin → HostWin) : (s.onHost f).desc = s.desc := rfl
@[simp] theorem State.onHost_fabric (s : State) (f : HostWin → HostWin) : (s.onHost f).fabric = s.fabric := rfl
@[simp] theorem State.onHost_torus (s : State) (f : HostWin → HostWin) : (s.onHost f).torus = s.torus := rfl
@[simp] theorem State.onHost_coords (s : State) (f : HostWin → HostWin) : (s.onHost f).coords = s.coords := rfl
@[simp] theorem State.onHost_booted (s : State) (f : HostWin → HostWin) : (s.onHost f).booted = s.booted := rfl
@[simp] theorem State.onHost_now (s : State) (f : HostWin → HostWin) : (s.onHost f).now = s.now := rfl
@[simp] theorem State.onHost_mhz (s : State) (f : HostWin → HostWin) : (s.onHost f).mhz = s.mhz := rfl
@[simp] theorem State.onHost_quotes (s : State) (f : HostWin → HostWin) : (s.onHost f).quotes = s.quotes := rfl
@[simp] theorem State.onHost_saved (s : State) (f : HostWin → HostWin) : (s.onHost f).saved = s.saved := rfl

/-! ## State.onFabric -/

@[simp] theorem State.onFabric_job (s : State) (f : Fabric → Fabric) : (s.onFabric f).job = s.job := rfl
@[simp] theorem State.onFabric_others (s : State) (f : Fabric → Fabric) : (s.onFabric f).others = s.others := rfl
@[simp] theorem State.onFabric_cur (s : State) (f : Fabric → Fabric) : (s.onFabric f).cur = s.cur := rfl
@[simp] theorem State.onFabric_agenda (s : State) (f : Fabric → Fabric) : (s.onFabric f).agenda = s.agenda := rfl
@[simp] theorem State.onFabric_bad (s : State) (f : Fabric → Fabric) : (s.onFabric f).bad = s.bad := rfl
@[simp] theorem State.onFabric_turns (s : State) (f : Fabric → Fabric) : (s.onFabric f).turns = s.turns := rfl
@[simp] theorem State.onFabric_fresh (s : State) (f : Fabric → Fabric) : (s.onFabric f).fresh = s.fresh := rfl
@[simp] theorem State.onFabric_nextUid (s : State) (f : Fabric → Fabric) : (s.onFabric f).nextUid = s.nextUid := rfl
@[simp] theorem State.onFabric_nextCmd (s : State) (f : Fabric → Fabric) : (s.onFabric f).nextCmd = s.nextCmd := rfl
@[simp] theorem State.onFabric_nextLaunch (s : State) (f : Fabric → Fabric) : (s.onFabric f).nextLaunch = s.nextLaunch := rfl
@[simp] theorem State.onFabric_mem (s : State) (f : Fabric → Fabric) : (s.onFabric f).mem = s.mem := rfl
@[simp] theorem State.onFabric_tlb (s : State) (f : Fabric → Fabric) : (s.onFabric f).tlb = s.tlb := rfl
@[simp] theorem State.onFabric_dies (s : State) (f : Fabric → Fabric) : (s.onFabric f).dies = s.dies := rfl
@[simp] theorem State.onFabric_epsmax (s : State) (f : Fabric → Fabric) : (s.onFabric f).epsmax = s.epsmax := rfl
@[simp] theorem State.onFabric_vwater (s : State) (f : Fabric → Fabric) : (s.onFabric f).vwater = s.vwater := rfl
@[simp] theorem State.onFabric_safemax (s : State) (f : Fabric → Fabric) : (s.onFabric f).safemax = s.safemax := rfl
@[simp] theorem State.onFabric_age (s : State) (f : Fabric → Fabric) : (s.onFabric f).age = s.age := rfl
@[simp] theorem State.onFabric_launches (s : State) (f : Fabric → Fabric) : (s.onFabric f).launches = s.launches := rfl
@[simp] theorem State.onFabric_owners (s : State) (f : Fabric → Fabric) : (s.onFabric f).owners = s.owners := rfl
@[simp] theorem State.onFabric_parked (s : State) (f : Fabric → Fabric) : (s.onFabric f).parked = s.parked := rfl
@[simp] theorem State.onFabric_relsets (s : State) (f : Fabric → Fabric) : (s.onFabric f).relsets = s.relsets := rfl
@[simp] theorem State.onFabric_vdoms (s : State) (f : Fabric → Fabric) : (s.onFabric f).vdoms = s.vdoms := rfl
@[simp] theorem State.onFabric_tileVers (s : State) (f : Fabric → Fabric) : (s.onFabric f).tileVers = s.tileVers := rfl
@[simp] theorem State.onFabric_reclaimed (s : State) (f : Fabric → Fabric) : (s.onFabric f).reclaimed = s.reclaimed := rfl
@[simp] theorem State.onFabric_recs (s : State) (f : Fabric → Fabric) : (s.onFabric f).recs = s.recs := rfl
@[simp] theorem State.onFabric_bars (s : State) (f : Fabric → Fabric) : (s.onFabric f).bars = s.bars := rfl
@[simp] theorem State.onFabric_aonHolds (s : State) (f : Fabric → Fabric) : (s.onFabric f).aonHolds = s.aonHolds := rfl
@[simp] theorem State.onFabric_entries (s : State) (f : Fabric → Fabric) : (s.onFabric f).entries = s.entries := rfl
@[simp] theorem State.onFabric_host (s : State) (f : Fabric → Fabric) : (s.onFabric f).host = s.host := rfl
@[simp] theorem State.onFabric_desc (s : State) (f : Fabric → Fabric) : (s.onFabric f).desc = s.desc := rfl
@[simp] theorem State.onFabric_torus (s : State) (f : Fabric → Fabric) : (s.onFabric f).torus = s.torus := rfl
@[simp] theorem State.onFabric_coords (s : State) (f : Fabric → Fabric) : (s.onFabric f).coords = s.coords := rfl
@[simp] theorem State.onFabric_booted (s : State) (f : Fabric → Fabric) : (s.onFabric f).booted = s.booted := rfl
@[simp] theorem State.onFabric_now (s : State) (f : Fabric → Fabric) : (s.onFabric f).now = s.now := rfl
@[simp] theorem State.onFabric_mhz (s : State) (f : Fabric → Fabric) : (s.onFabric f).mhz = s.mhz := rfl
@[simp] theorem State.onFabric_quotes (s : State) (f : Fabric → Fabric) : (s.onFabric f).quotes = s.quotes := rfl
@[simp] theorem State.onFabric_saved (s : State) (f : Fabric → Fabric) : (s.onFabric f).saved = s.saved := rfl

/-! ## State.onOwner -/

@[simp] theorem State.onOwner_job (s : State) (o : BitVec 16) (f : Owner → Owner) : (s.onOwner o f).job = s.job := rfl
@[simp] theorem State.onOwner_others (s : State) (o : BitVec 16) (f : Owner → Owner) : (s.onOwner o f).others = s.others := rfl
@[simp] theorem State.onOwner_cur (s : State) (o : BitVec 16) (f : Owner → Owner) : (s.onOwner o f).cur = s.cur := rfl
@[simp] theorem State.onOwner_agenda (s : State) (o : BitVec 16) (f : Owner → Owner) : (s.onOwner o f).agenda = s.agenda := rfl
@[simp] theorem State.onOwner_bad (s : State) (o : BitVec 16) (f : Owner → Owner) : (s.onOwner o f).bad = s.bad := rfl
@[simp] theorem State.onOwner_turns (s : State) (o : BitVec 16) (f : Owner → Owner) : (s.onOwner o f).turns = s.turns := rfl
@[simp] theorem State.onOwner_fresh (s : State) (o : BitVec 16) (f : Owner → Owner) : (s.onOwner o f).fresh = s.fresh := rfl
@[simp] theorem State.onOwner_nextUid (s : State) (o : BitVec 16) (f : Owner → Owner) : (s.onOwner o f).nextUid = s.nextUid := rfl
@[simp] theorem State.onOwner_nextCmd (s : State) (o : BitVec 16) (f : Owner → Owner) : (s.onOwner o f).nextCmd = s.nextCmd := rfl
@[simp] theorem State.onOwner_nextLaunch (s : State) (o : BitVec 16) (f : Owner → Owner) : (s.onOwner o f).nextLaunch = s.nextLaunch := rfl
@[simp] theorem State.onOwner_mem (s : State) (o : BitVec 16) (f : Owner → Owner) : (s.onOwner o f).mem = s.mem := rfl
@[simp] theorem State.onOwner_tlb (s : State) (o : BitVec 16) (f : Owner → Owner) : (s.onOwner o f).tlb = s.tlb := rfl
@[simp] theorem State.onOwner_dies (s : State) (o : BitVec 16) (f : Owner → Owner) : (s.onOwner o f).dies = s.dies := rfl
@[simp] theorem State.onOwner_epsmax (s : State) (o : BitVec 16) (f : Owner → Owner) : (s.onOwner o f).epsmax = s.epsmax := rfl
@[simp] theorem State.onOwner_vwater (s : State) (o : BitVec 16) (f : Owner → Owner) : (s.onOwner o f).vwater = s.vwater := rfl
@[simp] theorem State.onOwner_safemax (s : State) (o : BitVec 16) (f : Owner → Owner) : (s.onOwner o f).safemax = s.safemax := rfl
@[simp] theorem State.onOwner_age (s : State) (o : BitVec 16) (f : Owner → Owner) : (s.onOwner o f).age = s.age := rfl
@[simp] theorem State.onOwner_launches (s : State) (o : BitVec 16) (f : Owner → Owner) : (s.onOwner o f).launches = s.launches := rfl
@[simp] theorem State.onOwner_parked (s : State) (o : BitVec 16) (f : Owner → Owner) : (s.onOwner o f).parked = s.parked := rfl
@[simp] theorem State.onOwner_relsets (s : State) (o : BitVec 16) (f : Owner → Owner) : (s.onOwner o f).relsets = s.relsets := rfl
@[simp] theorem State.onOwner_vdoms (s : State) (o : BitVec 16) (f : Owner → Owner) : (s.onOwner o f).vdoms = s.vdoms := rfl
@[simp] theorem State.onOwner_tileVers (s : State) (o : BitVec 16) (f : Owner → Owner) : (s.onOwner o f).tileVers = s.tileVers := rfl
@[simp] theorem State.onOwner_reclaimed (s : State) (o : BitVec 16) (f : Owner → Owner) : (s.onOwner o f).reclaimed = s.reclaimed := rfl
@[simp] theorem State.onOwner_recs (s : State) (o : BitVec 16) (f : Owner → Owner) : (s.onOwner o f).recs = s.recs := rfl
@[simp] theorem State.onOwner_bars (s : State) (o : BitVec 16) (f : Owner → Owner) : (s.onOwner o f).bars = s.bars := rfl
@[simp] theorem State.onOwner_aonHolds (s : State) (o : BitVec 16) (f : Owner → Owner) : (s.onOwner o f).aonHolds = s.aonHolds := rfl
@[simp] theorem State.onOwner_entries (s : State) (o : BitVec 16) (f : Owner → Owner) : (s.onOwner o f).entries = s.entries := rfl
@[simp] theorem State.onOwner_host (s : State) (o : BitVec 16) (f : Owner → Owner) : (s.onOwner o f).host = s.host := rfl
@[simp] theorem State.onOwner_desc (s : State) (o : BitVec 16) (f : Owner → Owner) : (s.onOwner o f).desc = s.desc := rfl
@[simp] theorem State.onOwner_fabric (s : State) (o : BitVec 16) (f : Owner → Owner) : (s.onOwner o f).fabric = s.fabric := rfl
@[simp] theorem State.onOwner_torus (s : State) (o : BitVec 16) (f : Owner → Owner) : (s.onOwner o f).torus = s.torus := rfl
@[simp] theorem State.onOwner_coords (s : State) (o : BitVec 16) (f : Owner → Owner) : (s.onOwner o f).coords = s.coords := rfl
@[simp] theorem State.onOwner_booted (s : State) (o : BitVec 16) (f : Owner → Owner) : (s.onOwner o f).booted = s.booted := rfl
@[simp] theorem State.onOwner_now (s : State) (o : BitVec 16) (f : Owner → Owner) : (s.onOwner o f).now = s.now := rfl
@[simp] theorem State.onOwner_mhz (s : State) (o : BitVec 16) (f : Owner → Owner) : (s.onOwner o f).mhz = s.mhz := rfl
@[simp] theorem State.onOwner_quotes (s : State) (o : BitVec 16) (f : Owner → Owner) : (s.onOwner o f).quotes = s.quotes := rfl
@[simp] theorem State.onOwner_saved (s : State) (o : BitVec 16) (f : Owner → Owner) : (s.onOwner o f).saved = s.saved := rfl

/-! ## State.onLaunch -/

@[simp] theorem State.onLaunch_job (s : State) (id : Nat) (f : Launch → Launch) : (s.onLaunch id f).job = s.job := rfl
@[simp] theorem State.onLaunch_others (s : State) (id : Nat) (f : Launch → Launch) : (s.onLaunch id f).others = s.others := rfl
@[simp] theorem State.onLaunch_cur (s : State) (id : Nat) (f : Launch → Launch) : (s.onLaunch id f).cur = s.cur := rfl
@[simp] theorem State.onLaunch_agenda (s : State) (id : Nat) (f : Launch → Launch) : (s.onLaunch id f).agenda = s.agenda := rfl
@[simp] theorem State.onLaunch_bad (s : State) (id : Nat) (f : Launch → Launch) : (s.onLaunch id f).bad = s.bad := rfl
@[simp] theorem State.onLaunch_turns (s : State) (id : Nat) (f : Launch → Launch) : (s.onLaunch id f).turns = s.turns := rfl
@[simp] theorem State.onLaunch_fresh (s : State) (id : Nat) (f : Launch → Launch) : (s.onLaunch id f).fresh = s.fresh := rfl
@[simp] theorem State.onLaunch_nextUid (s : State) (id : Nat) (f : Launch → Launch) : (s.onLaunch id f).nextUid = s.nextUid := rfl
@[simp] theorem State.onLaunch_nextCmd (s : State) (id : Nat) (f : Launch → Launch) : (s.onLaunch id f).nextCmd = s.nextCmd := rfl
@[simp] theorem State.onLaunch_nextLaunch (s : State) (id : Nat) (f : Launch → Launch) : (s.onLaunch id f).nextLaunch = s.nextLaunch := rfl
@[simp] theorem State.onLaunch_mem (s : State) (id : Nat) (f : Launch → Launch) : (s.onLaunch id f).mem = s.mem := rfl
@[simp] theorem State.onLaunch_tlb (s : State) (id : Nat) (f : Launch → Launch) : (s.onLaunch id f).tlb = s.tlb := rfl
@[simp] theorem State.onLaunch_dies (s : State) (id : Nat) (f : Launch → Launch) : (s.onLaunch id f).dies = s.dies := rfl
@[simp] theorem State.onLaunch_epsmax (s : State) (id : Nat) (f : Launch → Launch) : (s.onLaunch id f).epsmax = s.epsmax := rfl
@[simp] theorem State.onLaunch_vwater (s : State) (id : Nat) (f : Launch → Launch) : (s.onLaunch id f).vwater = s.vwater := rfl
@[simp] theorem State.onLaunch_safemax (s : State) (id : Nat) (f : Launch → Launch) : (s.onLaunch id f).safemax = s.safemax := rfl
@[simp] theorem State.onLaunch_age (s : State) (id : Nat) (f : Launch → Launch) : (s.onLaunch id f).age = s.age := rfl
@[simp] theorem State.onLaunch_owners (s : State) (id : Nat) (f : Launch → Launch) : (s.onLaunch id f).owners = s.owners := rfl
@[simp] theorem State.onLaunch_parked (s : State) (id : Nat) (f : Launch → Launch) : (s.onLaunch id f).parked = s.parked := rfl
@[simp] theorem State.onLaunch_relsets (s : State) (id : Nat) (f : Launch → Launch) : (s.onLaunch id f).relsets = s.relsets := rfl
@[simp] theorem State.onLaunch_vdoms (s : State) (id : Nat) (f : Launch → Launch) : (s.onLaunch id f).vdoms = s.vdoms := rfl
@[simp] theorem State.onLaunch_tileVers (s : State) (id : Nat) (f : Launch → Launch) : (s.onLaunch id f).tileVers = s.tileVers := rfl
@[simp] theorem State.onLaunch_reclaimed (s : State) (id : Nat) (f : Launch → Launch) : (s.onLaunch id f).reclaimed = s.reclaimed := rfl
@[simp] theorem State.onLaunch_recs (s : State) (id : Nat) (f : Launch → Launch) : (s.onLaunch id f).recs = s.recs := rfl
@[simp] theorem State.onLaunch_bars (s : State) (id : Nat) (f : Launch → Launch) : (s.onLaunch id f).bars = s.bars := rfl
@[simp] theorem State.onLaunch_aonHolds (s : State) (id : Nat) (f : Launch → Launch) : (s.onLaunch id f).aonHolds = s.aonHolds := rfl
@[simp] theorem State.onLaunch_entries (s : State) (id : Nat) (f : Launch → Launch) : (s.onLaunch id f).entries = s.entries := rfl
@[simp] theorem State.onLaunch_host (s : State) (id : Nat) (f : Launch → Launch) : (s.onLaunch id f).host = s.host := rfl
@[simp] theorem State.onLaunch_desc (s : State) (id : Nat) (f : Launch → Launch) : (s.onLaunch id f).desc = s.desc := rfl
@[simp] theorem State.onLaunch_fabric (s : State) (id : Nat) (f : Launch → Launch) : (s.onLaunch id f).fabric = s.fabric := rfl
@[simp] theorem State.onLaunch_torus (s : State) (id : Nat) (f : Launch → Launch) : (s.onLaunch id f).torus = s.torus := rfl
@[simp] theorem State.onLaunch_coords (s : State) (id : Nat) (f : Launch → Launch) : (s.onLaunch id f).coords = s.coords := rfl
@[simp] theorem State.onLaunch_booted (s : State) (id : Nat) (f : Launch → Launch) : (s.onLaunch id f).booted = s.booted := rfl
@[simp] theorem State.onLaunch_now (s : State) (id : Nat) (f : Launch → Launch) : (s.onLaunch id f).now = s.now := rfl
@[simp] theorem State.onLaunch_mhz (s : State) (id : Nat) (f : Launch → Launch) : (s.onLaunch id f).mhz = s.mhz := rfl
@[simp] theorem State.onLaunch_quotes (s : State) (id : Nat) (f : Launch → Launch) : (s.onLaunch id f).quotes = s.quotes := rfl
@[simp] theorem State.onLaunch_saved (s : State) (id : Nat) (f : Launch → Launch) : (s.onLaunch id f).saved = s.saved := rfl

/-! ## State.onUid -/

@[simp] theorem State.onUid_cur (s : State) (u : Nat) (f : Job → Job) : (s.onUid u f).cur = s.cur := rfl
@[simp] theorem State.onUid_agenda (s : State) (u : Nat) (f : Job → Job) : (s.onUid u f).agenda = s.agenda := rfl
@[simp] theorem State.onUid_bad (s : State) (u : Nat) (f : Job → Job) : (s.onUid u f).bad = s.bad := rfl
@[simp] theorem State.onUid_turns (s : State) (u : Nat) (f : Job → Job) : (s.onUid u f).turns = s.turns := rfl
@[simp] theorem State.onUid_fresh (s : State) (u : Nat) (f : Job → Job) : (s.onUid u f).fresh = s.fresh := rfl
@[simp] theorem State.onUid_nextUid (s : State) (u : Nat) (f : Job → Job) : (s.onUid u f).nextUid = s.nextUid := rfl
@[simp] theorem State.onUid_nextCmd (s : State) (u : Nat) (f : Job → Job) : (s.onUid u f).nextCmd = s.nextCmd := rfl
@[simp] theorem State.onUid_nextLaunch (s : State) (u : Nat) (f : Job → Job) : (s.onUid u f).nextLaunch = s.nextLaunch := rfl
@[simp] theorem State.onUid_mem (s : State) (u : Nat) (f : Job → Job) : (s.onUid u f).mem = s.mem := rfl
@[simp] theorem State.onUid_tlb (s : State) (u : Nat) (f : Job → Job) : (s.onUid u f).tlb = s.tlb := rfl
@[simp] theorem State.onUid_dies (s : State) (u : Nat) (f : Job → Job) : (s.onUid u f).dies = s.dies := rfl
@[simp] theorem State.onUid_epsmax (s : State) (u : Nat) (f : Job → Job) : (s.onUid u f).epsmax = s.epsmax := rfl
@[simp] theorem State.onUid_vwater (s : State) (u : Nat) (f : Job → Job) : (s.onUid u f).vwater = s.vwater := rfl
@[simp] theorem State.onUid_safemax (s : State) (u : Nat) (f : Job → Job) : (s.onUid u f).safemax = s.safemax := rfl
@[simp] theorem State.onUid_age (s : State) (u : Nat) (f : Job → Job) : (s.onUid u f).age = s.age := rfl
@[simp] theorem State.onUid_launches (s : State) (u : Nat) (f : Job → Job) : (s.onUid u f).launches = s.launches := rfl
@[simp] theorem State.onUid_owners (s : State) (u : Nat) (f : Job → Job) : (s.onUid u f).owners = s.owners := rfl
@[simp] theorem State.onUid_parked (s : State) (u : Nat) (f : Job → Job) : (s.onUid u f).parked = s.parked := rfl
@[simp] theorem State.onUid_relsets (s : State) (u : Nat) (f : Job → Job) : (s.onUid u f).relsets = s.relsets := rfl
@[simp] theorem State.onUid_vdoms (s : State) (u : Nat) (f : Job → Job) : (s.onUid u f).vdoms = s.vdoms := rfl
@[simp] theorem State.onUid_tileVers (s : State) (u : Nat) (f : Job → Job) : (s.onUid u f).tileVers = s.tileVers := rfl
@[simp] theorem State.onUid_reclaimed (s : State) (u : Nat) (f : Job → Job) : (s.onUid u f).reclaimed = s.reclaimed := rfl
@[simp] theorem State.onUid_recs (s : State) (u : Nat) (f : Job → Job) : (s.onUid u f).recs = s.recs := rfl
@[simp] theorem State.onUid_bars (s : State) (u : Nat) (f : Job → Job) : (s.onUid u f).bars = s.bars := rfl
@[simp] theorem State.onUid_aonHolds (s : State) (u : Nat) (f : Job → Job) : (s.onUid u f).aonHolds = s.aonHolds := rfl
@[simp] theorem State.onUid_entries (s : State) (u : Nat) (f : Job → Job) : (s.onUid u f).entries = s.entries := rfl
@[simp] theorem State.onUid_host (s : State) (u : Nat) (f : Job → Job) : (s.onUid u f).host = s.host := rfl
@[simp] theorem State.onUid_desc (s : State) (u : Nat) (f : Job → Job) : (s.onUid u f).desc = s.desc := rfl
@[simp] theorem State.onUid_fabric (s : State) (u : Nat) (f : Job → Job) : (s.onUid u f).fabric = s.fabric := rfl
@[simp] theorem State.onUid_torus (s : State) (u : Nat) (f : Job → Job) : (s.onUid u f).torus = s.torus := rfl
@[simp] theorem State.onUid_coords (s : State) (u : Nat) (f : Job → Job) : (s.onUid u f).coords = s.coords := rfl
@[simp] theorem State.onUid_booted (s : State) (u : Nat) (f : Job → Job) : (s.onUid u f).booted = s.booted := rfl
@[simp] theorem State.onUid_now (s : State) (u : Nat) (f : Job → Job) : (s.onUid u f).now = s.now := rfl
@[simp] theorem State.onUid_mhz (s : State) (u : Nat) (f : Job → Job) : (s.onUid u f).mhz = s.mhz := rfl
@[simp] theorem State.onUid_quotes (s : State) (u : Nat) (f : Job → Job) : (s.onUid u f).quotes = s.quotes := rfl

/-! ## State.mapJobs -/

@[simp] theorem State.mapJobs_cur (s : State) (f : Job → Job) : (s.mapJobs f).cur = s.cur := rfl
@[simp] theorem State.mapJobs_agenda (s : State) (f : Job → Job) : (s.mapJobs f).agenda = s.agenda := rfl
@[simp] theorem State.mapJobs_bad (s : State) (f : Job → Job) : (s.mapJobs f).bad = s.bad := rfl
@[simp] theorem State.mapJobs_turns (s : State) (f : Job → Job) : (s.mapJobs f).turns = s.turns := rfl
@[simp] theorem State.mapJobs_fresh (s : State) (f : Job → Job) : (s.mapJobs f).fresh = s.fresh := rfl
@[simp] theorem State.mapJobs_nextUid (s : State) (f : Job → Job) : (s.mapJobs f).nextUid = s.nextUid := rfl
@[simp] theorem State.mapJobs_nextCmd (s : State) (f : Job → Job) : (s.mapJobs f).nextCmd = s.nextCmd := rfl
@[simp] theorem State.mapJobs_nextLaunch (s : State) (f : Job → Job) : (s.mapJobs f).nextLaunch = s.nextLaunch := rfl
@[simp] theorem State.mapJobs_mem (s : State) (f : Job → Job) : (s.mapJobs f).mem = s.mem := rfl
@[simp] theorem State.mapJobs_tlb (s : State) (f : Job → Job) : (s.mapJobs f).tlb = s.tlb := rfl
@[simp] theorem State.mapJobs_dies (s : State) (f : Job → Job) : (s.mapJobs f).dies = s.dies := rfl
@[simp] theorem State.mapJobs_epsmax (s : State) (f : Job → Job) : (s.mapJobs f).epsmax = s.epsmax := rfl
@[simp] theorem State.mapJobs_vwater (s : State) (f : Job → Job) : (s.mapJobs f).vwater = s.vwater := rfl
@[simp] theorem State.mapJobs_safemax (s : State) (f : Job → Job) : (s.mapJobs f).safemax = s.safemax := rfl
@[simp] theorem State.mapJobs_age (s : State) (f : Job → Job) : (s.mapJobs f).age = s.age := rfl
@[simp] theorem State.mapJobs_launches (s : State) (f : Job → Job) : (s.mapJobs f).launches = s.launches := rfl
@[simp] theorem State.mapJobs_owners (s : State) (f : Job → Job) : (s.mapJobs f).owners = s.owners := rfl
@[simp] theorem State.mapJobs_parked (s : State) (f : Job → Job) : (s.mapJobs f).parked = s.parked := rfl
@[simp] theorem State.mapJobs_relsets (s : State) (f : Job → Job) : (s.mapJobs f).relsets = s.relsets := rfl
@[simp] theorem State.mapJobs_vdoms (s : State) (f : Job → Job) : (s.mapJobs f).vdoms = s.vdoms := rfl
@[simp] theorem State.mapJobs_tileVers (s : State) (f : Job → Job) : (s.mapJobs f).tileVers = s.tileVers := rfl
@[simp] theorem State.mapJobs_reclaimed (s : State) (f : Job → Job) : (s.mapJobs f).reclaimed = s.reclaimed := rfl
@[simp] theorem State.mapJobs_recs (s : State) (f : Job → Job) : (s.mapJobs f).recs = s.recs := rfl
@[simp] theorem State.mapJobs_bars (s : State) (f : Job → Job) : (s.mapJobs f).bars = s.bars := rfl
@[simp] theorem State.mapJobs_aonHolds (s : State) (f : Job → Job) : (s.mapJobs f).aonHolds = s.aonHolds := rfl
@[simp] theorem State.mapJobs_entries (s : State) (f : Job → Job) : (s.mapJobs f).entries = s.entries := rfl
@[simp] theorem State.mapJobs_host (s : State) (f : Job → Job) : (s.mapJobs f).host = s.host := rfl
@[simp] theorem State.mapJobs_desc (s : State) (f : Job → Job) : (s.mapJobs f).desc = s.desc := rfl
@[simp] theorem State.mapJobs_fabric (s : State) (f : Job → Job) : (s.mapJobs f).fabric = s.fabric := rfl
@[simp] theorem State.mapJobs_torus (s : State) (f : Job → Job) : (s.mapJobs f).torus = s.torus := rfl
@[simp] theorem State.mapJobs_coords (s : State) (f : Job → Job) : (s.mapJobs f).coords = s.coords := rfl
@[simp] theorem State.mapJobs_booted (s : State) (f : Job → Job) : (s.mapJobs f).booted = s.booted := rfl
@[simp] theorem State.mapJobs_now (s : State) (f : Job → Job) : (s.mapJobs f).now = s.now := rfl
@[simp] theorem State.mapJobs_mhz (s : State) (f : Job → Job) : (s.mapJobs f).mhz = s.mhz := rfl
@[simp] theorem State.mapJobs_quotes (s : State) (f : Job → Job) : (s.mapJobs f).quotes = s.quotes := rfl
@[simp] theorem State.mapJobs_saved (s : State) (f : Job → Job) : (s.mapJobs f).saved = s.saved := rfl

@[simp] theorem State.setJob_job (s : State) (j : Job) : (s.setJob j).job = j := rfl
@[simp] theorem State.setSt_job (s : State) (t : Stream) : (s.setSt t).job = s.job.setStream s.cur t := rfl
@[simp] theorem State.onJob_job (s : State) (f : Job → Job) : (s.onJob f).job = f s.job := rfl
@[simp] theorem State.onSt_job (s : State) (f : Stream → Stream) : (s.onSt f).job = s.job.setStream s.cur (f s.st) := rfl
@[simp] theorem State.storeBytes_mem (s : State) (k : Nat) (bs : List Byte) : (s.storeBytes k bs).mem = memWrite s.mem k bs := rfl

/-! ## Job.setStream -/

@[simp] theorem Job.setStream_core (j : Job) (x : StreamId) (t : Stream) : (j.setStream x t).core = j.core := by cases x <;> rfl
@[simp] theorem Job.setStream_uid (j : Job) (x : StreamId) (t : Stream) : (j.setStream x t).uid = j.uid := by cases x <;> rfl
@[simp] theorem Job.setStream_phase (j : Job) (x : StreamId) (t : Stream) : (j.setStream x t).phase = j.phase := by cases x <;> rfl
@[simp] theorem Job.setStream_launch (j : Job) (x : StreamId) (t : Stream) : (j.setStream x t).launch = j.launch := by cases x <;> rfl
@[simp] theorem Job.setStream_depth (j : Job) (x : StreamId) (t : Stream) : (j.setStream x t).depth = j.depth := by cases x <;> rfl
@[simp] theorem Job.setStream_lid (j : Job) (x : StreamId) (t : Stream) : (j.setStream x t).lid = j.lid := by cases x <;> rfl
@[simp] theorem Job.setStream_owner (j : Job) (x : StreamId) (t : Stream) : (j.setStream x t).owner = j.owner := by cases x <;> rfl
@[simp] theorem Job.setStream_sliceLo (j : Job) (x : StreamId) (t : Stream) : (j.setStream x t).sliceLo = j.sliceLo := by cases x <;> rfl
@[simp] theorem Job.setStream_sliceHi (j : Job) (x : StreamId) (t : Stream) : (j.setStream x t).sliceHi = j.sliceHi := by cases x <;> rfl
@[simp] theorem Job.setStream_clusterNo (j : Job) (x : StreamId) (t : Stream) : (j.setStream x t).clusterNo = j.clusterNo := by cases x <;> rfl
@[simp] theorem Job.setStream_dieNo (j : Job) (x : StreamId) (t : Stream) : (j.setStream x t).dieNo = j.dieNo := by cases x <;> rfl
@[simp] theorem Job.setStream_pkgNo (j : Job) (x : StreamId) (t : Stream) : (j.setStream x t).pkgNo = j.pkgNo := by cases x <;> rfl
@[simp] theorem Job.setStream_grantNo (j : Job) (x : StreamId) (t : Stream) : (j.setStream x t).grantNo = j.grantNo := by cases x <;> rfl
@[simp] theorem Job.setStream_gangNo (j : Job) (x : StreamId) (t : Stream) : (j.setStream x t).gangNo = j.gangNo := by cases x <;> rfl
@[simp] theorem Job.setStream_gangPos (j : Job) (x : StreamId) (t : Stream) : (j.setStream x t).gangPos = j.gangPos := by cases x <;> rfl
@[simp] theorem Job.setStream_gangSize (j : Job) (x : StreamId) (t : Stream) : (j.setStream x t).gangSize = j.gangSize := by cases x <;> rfl
@[simp] theorem Job.setStream_coscope (j : Job) (x : StreamId) (t : Stream) : (j.setStream x t).coscope = j.coscope := by cases x <;> rfl
@[simp] theorem Job.setStream_strict (j : Job) (x : StreamId) (t : Stream) : (j.setStream x t).strict = j.strict := by cases x <;> rfl
@[simp] theorem Job.setStream_multi (j : Job) (x : StreamId) (t : Stream) : (j.setStream x t).multi = j.multi := by cases x <;> rfl
@[simp] theorem Job.setStream_pipeline (j : Job) (x : StreamId) (t : Stream) : (j.setStream x t).pipeline = j.pipeline := by cases x <;> rfl
@[simp] theorem Job.setStream_vdom (j : Job) (x : StreamId) (t : Stream) : (j.setStream x t).vdom = j.vdom := by cases x <;> rfl
@[simp] theorem Job.setStream_scrlog (j : Job) (x : StreamId) (t : Stream) : (j.setStream x t).scrlog = j.scrlog := by cases x <;> rfl
@[simp] theorem Job.setStream_codeva (j : Job) (x : StreamId) (t : Stream) : (j.setStream x t).codeva = j.codeva := by cases x <;> rfl
@[simp] theorem Job.setStream_segs (j : Job) (x : StreamId) (t : Stream) : (j.setStream x t).segs = j.segs := by cases x <;> rfl
@[simp] theorem Job.setStream_vregs (j : Job) (x : StreamId) (t : Stream) : (j.setStream x t).vregs = j.vregs := by cases x <;> rfl
@[simp] theorem Job.setStream_pregs (j : Job) (x : StreamId) (t : Stream) : (j.setStream x t).pregs = j.pregs := by cases x <;> rfl
@[simp] theorem Job.setStream_vspill (j : Job) (x : StreamId) (t : Stream) : (j.setStream x t).vspill = j.vspill := by cases x <;> rfl
@[simp] theorem Job.setStream_acc (j : Job) (x : StreamId) (t : Stream) : (j.setStream x t).acc = j.acc := by cases x <;> rfl
@[simp] theorem Job.setStream_accv (j : Job) (x : StreamId) (t : Stream) : (j.setStream x t).accv = j.accv := by cases x <;> rfl
@[simp] theorem Job.setStream_heldA (j : Job) (x : StreamId) (t : Stream) : (j.setStream x t).heldA = j.heldA := by cases x <;> rfl
@[simp] theorem Job.setStream_cc (j : Job) (x : StreamId) (t : Stream) : (j.setStream x t).cc = j.cc := by cases x <;> rfl
@[simp] theorem Job.setStream_consumed (j : Job) (x : StreamId) (t : Stream) : (j.setStream x t).consumed = j.consumed := by cases x <;> rfl
@[simp] theorem Job.setStream_launchPosts (j : Job) (x : StreamId) (t : Stream) : (j.setStream x t).launchPosts = j.launchPosts := by cases x <;> rfl
@[simp] theorem Job.setStream_tokens (j : Job) (x : StreamId) (t : Stream) : (j.setStream x t).tokens = j.tokens := by cases x <;> rfl
@[simp] theorem Job.setStream_queues (j : Job) (x : StreamId) (t : Stream) : (j.setStream x t).queues = j.queues := by cases x <;> rfl
@[simp] theorem Job.setStream_flow (j : Job) (x : StreamId) (t : Stream) : (j.setStream x t).flow = j.flow := by cases x <;> rfl
@[simp] theorem Job.setStream_seed (j : Job) (x : StreamId) (t : Stream) : (j.setStream x t).seed = j.seed := by cases x <;> rfl
@[simp] theorem Job.setStream_et (j : Job) (x : StreamId) (t : Stream) : (j.setStream x t).et = j.et := by cases x <;> rfl
@[simp] theorem Job.setStream_rsize (j : Job) (x : StreamId) (t : Stream) : (j.setStream x t).rsize = j.rsize := by cases x <;> rfl
@[simp] theorem Job.setStream_rlive (j : Job) (x : StreamId) (t : Stream) : (j.setStream x t).rlive = j.rlive := by cases x <;> rfl
@[simp] theorem Job.setStream_rbase (j : Job) (x : StreamId) (t : Stream) : (j.setStream x t).rbase = j.rbase := by cases x <;> rfl
@[simp] theorem Job.setStream_slotLive (j : Job) (x : StreamId) (t : Stream) : (j.setStream x t).slotLive = j.slotLive := by cases x <;> rfl
@[simp] theorem Job.setStream_deadrd (j : Job) (x : StreamId) (t : Stream) : (j.setStream x t).deadrd = j.deadrd := by cases x <;> rfl
@[simp] theorem Job.setStream_qdirty (j : Job) (x : StreamId) (t : Stream) : (j.setStream x t).qdirty = j.qdirty := by cases x <;> rfl
@[simp] theorem Job.setStream_qset (j : Job) (x : StreamId) (t : Stream) : (j.setStream x t).qset = j.qset := by cases x <;> rfl
@[simp] theorem Job.setStream_culture (j : Job) (x : StreamId) (t : Stream) : (j.setStream x t).culture = j.culture := by cases x <;> rfl
@[simp] theorem Job.setStream_dirtab (j : Job) (x : StreamId) (t : Stream) : (j.setStream x t).dirtab = j.dirtab := by cases x <;> rfl
@[simp] theorem Job.setStream_pvrPend (j : Job) (x : StreamId) (t : Stream) : (j.setStream x t).pvrPend = j.pvrPend := by cases x <;> rfl
@[simp] theorem Job.setStream_pvrNext (j : Job) (x : StreamId) (t : Stream) : (j.setStream x t).pvrNext = j.pvrNext := by cases x <;> rfl
@[simp] theorem Job.setStream_pvrCur (j : Job) (x : StreamId) (t : Stream) : (j.setStream x t).pvrCur = j.pvrCur := by cases x <;> rfl
@[simp] theorem Job.setStream_trapinfo (j : Job) (x : StreamId) (t : Stream) : (j.setStream x t).trapinfo = j.trapinfo := by cases x <;> rfl
@[simp] theorem Job.setStream_errcnt (j : Job) (x : StreamId) (t : Stream) : (j.setStream x t).errcnt = j.errcnt := by cases x <;> rfl
@[simp] theorem Job.setStream_errtrap (j : Job) (x : StreamId) (t : Stream) : (j.setStream x t).errtrap = j.errtrap := by cases x <;> rfl
@[simp] theorem Job.setStream_pressstall (j : Job) (x : StreamId) (t : Stream) : (j.setStream x t).pressstall = j.pressstall := by cases x <;> rfl
@[simp] theorem Job.setStream_ttbase (j : Job) (x : StreamId) (t : Stream) : (j.setStream x t).ttbase = j.ttbase := by cases x <;> rfl
@[simp] theorem Job.setStream_ceQ (j : Job) (x : StreamId) (t : Stream) : (j.setStream x t).ceQ = j.ceQ := by cases x <;> rfl
@[simp] theorem Job.setStream_mxQ (j : Job) (x : StreamId) (t : Stream) : (j.setStream x t).mxQ = j.mxQ := by cases x <;> rfl
@[simp] theorem Job.setStream_vqQ (j : Job) (x : StreamId) (t : Stream) : (j.setStream x t).vqQ = j.vqQ := by cases x <;> rfl
@[simp] theorem Job.setStream_preempt (j : Job) (x : StreamId) (t : Stream) : (j.setStream x t).preempt = j.preempt := by cases x <;> rfl
@[simp] theorem Job.setStream_epoch (j : Job) (x : StreamId) (t : Stream) : (j.setStream x t).epoch = j.epoch := by cases x <;> rfl
@[simp] theorem Job.setStream_touched (j : Job) (x : StreamId) (t : Stream) : (j.setStream x t).touched = j.touched := by cases x <;> rfl
@[simp] theorem Job.setStream_acq (j : Job) (x : StreamId) (t : Stream) : (j.setStream x t).acq = j.acq := by cases x <;> rfl
@[simp] theorem Job.setStream_threadAcq (j : Job) (x : StreamId) (t : Stream) : (j.setStream x t).threadAcq = j.threadAcq := by cases x <;> rfl
@[simp] theorem Job.setStream_threadPosts (j : Job) (x : StreamId) (t : Stream) : (j.setStream x t).threadPosts = j.threadPosts := by cases x <;> rfl
@[simp] theorem Job.setStream_fabricCcs (j : Job) (x : StreamId) (t : Stream) : (j.setStream x t).fabricCcs = j.fabricCcs := by cases x <;> rfl
@[simp] theorem Job.setStream_bars (j : Job) (x : StreamId) (t : Stream) : (j.setStream x t).bars = j.bars := by cases x <;> rfl

@[simp] theorem Job.stream_setStream (j : Job) (x : StreamId) (t : Stream) : (j.setStream x t).stream x = t := by cases x <;> rfl
theorem Job.stream_setStream_ne (j : Job) (x y : StreamId) (t : Stream) (h : y ≠ x) : (j.setStream x t).stream y = j.stream y := by
  cases x <;> cases y <;> first | rfl | exact absurd rfl h
@[simp] theorem Job.setStream_stream (j : Job) (x : StreamId) : j.setStream x (j.stream x) = j := by cases x <;> rfl
@[simp] theorem Job.setStream_setStream (j : Job) (x : StreamId) (t u : Stream) :
    (j.setStream x t).setStream x u = j.setStream x u := by cases x <;> rfl
@[simp] theorem State.st_onSt (s : State) (f : Stream → Stream) : (s.onSt f).st = f s.st := by simp [State.st]
@[simp] theorem State.st_setSt (s : State) (t : Stream) : (s.setSt t).st = t := by simp [State.st]
@[simp] theorem State.setJob_setJob (s : State) (j k : Job) : (s.setJob j).setJob k = s.setJob k := rfl

/-! ## Floors and dropped transfers: an access moves nothing but the known floors of dies (R338), a dropped one counts (R82) -/

/-- Flits change the dies' floors and nothing else of the state. -/
theorem State.gossip_eq (s : State) (a b : Fin 4) : s.gossip a b = { s with dies := (s.gossip a b).dies } := rfl
theorem State.exchange_eq (s : State) (a b : Fin 4) : s.exchange a b = { s with dies := (s.exchange a b).dies } := rfl
theorem State.exchangeFrom_eq (s : State) (d : Fin 4) (k : Nat) :
    s.exchangeFrom d k = { s with dies := (s.exchangeFrom d k).dies } := by
  unfold State.exchangeFrom
  split <;> rfl
theorem State.exchangeWith_eq (s : State) (k : Nat) : s.exchangeWith k = { s with dies := (s.exchangeWith k).dies } :=
  State.exchangeFrom_eq s s.myDie k
@[simp] theorem State.exchangeFrom_mem (s : State) (d : Fin 4) (k : Nat) : (s.exchangeFrom d k).mem = s.mem := by
  rw [State.exchangeFrom_eq]
@[simp] theorem State.exchangeFrom_job (s : State) (d : Fin 4) (k : Nat) : (s.exchangeFrom d k).job = s.job := by
  rw [State.exchangeFrom_eq]
@[simp] theorem State.exchangeFrom_host (s : State) (d : Fin 4) (k : Nat) : (s.exchangeFrom d k).host = s.host := by
  rw [State.exchangeFrom_eq]
@[simp] theorem State.exchangeFrom_bad (s : State) (d : Fin 4) (k : Nat) : (s.exchangeFrom d k).bad = s.bad := by
  rw [State.exchangeFrom_eq]
@[simp] theorem State.exchangeFrom_good (s : State) (d : Fin 4) (k k' n : Nat) : (s.exchangeFrom d k).good k' n = s.good k' n := by
  rw [State.exchangeFrom_eq]; rfl

@[simp] theorem State.exchangeWith_mem (s : State) (k : Nat) : (s.exchangeWith k).mem = s.mem := by rw [State.exchangeWith_eq]
@[simp] theorem State.exchangeWith_job (s : State) (k : Nat) : (s.exchangeWith k).job = s.job := by rw [State.exchangeWith_eq]
@[simp] theorem State.exchangeWith_cur (s : State) (k : Nat) : (s.exchangeWith k).cur = s.cur := by rw [State.exchangeWith_eq]
@[simp] theorem State.exchangeWith_bad (s : State) (k : Nat) : (s.exchangeWith k).bad = s.bad := by rw [State.exchangeWith_eq]
@[simp] theorem State.exchangeWith_owners (s : State) (k : Nat) : (s.exchangeWith k).owners = s.owners := by
  rw [State.exchangeWith_eq]

/-- Jobs that leave their cores change no memory. -/
@[simp] theorem State.vacateWhere_mem (s : State) (p : Job → Bool) : (s.vacateWhere p).mem = s.mem := rfl
@[simp] theorem State.vacateWhere_dies (s : State) (p : Job → Bool) : (s.vacateWhere p).dies = s.dies := rfl
@[simp] theorem State.vacateWhere_launches (s : State) (p : Job → Bool) : (s.vacateWhere p).launches = s.launches := rfl
@[simp] theorem State.vacateWhere_owners (s : State) (p : Job → Bool) : (s.vacateWhere p).owners = s.owners := rfl
@[simp] theorem State.endHolds_mem (s : State) (h : Nat) : (s.endHolds h).mem = s.mem := rfl
@[simp] theorem State.endHolds_job (s : State) (h : Nat) : (s.endHolds h).job = s.job := rfl

@[simp] theorem State.endHolds_bad (s : State) (h : Nat) : (s.endHolds h).bad = s.bad := rfl
@[simp] theorem State.endHolds_dies (s : State) (h : Nat) : (s.endHolds h).dies = s.dies := rfl
@[simp] theorem State.lost_corrupt (s : State) : s.lost 3 = s.dropped := rfl
@[simp] theorem State.lost_revoked (s : State) : s.lost 6 = (s.countRevoked s.job.owner).onJob Job.countError := rfl
@[simp] theorem State.lost_mem (s : State) (st : Nat) : (s.lost st).mem = s.mem := by
  unfold State.lost; repeat' split
  all_goals rfl
/-- Without an uncorrectable error no transfer is dropped. -/
theorem needGood_of_no_error (s : State) (k n : Nat) (h : s.bad = []) : needGood s k n = .ok () := by simp [needGood, h]
theorem needAllGood_of_no_error (s : State) (xs : List (Nat × Nat)) (h : s.bad = []) : needAllGood s xs = .ok () := by
  induction xs with
  | nil => rfl
  | cons x xs ih => simpa [needAllGood, needGood_of_no_error s x.1 x.2 h, Except.bind] using ih
@[simp] theorem State.dropped_mem (s : State) : s.dropped.mem = s.mem := rfl
@[simp] theorem State.dropped_dies (s : State) : s.dropped.dies = s.dies := rfl

/-- A scalar transfer has its effect, or leaves what a dropped one leaves. -/
theorem State.transfer_cases (s : State) (k n : Nat) (f : State → State) :
    (s.good k n = true ∧ s.transfer k n f = f s) ∨ (s.good k n = false ∧ s.transfer k n f = s.dropped) := by
  unfold State.transfer
  split <;> simp_all

end Sys2Proof.Machine
end

