-- ==== Sys2Proof/Laws/Issue.lean ====
section
/-!
SUPPORT. Laws/Issue.lean: what issuing does, once: when an instruction waits, when it acts and what its meaning then gives; and
what taking tokens, moving the pc and completing leave as they were (spec/06_streams_and_words.md R120 to R125).
-/
namespace Sys2Proof.Machine

/-! ## The three outcomes before a meaning acts -/

/-- The waits of an instruction that can start take their tokens. -/
theorem takeTokens_of_canStart (s : State) (w : Wheel) (uses : BitVec 16) (h : s.canStart w uses = true) :
    s.job.takeTokens s.cur w = some (s.job.afterWaits s.cur w) := by
  simp only [State.canStart, Bool.and_eq_true, Bool.or_eq_true, bne_iff_ne, beq_iff_eq, Bool.not_eq_true'] at h
  obtain ⟨⟨-, h1⟩, h2⟩ := h
  have h3 : ((w.wp && s.job.tokens[wpOf s.cur] == 0) || (w.ws && s.job.tokens[wsOf s.cur] == 0)) = false := by
    cases hp : w.wp <;> cases hs : w.ws <;> simp_all
  simp only [Job.takeTokens, h3, Bool.false_eq_true, if_false, Job.afterWaits]

/-- An instruction that can start in a stream that may hold it acts. -/
theorem issue_acts (w : Wheel) (n : Nat) (legal : StreamId → Bool) (uses : BitVec 16) (body : State → Res State) (s : State)
    (h : s.canStart w uses = true) (hl : legal s.cur = true) :
    issue w n legal uses body s = settle w s (body (s.started w n)) := by
  have ht := takeTokens_of_canStart s w uses h
  have hp : (s.st.pendMask &&& uses != 0) = false := by
    simp only [State.canStart, Bool.and_eq_true] at h
    simpa using h.1.1
  simp only [issue, hp, Bool.false_eq_true, if_false, ht, hl, if_true, State.started]

/-- An instruction whose meaning gives a state completes with it. -/
theorem issue_ok (w : Wheel) (n : Nat) (legal : StreamId → Bool) (uses : BitVec 16) (body : State → Res State) (s t : State)
    (h : s.canStart w uses = true) (hl : legal s.cur = true) (hb : body (s.started w n) = .ok t) :
    issue w n legal uses body s = s.ends w t := by
  rw [issue_acts w n legal uses body s h hl, hb]
  rfl

/-- The same for an effect that is a function of the state in which the instruction acts. -/
theorem issue_does (w : Wheel) (n : Nat) (legal : StreamId → Bool) (uses : BitVec 16) (body : State → Res State) (s : State)
    (f : State → State) (h : s.canStart w uses = true) (hl : legal s.cur = true)
    (hb : body (s.started w n) = .ok (f (s.started w n))) : issue w n legal uses body s = s.does w n f := by
  rw [issue_ok w n legal uses body s _ h hl hb]
  rfl

/-- An instruction whose meaning traps takes the trap in the state before it. -/
theorem issue_trap (w : Wheel) (n : Nat) (legal : StreamId → Bool) (uses : BitVec 16) (body : State → Res State) (s : State)
    (e : Trap) (h : s.canStart w uses = true) (hl : legal s.cur = true) (hb : body (s.started w n) = .error (.trap e)) :
    issue w n legal uses body s = .next (takeTrap e s) := by
  rw [issue_acts w n legal uses body s h hl, hb]
  rfl

/-- An instruction that uses a pending register waits. -/
theorem issue_pending (w : Wheel) (n : Nat) (legal : StreamId → Bool) (uses : BitVec 16) (body : State → Res State) (s : State)
    (h : s.st.pendMask &&& uses ≠ 0) : issue w n legal uses body s = .next (s.block .pending) := by
  have hp : (s.st.pendMask &&& uses != 0) = true := by simpa using h
  simp only [issue, hp, if_true]

/-- An instruction without its tokens waits, and takes none. -/
theorem issue_token (w : Wheel) (n : Nat) (legal : StreamId → Bool) (uses : BitVec 16) (body : State → Res State) (s : State)
    (h : s.st.pendMask &&& uses = 0)
    (ht : (w.wp = true ∧ s.job.tokens[wpOf s.cur] = 0) ∨ (w.ws = true ∧ s.job.tokens[wsOf s.cur] = 0)) :
    issue w n legal uses body s = .next (s.block .token) := by
  have hp : (s.st.pendMask &&& uses != 0) = false := by simpa using h
  have h3 : ((w.wp && s.job.tokens[wpOf s.cur] == 0) || (w.ws && s.job.tokens[wsOf s.cur] == 0)) = true := by
    rcases ht with ⟨h1, h2⟩ | ⟨h1, h2⟩ <;> simp [h1, h2]
  simp only [issue, hp, Bool.false_eq_true, if_false, Job.takeTokens, h3, if_true]

/-- An instruction in a stream that may not hold it traps with ILLEGAL_STREAM. -/
theorem issue_illegal (w : Wheel) (n : Nat) (legal : StreamId → Bool) (uses : BitVec 16) (body : State → Res State) (s : State)
    (h : s.canStart w uses = true) (hl : legal s.cur = false) :
    issue w n legal uses body s = .next (takeTrap ⟨0x02, 3, 0, none⟩ s) := by
  have ht := takeTokens_of_canStart s w uses h
  have hp : (s.st.pendMask &&& uses != 0) = false := by
    simp only [State.canStart, Bool.and_eq_true] at h
    simpa using h.1.1
  simp only [issue, hp, Bool.false_eq_true, if_false, ht, hl]
  rfl

/-! ## Taking tokens -/

@[simp] theorem Job.afterWaits_core (j : Job) (x : StreamId) (w : Wheel) : (j.afterWaits x w).core = j.core := by
  unfold Job.afterWaits; dsimp only; split <;> split <;> rfl
@[simp] theorem Job.afterWaits_uid (j : Job) (x : StreamId) (w : Wheel) : (j.afterWaits x w).uid = j.uid := by
  unfold Job.afterWaits; dsimp only; split <;> split <;> rfl
@[simp] theorem Job.afterWaits_phase (j : Job) (x : StreamId) (w : Wheel) : (j.afterWaits x w).phase = j.phase := by
  unfold Job.afterWaits; dsimp only; split <;> split <;> rfl
@[simp] theorem Job.afterWaits_launch (j : Job) (x : StreamId) (w : Wheel) : (j.afterWaits x w).launch = j.launch := by
  unfold Job.afterWaits; dsimp only; split <;> split <;> rfl
@[simp] theorem Job.afterWaits_depth (j : Job) (x : StreamId) (w : Wheel) : (j.afterWaits x w).depth = j.depth := by
  unfold Job.afterWaits; dsimp only; split <;> split <;> rfl
@[simp] theorem Job.afterWaits_lid (j : Job) (x : StreamId) (w : Wheel) : (j.afterWaits x w).lid = j.lid := by
  unfold Job.afterWaits; dsimp only; split <;> split <;> rfl
@[simp] theorem Job.afterWaits_owner (j : Job) (x : StreamId) (w : Wheel) : (j.afterWaits x w).owner = j.owner := by
  unfold Job.afterWaits; dsimp only; split <;> split <;> rfl
@[simp] theorem Job.afterWaits_sliceLo (j : Job) (x : StreamId) (w : Wheel) : (j.afterWaits x w).sliceLo = j.sliceLo := by
  unfold Job.afterWaits; dsimp only; split <;> split <;> rfl
@[simp] theorem Job.afterWaits_sliceHi (j : Job) (x : StreamId) (w : Wheel) : (j.afterWaits x w).sliceHi = j.sliceHi := by
  unfold Job.afterWaits; dsimp only; split <;> split <;> rfl
@[simp] theorem Job.afterWaits_clusterNo (j : Job) (x : StreamId) (w : Wheel) : (j.afterWaits x w).clusterNo = j.clusterNo := by
  unfold Job.afterWaits; dsimp only; split <;> split <;> rfl
@[simp] theorem Job.afterWaits_dieNo (j : Job) (x : StreamId) (w : Wheel) : (j.afterWaits x w).dieNo = j.dieNo := by
  unfold Job.afterWaits; dsimp only; split <;> split <;> rfl
@[simp] theorem Job.afterWaits_pkgNo (j : Job) (x : StreamId) (w : Wheel) : (j.afterWaits x w).pkgNo = j.pkgNo := by
  unfold Job.afterWaits; dsimp only; split <;> split <;> rfl
@[simp] theorem Job.afterWaits_grantNo (j : Job) (x : StreamId) (w : Wheel) : (j.afterWaits x w).grantNo = j.grantNo := by
  unfold Job.afterWaits; dsimp only; split <;> split <;> rfl
@[simp] theorem Job.afterWaits_gangNo (j : Job) (x : StreamId) (w : Wheel) : (j.afterWaits x w).gangNo = j.gangNo := by
  unfold Job.afterWaits; dsimp only; split <;> split <;> rfl
@[simp] theorem Job.afterWaits_gangPos (j : Job) (x : StreamId) (w : Wheel) : (j.afterWaits x w).gangPos = j.gangPos := by
  unfold Job.afterWaits; dsimp only; split <;> split <;> rfl
@[simp] theorem Job.afterWaits_gangSize (j : Job) (x : StreamId) (w : Wheel) : (j.afterWaits x w).gangSize = j.gangSize := by
  unfold Job.afterWaits; dsimp only; split <;> split <;> rfl
@[simp] theorem Job.afterWaits_coscope (j : Job) (x : StreamId) (w : Wheel) : (j.afterWaits x w).coscope = j.coscope := by
  unfold Job.afterWaits; dsimp only; split <;> split <;> rfl
@[simp] theorem Job.afterWaits_strict (j : Job) (x : StreamId) (w : Wheel) : (j.afterWaits x w).strict = j.strict := by
  unfold Job.afterWaits; dsimp only; split <;> split <;> rfl
@[simp] theorem Job.afterWaits_multi (j : Job) (x : StreamId) (w : Wheel) : (j.afterWaits x w).multi = j.multi := by
  unfold Job.afterWaits; dsimp only; split <;> split <;> rfl
@[simp] theorem Job.afterWaits_pipeline (j : Job) (x : StreamId) (w : Wheel) : (j.afterWaits x w).pipeline = j.pipeline := by
  unfold Job.afterWaits; dsimp only; split <;> split <;> rfl
@[simp] theorem Job.afterWaits_vdom (j : Job) (x : StreamId) (w : Wheel) : (j.afterWaits x w).vdom = j.vdom := by
  unfold Job.afterWaits; dsimp only; split <;> split <;> rfl
@[simp] theorem Job.afterWaits_scrlog (j : Job) (x : StreamId) (w : Wheel) : (j.afterWaits x w).scrlog = j.scrlog := by
  unfold Job.afterWaits; dsimp only; split <;> split <;> rfl
@[simp] theorem Job.afterWaits_codeva (j : Job) (x : StreamId) (w : Wheel) : (j.afterWaits x w).codeva = j.codeva := by
  unfold Job.afterWaits; dsimp only; split <;> split <;> rfl
@[simp] theorem Job.afterWaits_segs (j : Job) (x : StreamId) (w : Wheel) : (j.afterWaits x w).segs = j.segs := by
  unfold Job.afterWaits; dsimp only; split <;> split <;> rfl
@[simp] theorem Job.afterWaits_a (j : Job) (x : StreamId) (w : Wheel) : (j.afterWaits x w).a = j.a := by
  unfold Job.afterWaits; dsimp only; split <;> split <;> rfl
@[simp] theorem Job.afterWaits_m (j : Job) (x : StreamId) (w : Wheel) : (j.afterWaits x w).m = j.m := by
  unfold Job.afterWaits; dsimp only; split <;> split <;> rfl
@[simp] theorem Job.afterWaits_v (j : Job) (x : StreamId) (w : Wheel) : (j.afterWaits x w).v = j.v := by
  unfold Job.afterWaits; dsimp only; split <;> split <;> rfl
@[simp] theorem Job.afterWaits_e (j : Job) (x : StreamId) (w : Wheel) : (j.afterWaits x w).e = j.e := by
  unfold Job.afterWaits; dsimp only; split <;> split <;> rfl
@[simp] theorem Job.afterWaits_vregs (j : Job) (x : StreamId) (w : Wheel) : (j.afterWaits x w).vregs = j.vregs := by
  unfold Job.afterWaits; dsimp only; split <;> split <;> rfl
@[simp] theorem Job.afterWaits_pregs (j : Job) (x : StreamId) (w : Wheel) : (j.afterWaits x w).pregs = j.pregs := by
  unfold Job.afterWaits; dsimp only; split <;> split <;> rfl
@[simp] theorem Job.afterWaits_vspill (j : Job) (x : StreamId) (w : Wheel) : (j.afterWaits x w).vspill = j.vspill := by
  unfold Job.afterWaits; dsimp only; split <;> split <;> rfl
@[simp] theorem Job.afterWaits_acc (j : Job) (x : StreamId) (w : Wheel) : (j.afterWaits x w).acc = j.acc := by
  unfold Job.afterWaits; dsimp only; split <;> split <;> rfl
@[simp] theorem Job.afterWaits_accv (j : Job) (x : StreamId) (w : Wheel) : (j.afterWaits x w).accv = j.accv := by
  unfold Job.afterWaits; dsimp only; split <;> split <;> rfl
@[simp] theorem Job.afterWaits_heldA (j : Job) (x : StreamId) (w : Wheel) : (j.afterWaits x w).heldA = j.heldA := by
  unfold Job.afterWaits; dsimp only; split <;> split <;> rfl
@[simp] theorem Job.afterWaits_cc (j : Job) (x : StreamId) (w : Wheel) : (j.afterWaits x w).cc = j.cc := by
  unfold Job.afterWaits; dsimp only; split <;> split <;> rfl
@[simp] theorem Job.afterWaits_consumed (j : Job) (x : StreamId) (w : Wheel) : (j.afterWaits x w).consumed = j.consumed := by
  unfold Job.afterWaits; dsimp only; split <;> split <;> rfl
@[simp] theorem Job.afterWaits_launchPosts (j : Job) (x : StreamId) (w : Wheel) : (j.afterWaits x w).launchPosts = j.launchPosts := by
  unfold Job.afterWaits; dsimp only; split <;> split <;> rfl
@[simp] theorem Job.afterWaits_queues (j : Job) (x : StreamId) (w : Wheel) : (j.afterWaits x w).queues = j.queues := by
  unfold Job.afterWaits; dsimp only; split <;> split <;> rfl
@[simp] theorem Job.afterWaits_seed (j : Job) (x : StreamId) (w : Wheel) : (j.afterWaits x w).seed = j.seed := by
  unfold Job.afterWaits; dsimp only; split <;> split <;> rfl
@[simp] theorem Job.afterWaits_et (j : Job) (x : StreamId) (w : Wheel) : (j.afterWaits x w).et = j.et := by
  unfold Job.afterWaits; dsimp only; split <;> split <;> rfl
@[simp] theorem Job.afterWaits_rsize (j : Job) (x : StreamId) (w : Wheel) : (j.afterWaits x w).rsize = j.rsize := by
  unfold Job.afterWaits; dsimp only; split <;> split <;> rfl
@[simp] theorem Job.afterWaits_rlive (j : Job) (x : StreamId) (w : Wheel) : (j.afterWaits x w).rlive = j.rlive := by
  unfold Job.afterWaits; dsimp only; split <;> split <;> rfl
@[simp] theorem Job.afterWaits_rbase (j : Job) (x : StreamId) (w : Wheel) : (j.afterWaits x w).rbase = j.rbase := by
  unfold Job.afterWaits; dsimp only; split <;> split <;> rfl
@[simp] theorem Job.afterWaits_slotLive (j : Job) (x : StreamId) (w : Wheel) : (j.afterWaits x w).slotLive = j.slotLive := by
  unfold Job.afterWaits; dsimp only; split <;> split <;> rfl
@[simp] theorem Job.afterWaits_deadrd (j : Job) (x : StreamId) (w : Wheel) : (j.afterWaits x w).deadrd = j.deadrd := by
  unfold Job.afterWaits; dsimp only; split <;> split <;> rfl
@[simp] theorem Job.afterWaits_qdirty (j : Job) (x : StreamId) (w : Wheel) : (j.afterWaits x w).qdirty = j.qdirty := by
  unfold Job.afterWaits; dsimp only; split <;> split <;> rfl
@[simp] theorem Job.afterWaits_qset (j : Job) (x : StreamId) (w : Wheel) : (j.afterWaits x w).qset = j.qset := by
  unfold Job.afterWaits; dsimp only; split <;> split <;> rfl
@[simp] theorem Job.afterWaits_culture (j : Job) (x : StreamId) (w : Wheel) : (j.afterWaits x w).culture = j.culture := by
  unfold Job.afterWaits; dsimp only; split <;> split <;> rfl
@[simp] theorem Job.afterWaits_dirtab (j : Job) (x : StreamId) (w : Wheel) : (j.afterWaits x w).dirtab = j.dirtab := by
  unfold Job.afterWaits; dsimp only; split <;> split <;> rfl
@[simp] theorem Job.afterWaits_pvrPend (j : Job) (x : StreamId) (w : Wheel) : (j.afterWaits x w).pvrPend = j.pvrPend := by
  unfold Job.afterWaits; dsimp only; split <;> split <;> rfl
@[simp] theorem Job.afterWaits_pvrNext (j : Job) (x : StreamId) (w : Wheel) : (j.afterWaits x w).pvrNext = j.pvrNext := by
  unfold Job.afterWaits; dsimp only; split <;> split <;> rfl
@[simp] theorem Job.afterWaits_pvrCur (j : Job) (x : StreamId) (w : Wheel) : (j.afterWaits x w).pvrCur = j.pvrCur := by
  unfold Job.afterWaits; dsimp only; split <;> split <;> rfl
@[simp] theorem Job.afterWaits_trapinfo (j : Job) (x : StreamId) (w : Wheel) : (j.afterWaits x w).trapinfo = j.trapinfo := by
  unfold Job.afterWaits; dsimp only; split <;> split <;> rfl
@[simp] theorem Job.afterWaits_errcnt (j : Job) (x : StreamId) (w : Wheel) : (j.afterWaits x w).errcnt = j.errcnt := by
  unfold Job.afterWaits; dsimp only; split <;> split <;> rfl
@[simp] theorem Job.afterWaits_errtrap (j : Job) (x : StreamId) (w : Wheel) : (j.afterWaits x w).errtrap = j.errtrap := by
  unfold Job.afterWaits; dsimp only; split <;> split <;> rfl
@[simp] theorem Job.afterWaits_pressstall (j : Job) (x : StreamId) (w : Wheel) : (j.afterWaits x w).pressstall = j.pressstall := by
  unfold Job.afterWaits; dsimp only; split <;> split <;> rfl
@[simp] theorem Job.afterWaits_ttbase (j : Job) (x : StreamId) (w : Wheel) : (j.afterWaits x w).ttbase = j.ttbase := by
  unfold Job.afterWaits; dsimp only; split <;> split <;> rfl
@[simp] theorem Job.afterWaits_ceQ (j : Job) (x : StreamId) (w : Wheel) : (j.afterWaits x w).ceQ = j.ceQ := by
  unfold Job.afterWaits; dsimp only; split <;> split <;> rfl
@[simp] theorem Job.afterWaits_mxQ (j : Job) (x : StreamId) (w : Wheel) : (j.afterWaits x w).mxQ = j.mxQ := by
  unfold Job.afterWaits; dsimp only; split <;> split <;> rfl
@[simp] theorem Job.afterWaits_vqQ (j : Job) (x : StreamId) (w : Wheel) : (j.afterWaits x w).vqQ = j.vqQ := by
  unfold Job.afterWaits; dsimp only; split <;> split <;> rfl
@[simp] theorem Job.afterWaits_preempt (j : Job) (x : StreamId) (w : Wheel) : (j.afterWaits x w).preempt = j.preempt := by
  unfold Job.afterWaits; dsimp only; split <;> split <;> rfl
@[simp] theorem Job.afterWaits_epoch (j : Job) (x : StreamId) (w : Wheel) : (j.afterWaits x w).epoch = j.epoch := by
  unfold Job.afterWaits; dsimp only; split <;> split <;> rfl
@[simp] theorem Job.afterWaits_touched (j : Job) (x : StreamId) (w : Wheel) : (j.afterWaits x w).touched = j.touched := by
  unfold Job.afterWaits; dsimp only; split <;> split <;> rfl
@[simp] theorem Job.afterWaits_acq (j : Job) (x : StreamId) (w : Wheel) : (j.afterWaits x w).acq = j.acq := by
  unfold Job.afterWaits; dsimp only; split <;> split <;> rfl
@[simp] theorem Job.afterWaits_threadAcq (j : Job) (x : StreamId) (w : Wheel) : (j.afterWaits x w).threadAcq = j.threadAcq := by
  unfold Job.afterWaits; dsimp only; split <;> split <;> rfl
@[simp] theorem Job.afterWaits_threadPosts (j : Job) (x : StreamId) (w : Wheel) : (j.afterWaits x w).threadPosts = j.threadPosts := by
  unfold Job.afterWaits; dsimp only; split <;> split <;> rfl
@[simp] theorem Job.afterWaits_fabricCcs (j : Job) (x : StreamId) (w : Wheel) : (j.afterWaits x w).fabricCcs = j.fabricCcs := by
  unfold Job.afterWaits; dsimp only; split <;> split <;> rfl
@[simp] theorem Job.afterWaits_bars (j : Job) (x : StreamId) (w : Wheel) : (j.afterWaits x w).bars = j.bars := by
  unfold Job.afterWaits; dsimp only; split <;> split <;> rfl
@[simp] theorem Job.afterWaits_stream (j : Job) (x y : StreamId) (w : Wheel) : (j.afterWaits x w).stream y = j.stream y := by
  cases y <;> simp [Job.stream]

/-! ## The state in which an instruction acts -/

/-- Its job: tokens taken, pc moved. -/
theorem State.started_job (s : State) (w : Wheel) (n : Nat) :
    (s.started w n).job = (s.job.afterWaits s.cur w).setStream s.cur { s.st with pc := s.st.pc + BitVec.ofNat 57 (4 * n) } := by
  simp [State.started, State.advance, State.st]

@[simp] theorem State.started_others (s : State) (w : Wheel) (n : Nat) : (s.started w n).others = s.others := rfl
@[simp] theorem State.started_cur (s : State) (w : Wheel) (n : Nat) : (s.started w n).cur = s.cur := rfl
@[simp] theorem State.started_agenda (s : State) (w : Wheel) (n : Nat) : (s.started w n).agenda = s.agenda := rfl
@[simp] theorem State.started_bad (s : State) (w : Wheel) (n : Nat) : (s.started w n).bad = s.bad := rfl
@[simp] theorem State.started_turns (s : State) (w : Wheel) (n : Nat) : (s.started w n).turns = s.turns := rfl
@[simp] theorem State.started_fresh (s : State) (w : Wheel) (n : Nat) : (s.started w n).fresh = s.fresh := rfl
@[simp] theorem State.started_nextUid (s : State) (w : Wheel) (n : Nat) : (s.started w n).nextUid = s.nextUid := rfl
@[simp] theorem State.started_nextCmd (s : State) (w : Wheel) (n : Nat) : (s.started w n).nextCmd = s.nextCmd := rfl
@[simp] theorem State.started_nextLaunch (s : State) (w : Wheel) (n : Nat) : (s.started w n).nextLaunch = s.nextLaunch := rfl
@[simp] theorem State.started_mem (s : State) (w : Wheel) (n : Nat) : (s.started w n).mem = s.mem := rfl
@[simp] theorem State.started_tlb (s : State) (w : Wheel) (n : Nat) : (s.started w n).tlb = s.tlb := rfl
@[simp] theorem State.started_dies (s : State) (w : Wheel) (n : Nat) : (s.started w n).dies = s.dies := rfl
@[simp] theorem State.started_epsmax (s : State) (w : Wheel) (n : Nat) : (s.started w n).epsmax = s.epsmax := rfl
@[simp] theorem State.started_vwater (s : State) (w : Wheel) (n : Nat) : (s.started w n).vwater = s.vwater := rfl
@[simp] theorem State.started_safemax (s : State) (w : Wheel) (n : Nat) : (s.started w n).safemax = s.safemax := rfl
@[simp] theorem State.started_age (s : State) (w : Wheel) (n : Nat) : (s.started w n).age = s.age := rfl
@[simp] theorem State.started_launches (s : State) (w : Wheel) (n : Nat) : (s.started w n).launches = s.launches := rfl
@[simp] theorem State.started_owners (s : State) (w : Wheel) (n : Nat) : (s.started w n).owners = s.owners := rfl
@[simp] theorem State.started_parked (s : State) (w : Wheel) (n : Nat) : (s.started w n).parked = s.parked := rfl
@[simp] theorem State.started_relsets (s : State) (w : Wheel) (n : Nat) : (s.started w n).relsets = s.relsets := rfl
@[simp] theorem State.started_vdoms (s : State) (w : Wheel) (n : Nat) : (s.started w n).vdoms = s.vdoms := rfl
@[simp] theorem State.started_tileVers (s : State) (w : Wheel) (n : Nat) : (s.started w n).tileVers = s.tileVers := rfl
@[simp] theorem State.started_reclaimed (s : State) (w : Wheel) (n : Nat) : (s.started w n).reclaimed = s.reclaimed := rfl
@[simp] theorem State.started_recs (s : State) (w : Wheel) (n : Nat) : (s.started w n).recs = s.recs := rfl
@[simp] theorem State.started_bars (s : State) (w : Wheel) (n : Nat) : (s.started w n).bars = s.bars := rfl
@[simp] theorem State.started_aonHolds (s : State) (w : Wheel) (n : Nat) : (s.started w n).aonHolds = s.aonHolds := rfl
@[simp] theorem State.started_host (s : State) (w : Wheel) (n : Nat) : (s.started w n).host = s.host := rfl
@[simp] theorem State.started_desc (s : State) (w : Wheel) (n : Nat) : (s.started w n).desc = s.desc := rfl
@[simp] theorem State.started_fabric (s : State) (w : Wheel) (n : Nat) : (s.started w n).fabric = s.fabric := rfl
@[simp] theorem State.started_torus (s : State) (w : Wheel) (n : Nat) : (s.started w n).torus = s.torus := rfl
@[simp] theorem State.started_coords (s : State) (w : Wheel) (n : Nat) : (s.started w n).coords = s.coords := rfl
@[simp] theorem State.started_booted (s : State) (w : Wheel) (n : Nat) : (s.started w n).booted = s.booted := rfl
@[simp] theorem State.started_now (s : State) (w : Wheel) (n : Nat) : (s.started w n).now = s.now := rfl
@[simp] theorem State.started_mhz (s : State) (w : Wheel) (n : Nat) : (s.started w n).mhz = s.mhz := rfl
@[simp] theorem State.started_quotes (s : State) (w : Wheel) (n : Nat) : (s.started w n).quotes = s.quotes := rfl
@[simp] theorem State.started_saved (s : State) (w : Wheel) (n : Nat) : (s.started w n).saved = s.saved := rfl
/-- Its stream: the pc stands at the next instruction. -/
@[simp] theorem State.started_st (s : State) (w : Wheel) (n : Nat) :
    (s.started w n).st = { s.st with pc := s.st.pc + BitVec.ofNat 57 (4 * n) } := by
  simp [State.st, State.started_job]
@[simp] theorem State.started_job_core (s : State) (w : Wheel) (n : Nat) : (s.started w n).job.core = s.job.core := by
  simp [State.started_job]
@[simp] theorem State.started_job_uid (s : State) (w : Wheel) (n : Nat) : (s.started w n).job.uid = s.job.uid := by
  simp [State.started_job]
@[simp] theorem State.started_job_phase (s : State) (w : Wheel) (n : Nat) : (s.started w n).job.phase = s.job.phase := by
  simp [State.started_job]
@[simp] theorem State.started_job_launch (s : State) (w : Wheel) (n : Nat) : (s.started w n).job.launch = s.job.launch := by
  simp [State.started_job]
@[simp] theorem State.started_job_depth (s : State) (w : Wheel) (n : Nat) : (s.started w n).job.depth = s.job.depth := by
  simp [State.started_job]
@[simp] theorem State.started_job_lid (s : State) (w : Wheel) (n : Nat) : (s.started w n).job.lid = s.job.lid := by
  simp [State.started_job]
@[simp] theorem State.started_job_owner (s : State) (w : Wheel) (n : Nat) : (s.started w n).job.owner = s.job.owner := by
  simp [State.started_job]
@[simp] theorem State.started_job_sliceLo (s : State) (w : Wheel) (n : Nat) : (s.started w n).job.sliceLo = s.job.sliceLo := by
  simp [State.started_job]
@[simp] theorem State.started_job_sliceHi (s : State) (w : Wheel) (n : Nat) : (s.started w n).job.sliceHi = s.job.sliceHi := by
  simp [State.started_job]
@[simp] theorem State.started_job_clusterNo (s : State) (w : Wheel) (n : Nat) : (s.started w n).job.clusterNo = s.job.clusterNo := by
  simp [State.started_job]
@[simp] theorem State.started_job_dieNo (s : State) (w : Wheel) (n : Nat) : (s.started w n).job.dieNo = s.job.dieNo := by
  simp [State.started_job]
@[simp] theorem State.started_job_pkgNo (s : State) (w : Wheel) (n : Nat) : (s.started w n).job.pkgNo = s.job.pkgNo := by
  simp [State.started_job]
@[simp] theorem State.started_job_grantNo (s : State) (w : Wheel) (n : Nat) : (s.started w n).job.grantNo = s.job.grantNo := by
  simp [State.started_job]
@[simp] theorem State.started_job_gangNo (s : State) (w : Wheel) (n : Nat) : (s.started w n).job.gangNo = s.job.gangNo := by
  simp [State.started_job]
@[simp] theorem State.started_job_gangPos (s : State) (w : Wheel) (n : Nat) : (s.started w n).job.gangPos = s.job.gangPos := by
  simp [State.started_job]
@[simp] theorem State.started_job_gangSize (s : State) (w : Wheel) (n : Nat) : (s.started w n).job.gangSize = s.job.gangSize := by
  simp [State.started_job]
@[simp] theorem State.started_job_coscope (s : State) (w : Wheel) (n : Nat) : (s.started w n).job.coscope = s.job.coscope := by
  simp [State.started_job]
@[simp] theorem State.started_job_strict (s : State) (w : Wheel) (n : Nat) : (s.started w n).job.strict = s.job.strict := by
  simp [State.started_job]
@[simp] theorem State.started_job_multi (s : State) (w : Wheel) (n : Nat) : (s.started w n).job.multi = s.job.multi := by
  simp [State.started_job]
@[simp] theorem State.started_job_pipeline (s : State) (w : Wheel) (n : Nat) : (s.started w n).job.pipeline = s.job.pipeline := by
  simp [State.started_job]
@[simp] theorem State.started_job_vdom (s : State) (w : Wheel) (n : Nat) : (s.started w n).job.vdom = s.job.vdom := by
  simp [State.started_job]
@[simp] theorem State.started_job_scrlog (s : State) (w : Wheel) (n : Nat) : (s.started w n).job.scrlog = s.job.scrlog := by
  simp [State.started_job]
@[simp] theorem State.started_job_codeva (s : State) (w : Wheel) (n : Nat) : (s.started w n).job.codeva = s.job.codeva := by
  simp [State.started_job]
@[simp] theorem State.started_job_segs (s : State) (w : Wheel) (n : Nat) : (s.started w n).job.segs = s.job.segs := by
  simp [State.started_job]
@[simp] theorem State.started_job_vregs (s : State) (w : Wheel) (n : Nat) : (s.started w n).job.vregs = s.job.vregs := by
  simp [State.started_job]
@[simp] theorem State.started_job_pregs (s : State) (w : Wheel) (n : Nat) : (s.started w n).job.pregs = s.job.pregs := by
  simp [State.started_job]
@[simp] theorem State.started_job_vspill (s : State) (w : Wheel) (n : Nat) : (s.started w n).job.vspill = s.job.vspill := by
  simp [State.started_job]
@[simp] theorem State.started_job_acc (s : State) (w : Wheel) (n : Nat) : (s.started w n).job.acc = s.job.acc := by
  simp [State.started_job]
@[simp] theorem State.started_job_accv (s : State) (w : Wheel) (n : Nat) : (s.started w n).job.accv = s.job.accv := by
  simp [State.started_job]
@[simp] theorem State.started_job_heldA (s : State) (w : Wheel) (n : Nat) : (s.started w n).job.heldA = s.job.heldA := by
  simp [State.started_job]
@[simp] theorem State.started_job_cc (s : State) (w : Wheel) (n : Nat) : (s.started w n).job.cc = s.job.cc := by
  simp [State.started_job]
@[simp] theorem State.started_job_consumed (s : State) (w : Wheel) (n : Nat) : (s.started w n).job.consumed = s.job.consumed := by
  simp [State.started_job]
@[simp] theorem State.started_job_launchPosts (s : State) (w : Wheel) (n : Nat) : (s.started w n).job.launchPosts = s.job.launchPosts := by
  simp [State.started_job]
@[simp] theorem State.started_job_queues (s : State) (w : Wheel) (n : Nat) : (s.started w n).job.queues = s.job.queues := by
  simp [State.started_job]
@[simp] theorem State.started_job_seed (s : State) (w : Wheel) (n : Nat) : (s.started w n).job.seed = s.job.seed := by
  simp [State.started_job]
@[simp] theorem State.started_job_et (s : State) (w : Wheel) (n : Nat) : (s.started w n).job.et = s.job.et := by
  simp [State.started_job]
@[simp] theorem State.started_job_rsize (s : State) (w : Wheel) (n : Nat) : (s.started w n).job.rsize = s.job.rsize := by
  simp [State.started_job]
@[simp] theorem State.started_job_rlive (s : State) (w : Wheel) (n : Nat) : (s.started w n).job.rlive = s.job.rlive := by
  simp [State.started_job]
@[simp] theorem State.started_job_rbase (s : State) (w : Wheel) (n : Nat) : (s.started w n).job.rbase = s.job.rbase := by
  simp [State.started_job]
@[simp] theorem State.started_job_slotLive (s : State) (w : Wheel) (n : Nat) : (s.started w n).job.slotLive = s.job.slotLive := by
  simp [State.started_job]
@[simp] theorem State.started_job_deadrd (s : State) (w : Wheel) (n : Nat) : (s.started w n).job.deadrd = s.job.deadrd := by
  simp [State.started_job]
@[simp] theorem State.started_job_qdirty (s : State) (w : Wheel) (n : Nat) : (s.started w n).job.qdirty = s.job.qdirty := by
  simp [State.started_job]
@[simp] theorem State.started_job_qset (s : State) (w : Wheel) (n : Nat) : (s.started w n).job.qset = s.job.qset := by
  simp [State.started_job]
@[simp] theorem State.started_job_culture (s : State) (w : Wheel) (n : Nat) : (s.started w n).job.culture = s.job.culture := by
  simp [State.started_job]
@[simp] theorem State.started_job_dirtab (s : State) (w : Wheel) (n : Nat) : (s.started w n).job.dirtab = s.job.dirtab := by
  simp [State.started_job]
@[simp] theorem State.started_job_pvrPend (s : State) (w : Wheel) (n : Nat) : (s.started w n).job.pvrPend = s.job.pvrPend := by
  simp [State.started_job]
@[simp] theorem State.started_job_pvrNext (s : State) (w : Wheel) (n : Nat) : (s.started w n).job.pvrNext = s.job.pvrNext := by
  simp [State.started_job]
@[simp] theorem State.started_job_pvrCur (s : State) (w : Wheel) (n : Nat) : (s.started w n).job.pvrCur = s.job.pvrCur := by
  simp [State.started_job]
@[simp] theorem State.started_job_trapinfo (s : State) (w : Wheel) (n : Nat) : (s.started w n).job.trapinfo = s.job.trapinfo := by
  simp [State.started_job]
@[simp] theorem State.started_job_errcnt (s : State) (w : Wheel) (n : Nat) : (s.started w n).job.errcnt = s.job.errcnt := by
  simp [State.started_job]
@[simp] theorem State.started_job_errtrap (s : State) (w : Wheel) (n : Nat) : (s.started w n).job.errtrap = s.job.errtrap := by
  simp [State.started_job]
@[simp] theorem State.started_job_pressstall (s : State) (w : Wheel) (n : Nat) : (s.started w n).job.pressstall = s.job.pressstall := by
  simp [State.started_job]
@[simp] theorem State.started_job_ttbase (s : State) (w : Wheel) (n : Nat) : (s.started w n).job.ttbase = s.job.ttbase := by
  simp [State.started_job]
@[simp] theorem State.started_job_ceQ (s : State) (w : Wheel) (n : Nat) : (s.started w n).job.ceQ = s.job.ceQ := by
  simp [State.started_job]
@[simp] theorem State.started_job_mxQ (s : State) (w : Wheel) (n : Nat) : (s.started w n).job.mxQ = s.job.mxQ := by
  simp [State.started_job]
@[simp] theorem State.started_job_vqQ (s : State) (w : Wheel) (n : Nat) : (s.started w n).job.vqQ = s.job.vqQ := by
  simp [State.started_job]
@[simp] theorem State.started_job_preempt (s : State) (w : Wheel) (n : Nat) : (s.started w n).job.preempt = s.job.preempt := by
  simp [State.started_job]
@[simp] theorem State.started_job_epoch (s : State) (w : Wheel) (n : Nat) : (s.started w n).job.epoch = s.job.epoch := by
  simp [State.started_job]
@[simp] theorem State.started_job_touched (s : State) (w : Wheel) (n : Nat) : (s.started w n).job.touched = s.job.touched := by
  simp [State.started_job]
@[simp] theorem State.started_job_acq (s : State) (w : Wheel) (n : Nat) : (s.started w n).job.acq = s.job.acq := by
  simp [State.started_job]
@[simp] theorem State.started_job_threadAcq (s : State) (w : Wheel) (n : Nat) : (s.started w n).job.threadAcq = s.job.threadAcq := by
  simp [State.started_job]
@[simp] theorem State.started_job_threadPosts (s : State) (w : Wheel) (n : Nat) : (s.started w n).job.threadPosts = s.job.threadPosts := by
  simp [State.started_job]
@[simp] theorem State.started_job_fabricCcs (s : State) (w : Wheel) (n : Nat) : (s.started w n).job.fabricCcs = s.job.fabricCcs := by
  simp [State.started_job]
@[simp] theorem State.started_job_bars (s : State) (w : Wheel) (n : Nat) : (s.started w n).job.bars = s.job.bars := by
  simp [State.started_job]

/-- Reading a scalar register does not depend on the pc. -/
theorem Stream.reg_pc (t : Stream) (pc : VA) (r : SReg) : ({ t with pc := pc } : Stream).reg r = t.reg r := rfl
@[simp] theorem State.started_reg (s : State) (w : Wheel) (n : Nat) (r : SReg) : (s.started w n).reg r = s.reg r := by
  simp only [State.reg, State.started_st]; rfl
/-- Vector registers do not depend on tokens or on the streams. -/
theorem Job.afterWaits_vreg (j : Job) (x : StreamId) (w : Wheel) (v : VReg) : (j.afterWaits x w).vreg v = j.vreg v := by
  unfold Job.afterWaits; dsimp only; split <;> split <;> rfl
@[simp] theorem Job.setStream_vreg (j : Job) (x : StreamId) (t : Stream) (v : VReg) : (j.setStream x t).vreg v = j.vreg v := by
  cases x <;> rfl
@[simp] theorem State.started_vreg (s : State) (w : Wheel) (n : Nat) (v : VReg) : (s.started w n).vreg v = s.vreg v := by
  simp only [State.vreg, State.started_job, Job.setStream_vreg, Job.afterWaits_vreg]
@[simp] theorem State.started_pred (s : State) (w : Wheel) (n : Nat) (k : KReg) : (s.started w n).pred k = s.pred k := by
  simp only [State.pred, Job.pred, State.started_job_pregs]
@[simp] theorem State.started_laneWidth (s : State) (w : Wheel) (n : Nat) :
    (s.started w n).job.laneWidth = s.job.laneWidth := by
  simp only [Job.laneWidth, State.started_job_et]
@[simp] theorem State.started_myDie (s : State) (w : Wheel) (n : Nat) : (s.started w n).myDie = s.myDie := by
  simp only [State.myDie, State.started_job_core]
  rfl
@[simp] theorem State.started_queue (s : State) (w : Wheel) (n : Nat) (q : QNum) :
    (s.started w n).job.queue q = s.job.queue q := by
  simp only [Job.queue, State.started_job_queues]

/-! ## Completing -/

@[simp] theorem Stream.shade_shade (t : Stream) : t.shade.shade = t.shade := rfl
@[simp] theorem Stream.shade_wake (t : Stream) : t.wake.shade = t.shade := by
  simp only [Stream.wake]; split <;> rfl

/-- Signals and wake-ups lie in the shade. -/
theorem Job.shade_give (j : Job) (x : StreamId) (i : Fin 8) : (j.give x i).shade = j.shade := rfl
@[simp] theorem Job.stream_give (j : Job) (x y : StreamId) (i : Fin 8) : (j.give x i).stream y = j.stream y := by
  cases y <;> rfl
theorem Job.shade_setStream (j : Job) (x : StreamId) (t : Stream) (h : t.shade = (j.stream x).shade) :
    (j.setStream x t).shade = j.shade := by
  cases x <;> simp only [Job.stream] at h <;> simp only [Job.setStream, Job.shade, h]

theorem Job.shade_flush (j : Job) (x : StreamId) : (j.flush x).shade = j.shade := by
  simp only [Job.flush]
  split <;> split <;> (rw [Job.shade_setStream] <;> simp only [Job.shade_give, Job.stream_give] <;> try rfl)

theorem Job.shade_signal (j : Job) (x : StreamId) (w : Wheel) : (j.signal x w).shade = j.shade := by
  simp only [Job.signal]
  rw [Job.shade_flush]
  cases x <;> rfl

theorem Job.shade_wake (j : Job) : j.wake.shade = j.shade := by
  simp [Job.shade, Job.wake]

/-- Completion lies in the shade. -/
@[simp] theorem State.shade_complete (t : State) (uid : Nat) (w : Wheel) : (t.complete uid w).shade = t.shade := by
  simp only [State.complete]
  split
  · simp only [State.shade, State.onJob, State.onSt, State.setSt, State.setJob_job, Job.shade_wake, Job.shade_signal]
    have : ∀ (j : Job) (x : StreamId) (b : Option Blocked) (n m : Nat),
        (j.setStream x { j.stream x with blocked := b, attempt := n, laterAttempt := m }).shade = j.shade := by
      intro j x b n m; cases x <;> rfl
    simp only [State.st, this]
    rfl
  · rfl

/-- Tokens and the pc lie in the shade. -/
@[simp] theorem State.shade_started (s : State) (w : Wheel) (n : Nat) : (s.started w n).shade = s.shade := by
  have h : ∀ (j : Job) (x : StreamId) (pc : VA), (j.setStream x { j.stream x with pc := pc }).shade = j.shade := by
    intro j x pc; cases x <;> rfl
  have h2 : ∀ (j : Job) (x : StreamId) (v : Wheel), (j.afterWaits x v).shade = j.shade := by
    intro j x v; unfold Job.afterWaits; dsimp only; split <;> split <;> rfl
  have h3 : s.st = (s.job.afterWaits s.cur w).stream s.cur := by simp [State.st]
  simp only [State.shade, State.started_job]
  rw [h3, h, h2]
  rfl

@[simp] theorem State.complete_others (t : State) (uid : Nat) (w : Wheel) : (t.complete uid w).others = t.others := by
  simp only [State.complete]; split <;> rfl
@[simp] theorem State.complete_cur (t : State) (uid : Nat) (w : Wheel) : (t.complete uid w).cur = t.cur := by
  simp only [State.complete]; split <;> rfl
@[simp] theorem State.complete_agenda (t : State) (uid : Nat) (w : Wheel) : (t.complete uid w).agenda = t.agenda := by
  simp only [State.complete]; split <;> rfl
@[simp] theorem State.complete_bad (t : State) (uid : Nat) (w : Wheel) : (t.complete uid w).bad = t.bad := by
  simp only [State.complete]; split <;> rfl
@[simp] theorem State.complete_turns (t : State) (uid : Nat) (w : Wheel) : (t.complete uid w).turns = t.turns := by
  simp only [State.complete]; split <;> rfl
@[simp] theorem State.complete_fresh (t : State) (uid : Nat) (w : Wheel) : (t.complete uid w).fresh = t.fresh := by
  simp only [State.complete]; split <;> rfl
@[simp] theorem State.complete_nextUid (t : State) (uid : Nat) (w : Wheel) : (t.complete uid w).nextUid = t.nextUid := by
  simp only [State.complete]; split <;> rfl
@[simp] theorem State.complete_nextCmd (t : State) (uid : Nat) (w : Wheel) : (t.complete uid w).nextCmd = t.nextCmd := by
  simp only [State.complete]; split <;> rfl
@[simp] theorem State.complete_nextLaunch (t : State) (uid : Nat) (w : Wheel) : (t.complete uid w).nextLaunch = t.nextLaunch := by
  simp only [State.complete]; split <;> rfl
@[simp] theorem State.complete_mem (t : State) (uid : Nat) (w : Wheel) : (t.complete uid w).mem = t.mem := by
  simp only [State.complete]; split <;> rfl
@[simp] theorem State.complete_tlb (t : State) (uid : Nat) (w : Wheel) : (t.complete uid w).tlb = t.tlb := by
  simp only [State.complete]; split <;> rfl
@[simp] theorem State.complete_dies (t : State) (uid : Nat) (w : Wheel) : (t.complete uid w).dies = t.dies := by
  simp only [State.complete]; split <;> rfl
@[simp] theorem State.complete_epsmax (t : State) (uid : Nat) (w : Wheel) : (t.complete uid w).epsmax = t.epsmax := by
  simp only [State.complete]; split <;> rfl
@[simp] theorem State.complete_vwater (t : State) (uid : Nat) (w : Wheel) : (t.complete uid w).vwater = t.vwater := by
  simp only [State.complete]; split <;> rfl
@[simp] theorem State.complete_safemax (t : State) (uid : Nat) (w : Wheel) : (t.complete uid w).safemax = t.safemax := by
  simp only [State.complete]; split <;> rfl
@[simp] theorem State.complete_age (t : State) (uid : Nat) (w : Wheel) : (t.complete uid w).age = t.age := by
  simp only [State.complete]; split <;> rfl
@[simp] theorem State.complete_launches (t : State) (uid : Nat) (w : Wheel) : (t.complete uid w).launches = t.launches := by
  simp only [State.complete]; split <;> rfl
@[simp] theorem State.complete_owners (t : State) (uid : Nat) (w : Wheel) : (t.complete uid w).owners = t.owners := by
  simp only [State.complete]; split <;> rfl
@[simp] theorem State.complete_parked (t : State) (uid : Nat) (w : Wheel) : (t.complete uid w).parked = t.parked := by
  simp only [State.complete]; split <;> rfl
@[simp] theorem State.complete_relsets (t : State) (uid : Nat) (w : Wheel) : (t.complete uid w).relsets = t.relsets := by
  simp only [State.complete]; split <;> rfl
@[simp] theorem State.complete_vdoms (t : State) (uid : Nat) (w : Wheel) : (t.complete uid w).vdoms = t.vdoms := by
  simp only [State.complete]; split <;> rfl
@[simp] theorem State.complete_tileVers (t : State) (uid : Nat) (w : Wheel) : (t.complete uid w).tileVers = t.tileVers := by
  simp only [State.complete]; split <;> rfl
@[simp] theorem State.complete_reclaimed (t : State) (uid : Nat) (w : Wheel) : (t.complete uid w).reclaimed = t.reclaimed := by
  simp only [State.complete]; split <;> rfl
@[simp] theorem State.complete_recs (t : State) (uid : Nat) (w : Wheel) : (t.complete uid w).recs = t.recs := by
  simp only [State.complete]; split <;> rfl
@[simp] theorem State.complete_bars (t : State) (uid : Nat) (w : Wheel) : (t.complete uid w).bars = t.bars := by
  simp only [State.complete]; split <;> rfl
@[simp] theorem State.complete_aonHolds (t : State) (uid : Nat) (w : Wheel) : (t.complete uid w).aonHolds = t.aonHolds := by
  simp only [State.complete]; split <;> rfl
@[simp] theorem State.complete_host (t : State) (uid : Nat) (w : Wheel) : (t.complete uid w).host = t.host := by
  simp only [State.complete]; split <;> rfl
@[simp] theorem State.complete_desc (t : State) (uid : Nat) (w : Wheel) : (t.complete uid w).desc = t.desc := by
  simp only [State.complete]; split <;> rfl
@[simp] theorem State.complete_fabric (t : State) (uid : Nat) (w : Wheel) : (t.complete uid w).fabric = t.fabric := by
  simp only [State.complete]; split <;> rfl
@[simp] theorem State.complete_torus (t : State) (uid : Nat) (w : Wheel) : (t.complete uid w).torus = t.torus := by
  simp only [State.complete]; split <;> rfl
@[simp] theorem State.complete_coords (t : State) (uid : Nat) (w : Wheel) : (t.complete uid w).coords = t.coords := by
  simp only [State.complete]; split <;> rfl
@[simp] theorem State.complete_booted (t : State) (uid : Nat) (w : Wheel) : (t.complete uid w).booted = t.booted := by
  simp only [State.complete]; split <;> rfl
@[simp] theorem State.complete_now (t : State) (uid : Nat) (w : Wheel) : (t.complete uid w).now = t.now := by
  simp only [State.complete]; split <;> rfl
@[simp] theorem State.complete_mhz (t : State) (uid : Nat) (w : Wheel) : (t.complete uid w).mhz = t.mhz := by
  simp only [State.complete]; split <;> rfl
@[simp] theorem State.complete_quotes (t : State) (uid : Nat) (w : Wheel) : (t.complete uid w).quotes = t.quotes := by
  simp only [State.complete]; split <;> rfl
@[simp] theorem State.complete_saved (t : State) (uid : Nat) (w : Wheel) : (t.complete uid w).saved = t.saved := by
  simp only [State.complete]; split <;> rfl

/-! ## What the shade keeps -/

@[simp] theorem Job.stream_shade (j : Job) (x : StreamId) : j.shade.stream x = (j.stream x).shade := by cases x <;> rfl
@[simp] theorem State.st_shade (s : State) : s.shade.st = s.st.shade := by
  simp only [State.st, State.shade, State.setJob_job, State.setJob_cur, Job.stream_shade]
@[simp] theorem Stream.reg_shade (t : Stream) (r : SReg) : t.shade.reg r = t.reg r := rfl
@[simp] theorem Stream.tag_shade (t : Stream) (p : Pair) : t.shade.tag p = t.tag p := rfl
@[simp] theorem State.reg_shade (s : State) (r : SReg) : s.shade.reg r = s.reg r := by
  simp only [State.reg, State.st_shade, Stream.reg_shade]
@[simp] theorem State.shade_others (s : State) : s.shade.others = s.others := rfl
@[simp] theorem State.shade_cur (s : State) : s.shade.cur = s.cur := rfl
@[simp] theorem State.shade_agenda (s : State) : s.shade.agenda = s.agenda := rfl
@[simp] theorem State.shade_bad (s : State) : s.shade.bad = s.bad := rfl
@[simp] theorem State.shade_turns (s : State) : s.shade.turns = s.turns := rfl
@[simp] theorem State.shade_fresh (s : State) : s.shade.fresh = s.fresh := rfl
@[simp] theorem State.shade_nextUid (s : State) : s.shade.nextUid = s.nextUid := rfl
@[simp] theorem State.shade_nextCmd (s : State) : s.shade.nextCmd = s.nextCmd := rfl
@[simp] theorem State.shade_nextLaunch (s : State) : s.shade.nextLaunch = s.nextLaunch := rfl
@[simp] theorem State.shade_mem (s : State) : s.shade.mem = s.mem := rfl
@[simp] theorem State.shade_tlb (s : State) : s.shade.tlb = s.tlb := rfl
@[simp] theorem State.shade_dies (s : State) : s.shade.dies = s.dies := rfl
@[simp] theorem State.shade_epsmax (s : State) : s.shade.epsmax = s.epsmax := rfl
@[simp] theorem State.shade_vwater (s : State) : s.shade.vwater = s.vwater := rfl
@[simp] theorem State.shade_safemax (s : State) : s.shade.safemax = s.safemax := rfl
@[simp] theorem State.shade_age (s : State) : s.shade.age = s.age := rfl
@[simp] theorem State.shade_launches (s : State) : s.shade.launches = s.launches := rfl
@[simp] theorem State.shade_owners (s : State) : s.shade.owners = s.owners := rfl
@[simp] theorem State.shade_parked (s : State) : s.shade.parked = s.parked := rfl
@[simp] theorem State.shade_relsets (s : State) : s.shade.relsets = s.relsets := rfl
@[simp] theorem State.shade_vdoms (s : State) : s.shade.vdoms = s.vdoms := rfl
@[simp] theorem State.shade_tileVers (s : State) : s.shade.tileVers = s.tileVers := rfl
@[simp] theorem State.shade_reclaimed (s : State) : s.shade.reclaimed = s.reclaimed := rfl
@[simp] theorem State.shade_recs (s : State) : s.shade.recs = s.recs := rfl
@[simp] theorem State.shade_bars (s : State) : s.shade.bars = s.bars := rfl
@[simp] theorem State.shade_aonHolds (s : State) : s.shade.aonHolds = s.aonHolds := rfl
@[simp] theorem State.shade_host (s : State) : s.shade.host = s.host := rfl
@[simp] theorem State.shade_desc (s : State) : s.shade.desc = s.desc := rfl
@[simp] theorem State.shade_fabric (s : State) : s.shade.fabric = s.fabric := rfl
@[simp] theorem State.shade_torus (s : State) : s.shade.torus = s.torus := rfl
@[simp] theorem State.shade_coords (s : State) : s.shade.coords = s.coords := rfl
@[simp] theorem State.shade_booted (s : State) : s.shade.booted = s.booted := rfl
@[simp] theorem State.shade_now (s : State) : s.shade.now = s.now := rfl
@[simp] theorem State.shade_mhz (s : State) : s.shade.mhz = s.mhz := rfl
@[simp] theorem State.shade_quotes (s : State) : s.shade.quotes = s.quotes := rfl
@[simp] theorem State.shade_saved (s : State) : s.shade.saved = s.saved := rfl
@[simp] theorem Job.shade_core (j : Job) : j.shade.core = j.core := rfl
@[simp] theorem Job.shade_uid (j : Job) : j.shade.uid = j.uid := rfl
@[simp] theorem Job.shade_phase (j : Job) : j.shade.phase = j.phase := rfl
@[simp] theorem Job.shade_launch (j : Job) : j.shade.launch = j.launch := rfl
@[simp] theorem Job.shade_depth (j : Job) : j.shade.depth = j.depth := rfl
@[simp] theorem Job.shade_lid (j : Job) : j.shade.lid = j.lid := rfl
@[simp] theorem Job.shade_owner (j : Job) : j.shade.owner = j.owner := rfl
@[simp] theorem Job.shade_sliceLo (j : Job) : j.shade.sliceLo = j.sliceLo := rfl
@[simp] theorem Job.shade_sliceHi (j : Job) : j.shade.sliceHi = j.sliceHi := rfl
@[simp] theorem Job.shade_clusterNo (j : Job) : j.shade.clusterNo = j.clusterNo := rfl
@[simp] theorem Job.shade_dieNo (j : Job) : j.shade.dieNo = j.dieNo := rfl
@[simp] theorem Job.shade_pkgNo (j : Job) : j.shade.pkgNo = j.pkgNo := rfl
@[simp] theorem Job.shade_grantNo (j : Job) : j.shade.grantNo = j.grantNo := rfl
@[simp] theorem Job.shade_gangNo (j : Job) : j.shade.gangNo = j.gangNo := rfl
@[simp] theorem Job.shade_gangPos (j : Job) : j.shade.gangPos = j.gangPos := rfl
@[simp] theorem Job.shade_gangSize (j : Job) : j.shade.gangSize = j.gangSize := rfl
@[simp] theorem Job.shade_coscope (j : Job) : j.shade.coscope = j.coscope := rfl
@[simp] theorem Job.shade_strict (j : Job) : j.shade.strict = j.strict := rfl
@[simp] theorem Job.shade_multi (j : Job) : j.shade.multi = j.multi := rfl
@[simp] theorem Job.shade_pipeline (j : Job) : j.shade.pipeline = j.pipeline := rfl
@[simp] theorem Job.shade_vdom (j : Job) : j.shade.vdom = j.vdom := rfl
@[simp] theorem Job.shade_scrlog (j : Job) : j.shade.scrlog = j.scrlog := rfl
@[simp] theorem Job.shade_codeva (j : Job) : j.shade.codeva = j.codeva := rfl
@[simp] theorem Job.shade_segs (j : Job) : j.shade.segs = j.segs := rfl
@[simp] theorem Job.shade_vregs (j : Job) : j.shade.vregs = j.vregs := rfl
@[simp] theorem Job.shade_pregs (j : Job) : j.shade.pregs = j.pregs := rfl
@[simp] theorem Job.shade_vspill (j : Job) : j.shade.vspill = j.vspill := rfl
@[simp] theorem Job.shade_acc (j : Job) : j.shade.acc = j.acc := rfl
@[simp] theorem Job.shade_accv (j : Job) : j.shade.accv = j.accv := rfl
@[simp] theorem Job.shade_heldA (j : Job) : j.shade.heldA = j.heldA := rfl
@[simp] theorem Job.shade_cc (j : Job) : j.shade.cc = j.cc := rfl
@[simp] theorem Job.shade_consumed (j : Job) : j.shade.consumed = j.consumed := rfl
@[simp] theorem Job.shade_launchPosts (j : Job) : j.shade.launchPosts = j.launchPosts := rfl
@[simp] theorem Job.shade_queues (j : Job) : j.shade.queues = j.queues := rfl
@[simp] theorem Job.shade_seed (j : Job) : j.shade.seed = j.seed := rfl
@[simp] theorem Job.shade_et (j : Job) : j.shade.et = j.et := rfl
@[simp] theorem Job.shade_rsize (j : Job) : j.shade.rsize = j.rsize := rfl
@[simp] theorem Job.shade_rlive (j : Job) : j.shade.rlive = j.rlive := rfl
@[simp] theorem Job.shade_rbase (j : Job) : j.shade.rbase = j.rbase := rfl
@[simp] theorem Job.shade_slotLive (j : Job) : j.shade.slotLive = j.slotLive := rfl
@[simp] theorem Job.shade_deadrd (j : Job) : j.shade.deadrd = j.deadrd := rfl
@[simp] theorem Job.shade_qdirty (j : Job) : j.shade.qdirty = j.qdirty := rfl
@[simp] theorem Job.shade_qset (j : Job) : j.shade.qset = j.qset := rfl
@[simp] theorem Job.shade_culture (j : Job) : j.shade.culture = j.culture := rfl
@[simp] theorem Job.shade_dirtab (j : Job) : j.shade.dirtab = j.dirtab := rfl
@[simp] theorem Job.shade_pvrPend (j : Job) : j.shade.pvrPend = j.pvrPend := rfl
@[simp] theorem Job.shade_pvrNext (j : Job) : j.shade.pvrNext = j.pvrNext := rfl
@[simp] theorem Job.shade_pvrCur (j : Job) : j.shade.pvrCur = j.pvrCur := rfl
@[simp] theorem Job.shade_trapinfo (j : Job) : j.shade.trapinfo = j.trapinfo := rfl
@[simp] theorem Job.shade_errcnt (j : Job) : j.shade.errcnt = j.errcnt := rfl
@[simp] theorem Job.shade_errtrap (j : Job) : j.shade.errtrap = j.errtrap := rfl
@[simp] theorem Job.shade_pressstall (j : Job) : j.shade.pressstall = j.pressstall := rfl
@[simp] theorem Job.shade_ttbase (j : Job) : j.shade.ttbase = j.ttbase := rfl
@[simp] theorem Job.shade_ceQ (j : Job) : j.shade.ceQ = j.ceQ := rfl
@[simp] theorem Job.shade_mxQ (j : Job) : j.shade.mxQ = j.mxQ := rfl
@[simp] theorem Job.shade_vqQ (j : Job) : j.shade.vqQ = j.vqQ := rfl
@[simp] theorem Job.shade_preempt (j : Job) : j.shade.preempt = j.preempt := rfl
@[simp] theorem Job.shade_epoch (j : Job) : j.shade.epoch = j.epoch := rfl
@[simp] theorem Job.shade_touched (j : Job) : j.shade.touched = j.touched := rfl
@[simp] theorem Job.shade_acq (j : Job) : j.shade.acq = j.acq := rfl
@[simp] theorem Job.shade_threadAcq (j : Job) : j.shade.threadAcq = j.threadAcq := rfl
@[simp] theorem Job.shade_threadPosts (j : Job) : j.shade.threadPosts = j.threadPosts := rfl
@[simp] theorem Job.shade_fabricCcs (j : Job) : j.shade.fabricCcs = j.fabricCcs := rfl
@[simp] theorem Job.shade_bars (j : Job) : j.shade.bars = j.bars := rfl

/-- Completion moves only tokens, with the commits that go with them, and the streams' waits and signals in the job. -/
theorem Job.flush_eq (j : Job) (x : StreamId) : ∃ tok fl p s, j.flush x =
    { j with tokens := tok, flow := fl }.setStream x { j.stream x with oweP := p, oweS := s } := by
  simp only [Job.flush]
  cases x <;> split <;> split <;> exact ⟨_, _, _, _, rfl⟩

end Sys2Proof.Machine
end

