-- ==== Sys2Proof/Laws/Scalar.lean ====
section
/-!
SUPPORT. Laws/Scalar.lean: reading a scalar register after a write, the outcome of the shared forms of the scalar
instructions, and their results on exact integers (spec/06_streams_and_words.md R131, spec/02_numbers.md R42).
-/
namespace Sys2Proof.Machine

/-! ## Registers and tags -/

/-- The bits of a vector after one of them is put. -/
theorem getLsbD_putBit {n : Nat} (x : BitVec n) (i k : Nat) (b : Bool) (hi : i < n) :
    (putBit x i b).getLsbD k = if k = i then b else x.getLsbD k := by
  have hb : (BitVec.ofNat n (2 ^ i)).getLsbD k = decide (k = i) := by
    rw [BitVec.getLsbD_ofNat, Nat.testBit_two_pow]
    by_cases hk : i = k
    · subst hk; simp [hi]
    · have hk' : ¬ k = i := fun e => hk e.symm
      simp [hk, hk']
  unfold putBit
  generalize BitVec.ofNat n (2 ^ i) = e at hb
  by_cases hk : k = i
  · subst hk
    cases b <;> simp [hb, hi]
  · cases b <;> simp only [Bool.false_eq_true, if_false, if_true, BitVec.getLsbD_and, BitVec.getLsbD_or, BitVec.getLsbD_not, hb, hk]
    · by_cases hn : k < n
      · simp [hn]
      · simp [BitVec.getLsbD_of_ge x k (by omega)]
    · simp

/-- Registers are read past a change of tags. -/
@[simp] theorem Stream.regIn_setTagIn (t : Stream) (sh sh' : Bool) (p : Nat) (b : Bool) (r : SReg) :
    (t.setTagIn sh p b).regIn sh' r = t.regIn sh' r := by
  unfold Stream.setTagIn; split <;> rfl

/-- A register written in a bank reads back in it. -/
theorem Stream.regIn_putRegIn_same (t : Stream) (sh : Bool) (r : SReg) (v : Word) (h : r ≠ 0) :
    (t.putRegIn sh r v).regIn sh r = v := by
  unfold Stream.putRegIn Stream.regIn
  simp only [h, if_false]
  split <;> simp

/-- Another register of the same bank reads as before. -/
theorem Stream.regIn_putRegIn_ne (t : Stream) (sh : Bool) (d r : SReg) (v : Word) (h : r ≠ d) :
    (t.putRegIn sh d v).regIn sh r = t.regIn sh r := by
  unfold Stream.putRegIn Stream.regIn
  by_cases h0 : r = 0
  · simp [h0]
  · by_cases h1 : d = 0
    · simp [h1]
    · simp only [h0, h1, if_false]
      cases hd : inShadow sh d <;> cases hr : inShadow sh r <;> simp only [Bool.false_eq_true, if_false, if_true]
      · rw [Vector.getElem_set_ne]
        intro e; exact h (BitVec.eq_of_toNat_eq e.symm)
      · rw [Vector.getElem_set_ne]
        intro e
        unfold inShadow at hd hr
        simp only [Bool.and_eq_true] at hd hr
        refine h (BitVec.eq_of_getLsbD_eq fun i hi => ?_)
        by_cases hi3 : i < 3
        · have := congrArg (fun n => n.testBit i) e
          simp only [BitVec.testBit_toNat, BitVec.getLsbD_extractLsb', hi3, decide_true, Bool.true_and, Nat.zero_add] at this
          exact this.symm
        · have : i = 3 := by omega
          subst this
          rw [hr.2, hd.2]

/-- Writing a register leaves the choice of bank as it was. -/
@[simp] theorem Stream.setRegIn_inHandler (t : Stream) (sh : Bool) (d : SReg) (v : Word) :
    (t.setRegIn sh d v).inHandler = t.inHandler := by
  simp only [Stream.setRegIn, Stream.putRegIn, Stream.setTagIn]
  repeat' split
  all_goals rfl
@[simp] theorem Stream.setReg_inHandler (t : Stream) (d : SReg) (v : Word) : (t.setReg d v).inHandler = t.inHandler := by
  simp [Stream.setReg]

/-- A written register reads back. -/
theorem Stream.reg_setReg_same (t : Stream) (d : SReg) (v : Word) (h : d ≠ 0) : (t.setReg d v).reg d = v := by
  simp only [Stream.reg, Stream.setReg_inHandler]
  simp only [Stream.setReg, Stream.setRegIn, h, if_false, Stream.regIn_setTagIn, Stream.regIn_putRegIn_same _ _ _ _ h]

/-- Every other register reads as before. -/
theorem Stream.reg_setReg_ne (t : Stream) (d r : SReg) (v : Word) (h : r ≠ d) : (t.setReg d v).reg r = t.reg r := by
  simp only [Stream.reg, Stream.setReg_inHandler]
  simp only [Stream.setReg, Stream.setRegIn]
  split
  · rfl
  · simp only [Stream.regIn_setTagIn, Stream.regIn_putRegIn_ne _ _ _ _ _ h]

/-- Reads of s0 give 0. -/
@[simp] theorem Stream.reg_zero (t : Stream) : t.reg 0 = 0 := by simp [Stream.reg, Stream.regIn]
/-- Writes of s0 are discarded. -/
@[simp] theorem Stream.setReg_zero (t : Stream) (v : Word) : t.setReg 0 v = t := by simp [Stream.setReg, Stream.setRegIn]

/-! ## The shared forms -/

/-- An instruction of two register operands. -/
theorem alu_does (w : Wheel) (d a b : SReg) (f : Word → Word → Word) (s : State) (v : Word)
    (h : s.canStart w (regBit d ||| regBit a ||| regBit b) = true) (hv : f (s.reg a) (s.reg b) = v) :
    alu w d a b f s = s.does w 1 (·.setReg d v) := by
  unfold alu
  rw [issue_ok w 1 _ _ _ s ((s.started w 1).setReg d v) h rfl (by simp [hv])]
  rfl

/-- An instruction of one register operand. -/
theorem aluImm_does (w : Wheel) (d a : SReg) (f : Word → Word) (s : State) (v : Word)
    (h : s.canStart w (regBit d ||| regBit a) = true) (hv : f (s.reg a) = v) :
    aluImm w d a f s = s.does w 1 (·.setReg d v) := by
  unfold aluImm
  rw [issue_ok w 1 _ _ _ s ((s.started w 1).setReg d v) h rfl (by simp [hv])]
  rfl

/-- An instruction that uses fewer registers starts where one that uses more does. -/
theorem State.canStart_mono (s : State) (w : Wheel) (u v : BitVec 16) (h : s.canStart w v = true) (hu : u &&& v = u) :
    s.canStart w u = true := by
  simp only [State.canStart, Bool.and_eq_true] at h ⊢
  refine ⟨⟨?_, h.1.2⟩, h.2⟩
  have h1 : s.st.pendMask &&& v = 0 := by simpa using h.1.1
  have : s.st.pendMask &&& u = (s.st.pendMask &&& v) &&& u := by
    rw [BitVec.and_assoc, BitVec.and_comm v u, hu]
  simp [this, h1]

/-! ## Exact results -/

/-- The upper half of a 128-bit product. -/
theorem high_half (z : BitVec 128) : z.extractLsb' 64 64 = BitVec.ofInt 64 (z.toInt / 2 ^ 64) := by
  apply BitVec.eq_of_toNat_eq
  have h := z.isLt
  rw [BitVec.extractLsb'_toNat, Nat.shiftRight_eq_div_pow, BitVec.toNat_ofInt, BitVec.toInt_eq_toNat_cond]
  split <;> omega

/-- MULH is the upper half of the exact signed product. -/
theorem mulHigh_eq (x y : Word) : mulHigh x y = BitVec.ofInt 64 (x.toInt * y.toInt / 2 ^ 64) := by
  unfold mulHigh
  rw [high_half, BitVec.toInt_mul, BitVec.toInt_signExtend_of_le (by omega), BitVec.toInt_signExtend_of_le (by omega)]
  congr 2
  have hx := BitVec.toInt_lt (x := x); have hx' := BitVec.le_toInt (x := x)
  have hy := BitVec.toInt_lt (x := y); have hy' := BitVec.le_toInt (x := y)
  have h : (x.toInt * y.toInt).natAbs ≤ 2 ^ 63 * 2 ^ 63 := by
    rw [Int.natAbs_mul]
    exact Nat.mul_le_mul (by omega) (by omega)
  exact Int.bmod_eq_of_le (by omega) (by omega)

/-- The signed remainder on exact integers. -/
theorem srem_eq (x y : Word) : x.srem y = BitVec.ofInt 64 (x.toInt.tmod y.toInt) := by
  apply BitVec.eq_of_toInt_eq
  rw [BitVec.toInt_srem, BitVec.toInt_ofInt]
  symm
  have hx := BitVec.toInt_lt (x := x); have hx' := BitVec.le_toInt (x := x)
  have h1 : (x.toInt.tmod y.toInt).natAbs ≤ x.toInt.natAbs := by
    rw [Int.natAbs_tmod]; exact Nat.mod_le _ _
  have h2 : x.toInt.tmod y.toInt ≠ 2 ^ 63 := by
    intro h
    have h3 : 0 ≤ x.toInt := by
      apply Decidable.byContradiction
      intro hc
      have h4 := Int.neg_tmod (-x.toInt) y.toInt
      have h5 := Int.tmod_nonneg y.toInt (a := -x.toInt) (by omega)
      rw [Int.neg_neg] at h4
      omega
    omega
  exact Int.bmod_eq_of_le (by omega) (by omega)

/-- The signed quotient on exact integers. -/
theorem sdiv_eq (x y : Word) : x.sdiv y = BitVec.ofInt 64 (x.toInt.tdiv y.toInt) := by
  apply BitVec.eq_of_toInt_eq
  simp [BitVec.toInt_sdiv, BitVec.toInt_ofInt]

/-- The arithmetic shift on exact integers. -/
theorem sshiftRight_eq (x : Word) (n : Nat) : x.sshiftRight n = BitVec.ofInt 64 (x.toInt / 2 ^ n) := by
  apply BitVec.eq_of_toInt_eq
  rw [BitVec.toInt_sshiftRight, Int.shiftRight_eq_div_pow, BitVec.toInt_ofInt]
  symm
  have hx := BitVec.toInt_lt (x := x); have hx' := BitVec.le_toInt (x := x)
  have hp : (0 : Int) < 2 ^ n := Int.pow_pos (by omega)
  have h1 : x.toInt / 2 ^ n ≤ max x.toInt 0 := by
    by_cases h0 : 0 ≤ x.toInt
    · have := Int.ediv_le_self (2 ^ n) h0
      omega
    · have : x.toInt / 2 ^ n < 0 := Int.ediv_neg_of_neg_of_pos (by omega) hp
      omega
  have h2 : min x.toInt 0 ≤ x.toInt / 2 ^ n := by
    by_cases h0 : 0 ≤ x.toInt
    · have := Int.ediv_nonneg h0 (Int.le_of_lt hp)
      omega
    · rw [Int.min_eq_left (by omega), Int.le_ediv_iff_mul_le hp]
      have h3 : x.toInt * 2 ^ n ≤ x.toInt * 1 := Int.mul_le_mul_of_nonpos_left (by omega) (by omega)
      omega
  exact Int.bmod_eq_of_le (by omega) (by omega)

end Sys2Proof.Machine
end

