-- ==== Sys2Proof/Laws/Lanes.lean ====
section
/-!
SUPPORT. Laws/Lanes.lean: a register built from lanes reads back lane by lane, and what writing a vector or predicate register
leaves (spec/06_streams_and_words.md R130, R132, R135, R136).
-/
namespace Sys2Proof.Machine

/-- A digit of a packed number. -/
theorem packNat_digit (w : Nat) (xs : List Nat) (m : Nat) : packNat w xs / 2 ^ (w * m) % 2 ^ w = xs.getD m 0 % 2 ^ w := by
  induction xs generalizing m with
  | nil => simp [packNat]
  | cons x xs ih =>
    have hp : 0 < 2 ^ w := Nat.two_pow_pos w
    cases m with
    | zero => simp [packNat]
    | succ m =>
      have h : packNat w (x :: xs) / 2 ^ w = packNat w xs := by
        rw [packNat, Nat.add_mul_div_left _ _ hp, Nat.div_eq_of_lt (Nat.mod_lt _ hp), Nat.zero_add]
      rw [Nat.mul_succ, Nat.add_comm, Nat.pow_add, ← Nat.div_div_eq_div_mul, h, ih]
      simp

/-- A packed number is below the power of its digits. -/
theorem packNat_lt (w : Nat) (xs : List Nat) : packNat w xs < 2 ^ (w * xs.length) := by
  induction xs with
  | nil => simp [packNat]
  | cons x xs ih =>
    have hp : 0 < 2 ^ w := Nat.two_pow_pos w
    have h1 : x % 2 ^ w < 2 ^ w := Nat.mod_lt _ hp
    have h2 : 2 ^ w * packNat w xs + 2 ^ w ≤ 2 ^ w * 2 ^ (w * xs.length) := by
      have := Nat.mul_le_mul_left (2 ^ w) (Nat.succ_le_of_lt ih)
      rw [Nat.mul_succ] at this
      exact this
    rw [packNat, List.length_cons, Nat.mul_succ, Nat.add_comm (w * xs.length), Nat.pow_add]
    omega

/-- The lanes of a register fit in it. -/
theorem laneCount_le (w : Nat) : w * laneCount w ≤ 4096 := Nat.mul_div_le 4096 w

/-- Lane m of a register built from lanes. -/
theorem lane_fromLanes (w : Nat) (f : Nat → Nat) (m : Nat) (h : m < laneCount w) : lane w (fromLanes w f) m = f m % 2 ^ w := by
  have hl := packNat_lt w ((List.range (laneCount w)).map f)
  simp only [List.length_map, List.length_range] at hl
  have h1 := Nat.pow_le_pow_right (Nat.zero_lt_two) (laneCount_le w)
  rw [lane, fromLanes, BitVec.toNat_ofNat]
  rw [Nat.mod_eq_of_lt (Nat.lt_of_lt_of_le hl h1), packNat_digit]
  simp [h]

/-- A lane is below its width. -/
theorem lane_lt (w : Nat) (x : VecReg) (m : Nat) : lane w x m < 2 ^ w := Nat.mod_lt _ (Nat.two_pow_pos w)

/-- Lane m of a merged register. -/
theorem lane_mergeLanes (w : Nat) (k : PredReg) (old : VecReg) (f : Nat → Nat) (m : Nat) (h : m < laneCount w) :
    lane w (mergeLanes w k old f) m = if k.getLsbD m then f m % 2 ^ w else lane w old m := by
  rw [mergeLanes, lane_fromLanes _ _ _ h]
  by_cases hk : k.getLsbD m = true
  · simp only [active, hk, if_true]
  · simp only [active, hk]
    exact Nat.mod_eq_of_lt (lane_lt _ _ _)

/-- Bit m of a predicate built from bits. -/
theorem getLsbD_fromBits (f : Nat → Bool) (m : Nat) (h : m < 512) : (fromBits f).getLsbD m = f m := by
  have hl := packNat_lt 1 ((List.range 512).map (fun m => if f m then 1 else 0))
  simp only [List.length_map, List.length_range, Nat.one_mul] at hl
  have h2 := packNat_digit 1 ((List.range 512).map (fun m => if f m then 1 else 0)) m
  simp only [Nat.one_mul, Nat.pow_one] at h2
  rw [fromBits, BitVec.getLsbD, BitVec.toNat_ofNat, Nat.mod_eq_of_lt hl, Nat.testBit_eq_decide_div_mod_eq, h2]
  simp only [List.getD_eq_getElem?_getD, List.getElem?_map, List.getElem?_range h, Option.map_some, Option.getD_some]
  cases f m <;> rfl

/-! ## Vector and predicate registers -/

/-- The register that was written reads back, where it does not stand at or beyond the live depth. -/
theorem Job.vreg_setVreg_same (j : Job) (v : VReg) (x : VecReg) (h : ∀ d, j.distance v = some d → d < j.rlive.toNat) :
    (j.setVreg v x).vreg v = x := by
  unfold Job.setVreg
  cases hd : j.distance v with
  | none =>
    have h1 : ({ j with vregs := j.vregs.set (j.physical v) x } : Job).distance v = none := hd
    have h2 : ({ j with vregs := j.vregs.set (j.physical v) x } : Job).physical v = j.physical v := rfl
    simp only [Job.vreg, Job.isDead, h1, h2, Bool.false_eq_true, if_false]
    simp
  | some d =>
    have hlt := h d hd
    have hn : ¬ j.rlive.toNat ≤ d := by omega
    simp only [hn, if_false]
    generalize hj : ({ j with
        vregs := j.vregs.set (j.physical v) x
        slotLive := putBit j.slotLive ((d + j.rbase.toNat) % j.rot) true } : Job) = j'
    have h1 : j'.distance v = some d := by rw [← hj]; exact hd
    have h2 : j'.physical v = j.physical v := by rw [← hj]; rfl
    have h3 : j'.rlive = j.rlive := by rw [← hj]
    have h4 : j'.rot = j.rot := by rw [← hj]; rfl
    have h5 : j'.rbase = j.rbase := by rw [← hj]
    have h6 : j'.slotLive = putBit j.slotLive ((d + j.rbase.toNat) % j.rot) true := by rw [← hj]
    have h7 : j'.vregs = j.vregs.set (j.physical v) x := by subst hj; rfl
    have hr : j.rot ≤ 16 ∧ 0 < j.rot := by
      have hdis := hd
      unfold Job.distance at hdis
      split at hdis
      · rename_i hc
        refine ⟨?_, by omega⟩
        unfold Job.rot rotSize
        split <;> omega
      · simp at hdis
    have hb : j'.slotLive.getLsbD ((d + j.rbase.toNat) % j.rot) = true := by
      rw [h6, getLsbD_putBit _ _ _ _ (Nat.lt_of_lt_of_le (Nat.mod_lt _ hr.2) hr.1)]
      simp
    simp only [Job.vreg, Job.isDead, h1, h2, h3, h4, h5, hb, hn, h7, decide_false, Bool.not_true, Bool.or_self,
      Bool.false_eq_true, if_false]
    simp

/-- A write at or beyond the live depth is discarded and counted. -/
theorem Job.setVreg_dead (j : Job) (v : VReg) (x : VecReg) (d : Nat) (hd : j.distance v = some d) (h : j.rlive.toNat ≤ d) :
    j.setVreg v x = j.deadWrite := by
  simp only [Job.setVreg, hd, h, if_true]

/-- A predicate that was written reads back; writes to k0 are discarded. -/
theorem Job.pred_setPred (j : Job) (k l : KReg) (x : PredReg) :
    (j.setPred k x).pred l = if l = 0 then BitVec.allOnes 512 else if l = k then x else j.pred l := by
  unfold Job.setPred Job.pred
  by_cases hl : l = 0
  · simp [hl]
  · simp only [hl, if_false]
    by_cases hk : k = 0
    · simp only [hk, hl, if_true, if_false]
    · simp only [hk, if_false]
      by_cases he : l = k
      · subst he; simp
      · simp only [he, if_false]
        rw [Vector.getElem_set_ne]
        intro e
        exact he (BitVec.eq_of_toNat_eq e.symm)

end Sys2Proof.Machine
end

