-- ==== Sys2Proof/Tests/Slice0.lean ====
section
/-!
SUPPORT. Tests/Slice0.lean: the model's own tests, each of one step or of one definition on a small state: ill-formed terms that
each check refuses, words written out from the encodings of spec/, results that the spec or a hand calculation from it gives,
and for each hypothesised statement a state that meets its hypotheses.
-/
namespace Sys2Proof.Tests

set_option Elab.async false

open Sys2Proof Sys2Proof.Machine

/-! ## Helpers -/

/-- No Wheel bit. -/
def w0 : Wheel := ⟨false, false, false, false⟩

/-- A job of the supervisor that runs on core 0, with stream A in focus. -/
def base : State := { State.reset with job := { Job.reset 0 with uid := 1, phase := .running }, nextUid := 2 }

/-- The same with another stream in focus. -/
def at_ (x : StreamId) : State := { base with cur := x }

/-- Registers of the stream in focus. -/
def withRegs (s : State) (l : List (SReg × Word)) : State := l.foldl (fun s p => s.setReg p.1 p.2) s

/-- What a next state shows. -/
def got {α : Type} (o : Out) (f : State → α) : Option α :=
  match o with
  | .next t => some (f t)
  | _ => none

/-- The code of the fault entry that an outcome leaves on die 0, and whether the job is still there. -/
def trapped (o : Out) : Option (Nat × Bool) :=
  match o with
  | .next t => t.dies[0].waiting.head?.map (fun e => (e.1.toNat / 2 ^ 24 % 256, decide (t.job.uid = 1)))
  | _ => none

/-! ## Well-formedness: an ill-formed term for each check -/

theorem test_wf_scalar_queue : (Instr.spush w0 3 1).wf = false ∧ (Instr.spush w0 4 1).wf = true := by decide
theorem test_wf_vector_queue : (Instr.vpush w0 1 4 0).wf = false ∧ (Instr.vpush w0 1 3 0).wf = true := by decide
theorem test_wf_mark_names_a_queue : (Instr.mark w0 0 .core).wf = false ∧ (Instr.mark w0 8 .core).wf = true := by decide
theorem test_wf_bar_scope : (Instr.bar w0 .core).wf = false ∧ (Instr.bar w0 .sys).wf = false ∧ (Instr.bar w0 .die).wf = true := by decide
theorem test_wf_csr_number : (Instr.csrr w0 1 0x004).wf = false ∧ (Instr.csrr w0 1 0x003).wf = true := by decide
theorem test_wf_csr_writable : (Instr.csrw w0 1 0x018).wf = false ∧ (Instr.csrw w0 1 0x021).wf = true := by decide
theorem test_wf_ordered_atomic_pair : (Instr.amoadd w0 .ord 1 2 3).wf = false ∧ (Instr.amoadd w0 .none 1 2 3).wf = true := by decide
theorem test_wf_tile_pairs : (Instr.tld w0 0 1 2 0 false).wf = false ∧ (Instr.tld w0 1 0 2 0 false).wf = false ∧
    (Instr.tld w0 1 2 2 0 false).wf = true := by decide
theorem test_wf_commit_scope : (Instr.tcommit w0 1 2 4 0 false .core).wf = false ∧
    (Instr.tcommit w0 1 2 4 0 false .grant).wf = true := by decide
theorem test_wf_even_register : (Instr.tfill w0 1 3 0 false .zero).wf = false ∧ (Instr.tfill w0 1 0 0 false .zero).wf = false ∧
    (Instr.tfill w0 1 14 0 false .zero).wf = true := by decide
theorem test_wf_cget_selector : (Instr.cget w0 1 2 7).wf = false ∧ (Instr.cget w0 1 2 6).wf = true := by decide
theorem test_wf_held_operand : (Instr.mma w0 .acc0 0 1 0 0 false false true false false).wf = false ∧
    (Instr.mma w0 .acc0 0 1 0 0 false false false true false).wf = false ∧
    (Instr.mma w0 .acc0 0 1 0 0 false true false false true).wf = true := by decide
theorem test_wf_quant_register : (Instr.vquant w0 1 2 0 0).wf = false ∧ (Instr.vdeq w0 1 3 0 0).wf = false ∧
    (Instr.vdeq w0 1 2 0 0).wf = true := by decide
theorem test_wf_vcfg_type : (Instr.vcfg w0 .e2m1 none).wf = false ∧ (Instr.vcfg w0 .i64 none).wf = false ∧
    (Instr.vcfg w0 .i8 none).wf = true := by decide
theorem test_wf_vector_memory : (Instr.vld w0 4 1 0 0 false true).wf = false ∧ (Instr.vld w0 1 1 2 0 true false).wf = false ∧
    (Instr.vldg w0 4 1 2 0 true).wf = false ∧ (Instr.vld w0 1 1 9 0 true false).wf = true := by decide
theorem test_wf_publ : (Instr.publ w0 1 0 2 .die).wf = false ∧ (Instr.publ w0 1 1 2 .sys).wf = false ∧
    (Instr.publ w0 1 1 2 .die).wf = true := by decide
theorem test_wf_clkr : (Instr.clkr w0 5).wf = false ∧ (Instr.clkr w0 6).wf = true := by decide

/-! ## Decoding: the worked words of spec/, and words written out bit by bit from the formats of R142 -/

/-- R166: ADD s4, s4, s3. -/
theorem test_decode_alu : decodeWords 0b0000_000001_0100_0100_0011_000000_0000 0 = .ok (.add w0 4 4 3) := by rfl
/-- Program of file 15: MUL s14, s14, s11. -/
theorem test_decode_mul : decodeWords 0x007BAC20 0 = .ok (.mul w0 14 14 11) := by rfl
/-- R141: the worked example of the Wheel bits, ADDI s3, s1, #-4 with WP and SS. -/
theorem test_decode_addi : decodeWords 0x908C7FFC 0 = .ok (.addi ⟨true, false, false, true⟩ 3 1 0x3FFC) := by rfl
/-- File 16: LUI s14, #1 and SHRI s11, s11, #48. -/
theorem test_decode_immediates : decodeWords 0x02F80001 0 = .ok (.lui w0 14 1) ∧ decodeWords 0x01EEC030 0 = .ok (.shri w0 11 11 48) :=
  ⟨rfl, rfl⟩
/-- File 16: LI64 s12, #0x9_0010_0101. -/
theorem test_decode_li64 : decodeWords 0x0FF00101 0x00424004 = .ok (.li64 w0 12 0x900100101) := by rfl
/-- File 15: BNE +6 and BGE +10; file 16: BEQ −2. -/
theorem test_decode_branches : decodeWords 0x04480006 0 = .ok (.bne w0 2 0 6) ∧ decodeWords 0x04D9000A 0 = .ok (.bge w0 6 4 10) ∧
    decodeWords 0x04343FFE 0 = .ok (.beq w0 13 0 0x3FFE) := ⟨rfl, rfl, rfl⟩
/-- R179: LOOP, SPUSH, ENDL, SPOP, BQZ and JMP of the worked programs. -/
theorem test_decode_queues_and_loops : decodeWords 0x07840006 0 = .ok (.loop w0 1 6) ∧ decodeWords 0x06108000 0 = .ok (.spush w0 4 2) ∧
    decodeWords 0x07807FFC 0 = .ok (.endl w0 0x3FFC) ∧ decodeWords 0x060D0010 0 = .ok (.spop w0 3 4) ∧
    decodeWords 0x06940004 0 = .ok (.bqz w0 5 4) ∧ decodeWords 0x05BFFFFC 0 = .ok (.jmp w0 0x3FFFFC) :=
  ⟨rfl, rfl, rfl, rfl, rfl, rfl⟩
/-- R314: the words of major 0x1C. -/
theorem test_decode_sync : decodeWords 0x07000011 0 = .ok (.safe w0 1) ∧ decodeWords 0x07000002 0 = .ok (.halt w0) ∧
    decodeWords 0x07000003 0 = .ok (.rdv w0) ∧ decodeWords 0x07000334 0 = .ok (.mark w0 3 .pkg) ∧
    decodeWords 0x07000005 0 = .ok (.join w0) ∧ decodeWords 0x07000016 0 = .ok (.bar w0 .cluster) ∧
    decodeWords 0x07144007 0 = .ok (.waitc w0 5 1) ∧ decodeWords 0x0700C008 0 = .ok (.disc w0 3) :=
  ⟨rfl, rfl, rfl, rfl, rfl, rfl, rfl, rfl⟩
/-- R367, R374, R368, and file 20: TRAP, URET, FQACK, CSRR FQTAIL and CSRW FQHEAD. -/
theorem test_decode_system : decodeWords 0x07558000 0 = .ok (.trap w0 5 6) ∧ decodeWords 0x07400001 0 = .ok (.uret w0) ∧
    decodeWords 0x077F8004 0 = .ok (.fqack w0 15 14 false) ∧ decodeWords 0x07542052 0 = .ok (.csrr w0 5 0x205) ∧
    decodeWords 0x0741E043 0 = .ok (.csrw w0 7 0x204) := ⟨rfl, rfl, rfl, rfl, rfl⟩
/-- R327: LAUNCH cc4, s6. -/
theorem test_decode_launch : decodeWords 0x07518006 0 = .ok (.launch w0 4 6) := by rfl
/-- Files 20 and 15: LDD +1, STD #480, STD #86. -/
theorem test_decode_loads : decodeWords 0x08047001 0 = .ok (.ldd w0 1 1 1) ∧ decodeWords 0x084959E0 0 = .ok (.std w0 2 5 480) ∧
    decodeWords 0x0858D856 0 = .ok (.std w0 6 3 86) := ⟨rfl, rfl, rfl⟩
/-- R211: AMOINCB.ord; files 14 and 16: AMOOR.acq and AMOADD.rel. -/
theorem test_decode_atomics : decodeWords 0x089893A0 0 = .ok (.amoincb w0 .ord 6 2 4) ∧
    decodeWords 0x08948120 0 = .ok (.amoor w0 .acq 5 2 0) ∧ decodeWords 0x08808E00 0 = .ok (.amoadd w0 .rel 0 2 3) :=
  ⟨rfl, rfl, rfl⟩
/-- File 15: OBOPEN cc5, s1, s11, #9. -/
theorem test_decode_obopen : decodeWords 0x0FD46C00 0x00800009 = .ok (.obopen w0 5 1 11 9) := by rfl
/-- R218, R345, and files 11 and 16: tile commands. -/
theorem test_decode_tiles : decodeWords 0x0A8A1100 0 = .ok (.tcopy w0 1 2 1 1 false) ∧
    decodeWords 0x0AA0C311 0 = .ok (.tfill w0 4 12 3 false .zero) ∧ decodeWords 0x0A90E312 0 = .ok (.tfill w0 2 14 3 false .const) ∧
    decodeWords 0x0A897120 0 = .ok (.tdedup w0 1 1 7 1 false) ∧ decodeWords 0x0A539220 0 = .ok (.tscat w0 2 3 9 2 false) ∧
    decodeWords 0x0A538143 0 = .ok (.tcommit w0 2 3 8 1 false .pkg) ∧ decodeWords 0x0A1A8213 0 = .ok (.tldas w0 3 2 8 2 false .pkg) ∧
    decodeWords 0x0AF83002 0 = .ok (.tinfo w0 7 3 2) := ⟨rfl, rfl, rfl, rfl, rfl, rfl, rfl, rfl⟩
/-- File 16: CNARROW s6, s2, s12. -/
theorem test_decode_capabilities : decodeWords 0x0B0C7000 0 = .ok (.cnarrow w0 3 1 12) := by rfl
/-- R245, R255, R260, R261 and file 11: matrix commands. -/
theorem test_decode_matrix : decodeWords 0x0C04C182 0 = .ok (.mma w0 .acc0 2 3 0 3 false false false true false) ∧
    decodeWords 0x0C502901 0 = .ok (.macc w0 .acc1 5 2 false true) ∧
    decodeWords 0x0CE802A2 0 = .ok (.mdrain w0 .acc2 4 5 false (some .sr) .tile false) ∧
    decodeWords 0x0D000029 0 = .ok (.mstat w0 .acc0 5 false true) ∧ decodeWords 0x0D600300 0 = .ok (.mmov w0 .acc2 .acc0 6 false false) ∧
    decodeWords 0x0FD4C200 0x00D00000 = .ok (.mmat w0 .acc1 2 3 0 4 false false false false false .ninf false 0) :=
  ⟨rfl, rfl, rfl, rfl, rfl, rfl⟩
/-- R271: VADD v3, v1, v2 with WP and SS; R274, R276, R277, R278: VCEQ, VRSUM, KPOP, KFIRST, VCOMP, VSEL. -/
theorem test_decode_vector : decodeWords 0x9E061100 0 = .ok (.vadd ⟨true, false, false, true⟩ 3 1 2 0) ∧
    decodeWords 0x0E440089 0 = .ok (.vclt w0 2 0 1 0) ∧ decodeWords 0x0E80152B 0 = .ok (.vrsum w0 1 5 2) ∧
    decodeWords 0x0EC02304 0 = .ok (.kpop w0 2 3 0) ∧ decodeWords 0x0F081020 0 = .ok (.vcomp w0 4 1 2) ∧
    decodeWords 0x0F0E1026 0 = .ok (.vsel w0 7 1 0 2) := ⟨rfl, rfl, rfl, rfl, rfl, rfl⟩
/-- R266, R281, R283: VCFG BF16, rne; VCVT v8, v2, s6; VDEQ v10, v8, s7. -/
theorem test_decode_conversions : decodeWords 0x0EC2000A 0 = .ok (.vcfg w0 .bf16 (some .rne)) ∧
    decodeWords 0x0ED02607 0 = .ok (.vcvt w0 8 2 6 0) ∧ decodeWords 0x0ED48709 0 = .ok (.vdeq w0 10 8 7 0) := ⟨rfl, rfl, rfl⟩
/-- File 18: VLD, VST in tile mode and VST from a queue. -/
theorem test_decode_vector_memory : decodeWords 0x0F48C400 0 = .ok (.vld w0 4 6 8 0 false false) ∧
    decodeWords 0x0F48080A 0 = .ok (.vst w0 4 0 16 0 true false) ∧ decodeWords 0x0F40C406 0 = .ok (.vst w0 0 6 8 0 false true) :=
  ⟨rfl, rfl, rfl⟩
/-- R289, R293, R294, R356, R352, R340, R351: the instructions of major 0x3E. -/
theorem test_decode_culture_and_time : decodeWords 0x0F8A1310 0 = .ok (.qrn w0 5 1 3 1) ∧ decodeWords 0x0F800021 0 = .ok (.qcfg w0 2) ∧
    decodeWords 0x0F808012 0 = .ok (.qldt w0 2 1) ∧ decodeWords 0x0F8C2503 0 = .ok (.vtok w0 6 2 5 0) ∧
    decodeWords 0x0F80C004 0 = .ok (.pvset w0 3) ∧ decodeWords 0x0F900007 0 = .ok (.clkr w0 4) ∧
    decodeWords 0x0F88C396 0 = .ok (.publ w0 2 3 9 .pkg) ∧ decodeWords 0x0F800008 0 = .ok (.cwait w0) :=
  ⟨rfl, rfl, rfl, rfl, rfl, rfl, rfl, rfl⟩
/-- R143: the word of zeros, a reserved major, a field that must be zero, an unassigned function code, and a second word with a
Wheel bit. -/
theorem test_decode_refused : decodeWords 0 0 = .error .majorOpcode ∧ decodeWords 0x03000000 0 = .error .majorOpcode ∧
    decodeWords 0x00510C01 0 = .error .reservedField ∧ decodeWords 0x980C7FFC 0 = .error .functionCode ∧
    decodeWords 0x0FF00101 0x10424004 = .error .secondWheel := ⟨rfl, rfl, rfl, rfl, rfl⟩

/-! ## Scalar instructions -/

/-- A one-register result: instruction, the registers before, the destination's value after. -/
def gives (i : Instr) (l : List (SReg × Word)) (d : SReg) : Option Word := got (exec i (withRegs base l)) (·.reg d)

theorem test_add_wraps : gives (.add w0 3 1 2) [(1, 0xFFFFFFFFFFFFFFFF), (2, 2)] 3 = some 1 := by decide +kernel
theorem test_add_source_is_destination : gives (.add w0 1 1 1) [(1, 21)] 1 = some 42 := by decide +kernel
theorem test_sub_order : gives (.sub w0 3 1 2) [(1, 5), (2, 7)] 3 = some 0xFFFFFFFFFFFFFFFE := by decide +kernel
theorem test_mul_low : gives (.mul w0 3 1 2) [(1, 0xFFFFFFFFFFFFFFFF), (2, 3)] 3 = some 0xFFFFFFFFFFFFFFFD := by decide +kernel
theorem test_mulh_signed : gives (.mulh w0 3 1 2) [(1, 0xFFFFFFFFFFFFFFFF), (2, 3)] 3 = some 0xFFFFFFFFFFFFFFFF := by decide +kernel
theorem test_mulhn_natural : gives (.mulhn w0 3 1 2) [(1, 0xFFFFFFFFFFFFFFFF), (2, 3)] 3 = some 2 := by decide +kernel
/-- R42: division truncates; by zero it gives −1; the most negative number by −1 gives itself. -/
theorem test_div_corners : gives (.div w0 3 1 2) [(1, -7), (2, 2)] 3 = some (-3) ∧ gives (.div w0 3 1 2) [(1, 9)] 3 = some (-1) ∧
    gives (.div w0 3 1 2) [(1, 0x8000000000000000), (2, -1)] 3 = some 0x8000000000000000 := by decide +kernel
theorem test_divn_natural : gives (.divn w0 3 1 2) [(1, 0x8000000000000000), (2, 2)] 3 = some 0x4000000000000000 ∧
    gives (.divn w0 3 1 2) [(1, 9)] 3 = some 0xFFFFFFFFFFFFFFFF := by decide +kernel
/-- R42: the remainder has the sign of the dividend; by zero it is the dividend. -/
theorem test_rem_corners : gives (.rem w0 3 1 2) [(1, -7), (2, 2)] 3 = some (-1) ∧ gives (.rem w0 3 1 2) [(1, 9)] 3 = some 9 ∧
    gives (.rem w0 3 1 2) [(1, 0x8000000000000000), (2, -1)] 3 = some 0 := by decide +kernel
theorem test_remn_natural : gives (.remn w0 3 1 2) [(1, -7), (2, 16)] 3 = some 9 ∧ gives (.remn w0 3 1 2) [(1, 9)] 3 = some 9 := by
  decide +kernel
theorem test_logic : gives (.and w0 3 1 2) [(1, 12), (2, 10)] 3 = some 8 ∧ gives (.or w0 3 1 2) [(1, 12), (2, 10)] 3 = some 14 ∧
    gives (.xor w0 3 1 2) [(1, 12), (2, 10)] 3 = some 6 := by decide +kernel
/-- R167: a shift count is bits [5:0]. -/
theorem test_shift_counts : gives (.shl w0 3 1 2) [(1, 1), (2, 65)] 3 = some 2 ∧ gives (.shr w0 3 1 2) [(1, -8), (2, 64)] 3 = some (-8) ∧
    gives (.sra w0 3 1 2) [(1, -8), (2, 2)] 3 = some (-2) := by decide +kernel
theorem test_compares : gives (.slt w0 3 1 2) [(1, -1), (2, 1)] 3 = some 1 ∧ gives (.sltn w0 3 1 2) [(1, -1), (2, 1)] 3 = some 0 ∧
    gives (.slt w0 3 1 2) [(1, 1), (2, 1)] 3 = some 0 := by decide +kernel
theorem test_min_max : gives (.min w0 3 1 2) [(1, -1), (2, 1)] 3 = some (-1) ∧ gives (.max w0 3 1 2) [(1, -1), (2, 1)] 3 = some 1 ∧
    gives (.minn w0 3 1 2) [(1, -1), (2, 1)] 3 = some 1 ∧ gives (.maxn w0 3 1 2) [(1, -1), (2, 1)] 3 = some (-1) := by decide +kernel
theorem test_counts : gives (.clz w0 3 1) [(1, 1)] 3 = some 63 ∧ gives (.clz w0 3 1) [] 3 = some 64 ∧
    gives (.popc w0 3 1) [(1, 0xF0F)] 3 = some 8 := by decide +kernel
theorem test_immediate_extensions : gives (.addi w0 3 1 0x3FFC) [(1, 5)] 3 = some 1 ∧ gives (.andi w0 3 1 0x3FFF) [(1, -1)] 3 = some 0x3FFF ∧
    gives (.ori w0 3 1 0x3FFF) [] 3 = some 0x3FFF ∧ gives (.xori w0 3 1 1) [(1, 3)] 3 = some 2 ∧
    gives (.slti w0 3 1 0x3FFF) [] 3 = some 0 ∧ gives (.sltni w0 3 1 0x3FFF) [] 3 = some 1 := by decide +kernel
theorem test_immediate_shifts : gives (.shli w0 3 1 63) [(1, 3)] 3 = some 0x8000000000000000 ∧ gives (.shri w0 3 1 4) [(1, 0x80)] 3 = some 8 ∧
    gives (.srai w0 3 1 4) [(1, -0x80)] 3 = some (-8) := by decide +kernel
/-- R169: LUI reaches −2^31. -/
theorem test_lui_negative : gives (.lui w0 3 0x20000) [] 3 = some 0xFFFFFFFF80000000 := by decide +kernel
theorem test_li64_sign : gives (.li64 w0 3 0x8000000000) [] 3 = some 0xFFFFFF8000000000 := by decide +kernel
theorem test_li64_two_words : got (exec (.li64 w0 3 1) base) (·.st.pc) = some 8 := by decide +kernel
/-- R131: s0 reads as 0 whatever is written. -/
theorem test_write_of_s0 : gives (.addi w0 0 1 5) [(1, 5)] 0 = some 0 := by decide +kernel
/-- R69: a write of a register clears the tag of its pair, and of no other. -/
theorem test_write_clears_tag : got (exec (.addi w0 3 1 5) (base.onSt (fun t => { t with tags := 0xFE }))) (·.st.tags) = some 0xFC := by
  decide +kernel

/-! ## Control -/

theorem test_branch_taken_backwards : got (exec (.bne w0 1 0 0x3FFC) ((withRegs base [(1, 1)]).setPc 64)) (·.st.pc) = some 48 := by
  decide +kernel
theorem test_branches_fall_through : got (exec (.beq w0 1 0 9) (withRegs base [(1, 1)])) (·.st.pc) = some 4 ∧
    got (exec (.blt w0 0 0 9) base) (·.st.pc) = some 4 ∧ got (exec (.bltn w0 0 0 9) base) (·.st.pc) = some 4 := by decide +kernel
theorem test_branch_signs : got (exec (.blt w0 1 0 9) (withRegs base [(1, -1)])) (·.st.pc) = some 36 ∧
    got (exec (.bltn w0 1 0 9) (withRegs base [(1, -1)])) (·.st.pc) = some 4 ∧
    got (exec (.bge w0 1 0 9) (withRegs base [(1, -1)])) (·.st.pc) = some 4 ∧
    got (exec (.bgen w0 1 0 9) (withRegs base [(1, -1)])) (·.st.pc) = some 36 := by decide +kernel
theorem test_jmp : got (exec (.jmp w0 0x3FFFFC) (base.setPc 64)) (·.st.pc) = some 48 := by decide +kernel
theorem test_jal_links : got (exec (.jal w0 2) (base.setPc 64)) (fun t => (t.st.pc, t.reg 15)) = some (72, 68) := by
  decide +kernel
theorem test_jr : got (exec (.jr w0 1) (withRegs base [(1, 0x1000)])) (·.st.pc) = some 0x1000 ∧
    trapped (exec (.jr w0 1) (withRegs base [(1, 0x1002)])) = some (0x07, false) := by decide +kernel
/-- R177: LOOP of 0 leaves; LOOP sets KERN and EPI from the fields of its register. -/
theorem test_loop : got (exec (.loop w0 1 6) base) (·.st.pc) = some 24 ∧
    got (exec (.loop w0 1 6) (withRegs base [(1, 0x700000003)])) (fun t => (t.st.pc, t.st.kern, t.st.epi)) = some (4, 3, 7) := by
  decide +kernel
/-- R178: ENDL counts KERN down, then EPI, and leaves when both are 0. -/
theorem test_endl : got (exec (.endl w0 0x3FFC) (base.onSt (fun t => { t with pc := 64, kern := 2 })))
      (fun t => (t.st.pc, t.st.kern)) = some (48, 1) ∧
    got (exec (.endl w0 0x3FFC) (base.onSt (fun t => { t with pc := 64, kern := 1 }))) (fun t => (t.st.pc, t.st.kern)) = some (68, 0) ∧
    got (exec (.endl w0 0x3FFC) (base.onSt (fun t => { t with pc := 64, epi := 2 }))) (fun t => (t.st.pc, t.st.epi)) = some (48, 1) := by
  decide +kernel

/-- A job whose queue q4 goes from A to V and whose q0 goes from V to E. -/
def bound (x : StreamId) : State :=
  (at_ x).onJob (fun j => { j with queues := (j.queues.set 4 ⟨some (.A, .V), []⟩).set 0 ⟨some (.V, .E), []⟩ })

/-- Entries of a queue that are filled. -/
def filled (q : QNum) (l : List Word) (s : State) : State := s.onJob (·.setQueue q (l.map (fun v => ⟨v.setWidth 4096, true⟩)))

theorem test_spush : got (exec (.spush w0 4 2) (withRegs (bound .A) [(2, 77)]))
    (fun t => (t.job.queue 4).entries.map (fun e => e.data.setWidth 64)) = some [(77 : Word)] := by decide +kernel
theorem test_spush_unbound : trapped (exec (.spush w0 4 2) (bound .V)) = some (0x02, false) := by decide +kernel
theorem test_spop : got (exec (.spop w0 3 4) (filled 4 [5, 6] (bound .V))) (fun t => (t.reg 3, (t.job.queue 4).entries.length)) =
    some (5, 1) := by decide +kernel
theorem test_spop_empty_waits : got (exec (.spop w0 3 4) (bound .V)) (fun t => (t.st.blocked, t.st.pc)) = some (some .queue, 0) := by
  decide +kernel
theorem test_qcnt : got (exec (.qcnt w0 3 4) (filled 4 [5, 6] (bound .A))) (·.reg 3) = some 2 := by decide +kernel
theorem test_bqz : got (exec (.bqz w0 4 4) (filled 4 [0] (bound .V))) (fun t => (t.st.pc, (t.job.queue 4).entries.length)) = some (16, 0) ∧
    got (exec (.bqnz w0 4 4) (filled 4 [0] (bound .V))) (·.st.pc) = some 4 := by decide +kernel
theorem test_vector_queue : got (exec (.vpush w0 1 0 0) ((bound .V).setVreg 1 9)) (fun t => (t.job.queue 0).entries.map (·.data)) =
    some [(9 : VecReg)] := by decide +kernel
theorem test_spill : got (exec (.sspill w0 1 63) (withRegs base [(1, 8)])) (·.st.spill[63]) = some 8 ∧
    got (exec (.sfill w0 2 63) (base.onSt (fun t => { t with spill := t.spill.set 63 8 }))) (·.reg 2) = some 8 := by decide +kernel
theorem test_vector_spill : got (exec (.vspill w0 1 31) ((at_ .V).setVreg 1 8)) (·.job.vspill[31]) = some 8 ∧
    got (exec (.vfill w0 2 31) ((at_ .V).onJob (fun j => { j with vspill := j.vspill.set 31 8 }))) (·.vreg 2) = some 8 := by
  decide +kernel

/-- R123: a wait at 0 does not issue; R124: a signal at 15 is owed. -/
theorem test_wait_and_signal : got (exec (.addi ⟨true, false, false, false⟩ 3 0 5) base) (fun t => (t.st.blocked, t.reg 3)) =
      some (some .token, 0) ∧
    got (exec (.nop ⟨false, false, true, false⟩) (base.onJob (fun j => { j with tokens := Vector.replicate 8 15 }))) (·.st.oweP) =
      some true := by decide +kernel

/-! ## Synchronisation -/

theorem test_nop : got (exec (.nop w0) base) (·.st.pc) = some 4 := by decide +kernel
theorem test_safe_held : got (exec (.safe w0 7) (base.onJob (fun j => { j with preempt := true }))) (fun t => (t.st.phase, t.st.pc)) =
    some (.held 7, 0) := by decide +kernel
theorem test_rdv_waits : got (exec (.rdv w0) base) (fun t => (t.st.blocked, t.st.atRdv)) = some (some .rdv, true) := by decide +kernel
theorem test_rdv_meets : got (exec (.rdv w0) (base.onJob (fun j => { j with
      m := { j.m with atRdv := true }, v := { j.v with rdvs := 1 }, e := { j.e with atRdv := true } }))) (·.st.rdvs) = some 1 := by
  decide +kernel
theorem test_halt : got (exec (.halt w0) base) (·.st.phase) = some .halted := by decide +kernel
theorem test_mark : got (exec (.mark w0 3 .core) base) (fun t => t.st.markers.map (·.queue)) = some [.ce, .mx] := by decide +kernel
theorem test_join_waits : got (exec (.join w0) (base.onSt (fun t => { t with markers := [⟨.ce, [1], [], .core, false⟩] }))) (·.st.blocked) =
    some (some .join) := by decide +kernel
theorem test_marker_head : got (exec (.markerHead 0) (base.onSt (fun t => { t with markers := [⟨.ce, [1], [], .core, false⟩] })))
    (fun t => t.job.a.markers.map (·.atHead)) = some [true] := by decide +kernel
theorem test_waitc : got (exec (.waitc w0 5 1) (base.onJob (fun j => { j with cc := j.cc.set 1 0x5000000000001 })))
    (fun t => (t.reg 5, t.job.consumed[1])) = some (0x5000000000001, 1) := by decide +kernel
theorem test_waitc_waits : got (exec (.waitc w0 5 1) base) (·.st.blocked) = some (some .waitc) := by decide +kernel
theorem test_disc : got (exec (.disc w0 3) base) (·.job.consumed[3]) = some 1 := by decide +kernel
theorem test_bar_scope : trapped (exec (.bar w0 .pkg) base) = some (0x0C, false) := by decide +kernel

/-! ## CSRs and supervisor instructions -/

/-- The same job under an owner that is not the supervisor. -/
def user : State := base.onJob (fun j => { j with owner := 0x21 })

theorem test_csrr : got (exec (.csrr w0 3 0x00A) base) (·.reg 3) = some 0 ∧ got (exec (.csrr w0 3 0x001) user) (·.reg 3) = some 0x21 ∧
    got (exec (.csrr w0 3 0x201) base) (·.reg 3) = some 2000 := by decide +kernel
theorem test_csrr_privilege : trapped (exec (.csrr w0 3 0x201) user) = some (0x02, false) := by decide +kernel
/-- R30: a flag of FPCTL is cleared by writing 1, MODE does not take 5. -/
theorem test_csrw_fpctl : got (exec (.csrw w0 1 0x008) ((withRegs base [(1, 0x10051234)]).onSt (fun t => { t with fpctl := 0x30000000 })))
    (·.st.fpctl) = some 0x20001234 := by decide +kernel
theorem test_csrw_outside_v : trapped (exec (.csrw w0 1 0x00A) base) = some (0x02, false) := by decide +kernel
theorem test_rcfg_write : got (exec (.rcfgWrite 0x48) (at_ .V)) (fun t => (t.job.rsize, t.job.rlive)) = some (1, 8) ∧
    got (exec (.rcfgWrite 0x49) (at_ .V)) (·.job.rsize) = some 0 := by decide +kernel
theorem test_qsel_write : got (exec (.qselWrite 0xFF) (base.onJob (fun j => { j with qset := 3 }))) (·.job.qset) = some 0xFF := by
  decide +kernel
theorem test_fqhead_write : got (exec (.fqheadWrite 0x1000000000200000) base) (fun t => (t.dies[0].fqSz, t.dies[0].fqLoc, t.dies[0].fqHead)) =
    some (1, 0x20, 0) := by decide +kernel
theorem test_fqack_status1 : got (exec (.fqack w0 3 4 false) base) (·.reg 3) = some 1 := by decide +kernel
theorem test_fqack_privilege : trapped (exec (.fqack w0 3 4 false) user) = some (0x02, false) := by decide +kernel

/-- A parked supervisor call with SEQ 9. -/
def called : State := { base with parked := [⟨9, 0x14, 1, .A, none, 1, some (5, w0), none, []⟩] }

theorem test_sret : got (exec (.sret w0 3 4 5) (withRegs called [(4, 9), (5, 77)])) (fun t => (t.reg 3, t.parked.map (·.ack))) =
    some (0, [some (.reply 77)]) := by decide +kernel
theorem test_trap_parks : got (exec (.trap w0 5 6) (withRegs base [(6, 42)]))
    (fun t => (t.job.phase, t.st.pc, t.dies[0].waiting.map (fun e => (e.2.2.1, e.2.2.2)))) = some (.parked, 4, [(42, 0)]) := by
  decide +kernel
theorem test_uret_outside_handler : trapped (exec (.uret w0) base) = some (0x02, false) := by decide +kernel
theorem test_uret : got (exec (.uret w0) (base.onSt (fun t => { t with inHandler := true, shadow := t.shadow.set 7 0x1000 })))
    (fun t => (t.st.pc, t.st.inHandler)) = some (0x1000, false) := by decide +kernel
theorem test_uint_delivery : got (exec .uintDelivery (base.onSt (fun t => { t with upend := 0x0A, uvec := 0x8000000000002000 })))
    (fun t => (t.st.pc, t.st.upend, t.st.inHandler, t.reg 14)) = some (0x2000, 8, true, 1) := by decide +kernel

/-- R366: job 5 of owner 0x0021 on core 9 of die 0, its E stream at an LDD, the die's count at 0x17. -/
def example366 : State :=
  { State.reset with
    job := { Job.reset 9 with uid := 1, phase := .running, owner := 0x21, lid := 5, e := { Stream.reset with pc := 0x1000000040 } }
    cur := .E
    dies := State.reset.dies.set 0 { State.reset.dies[0] with faults := 0x17 } }

theorem test_fault_entry : (takeTrap ⟨0x08, 0, 0x2000003000, none⟩ example366).dies[0].waiting =
    [(0x0000001708600100, 0x0000000500210900, 0x2000003000, 0x1000000040)] := by decide +kernel
theorem test_trapinfo : got (exec (.csrr w0 3 0x022) { takeTrap ⟨0x08, 0, 0x2000003000, none⟩ example366 with cur := .A }) (·.reg 3) =
    some 0x0000001708600100 := by decide +kernel
theorem test_fault_entry_write : got (exec (.faultEntryWrite 0) { base with dies := State.reset.dies.set 0 { State.reset.dies[0] with
      fqLoc := 0x100, fqTail := 0x3E, waiting := [(1, 2, 3, 4)] } })
    (fun t => (t.load64 (cellKey .vat (0x100 * 512 + 0x3E * 32 + 8)), t.dies[0].fqTail)) = some (2, 0x3F) := by decide +kernel
theorem test_fault_resume : got (exec (.faultResume 9) { called with
      job := { called.job with phase := .parked }, parked := [⟨9, 0x14, 1, .A, none, 1, some (5, w0), some (.reply 77), []⟩] })
    (fun t => (t.reg 5, t.parked.length, t.job.phase)) = some (77, 0, .running) := by decide +kernel
theorem test_wheel_stall : got (exec .wheelStall (base.onJob (fun j => { j with
      a := { j.a with blocked := some .token }, m := { j.m with blocked := some .rdv }, v := { j.v with phase := .halted },
      e := { j.e with blocked := some .queue } }))) (·.job.uid) = some 0 ∧ got (exec .wheelStall base) (·.job.uid) = some 1 := by
  decide +kernel
theorem test_machine_error : trapped (exec .machineError base) = some (0x12, false) := by decide +kernel

/-! ## Memory -/

/-- A gigabyte of PKG memory from address 0 on at VA 0 (R199: 0xBC is VALID, PKG, LEAF and WR). -/
def mapped (s : State) : State := { s with tlb := [⟨s.job.owner, 0, 30, 0xBC00000000000000⟩] }

/-- The same of a Vat (0xAC: VALID, VAT, LEAF and WR). -/
def mappedVat (s : State) : State := { s with tlb := [⟨s.job.owner, 0, 30, 0xAC00000000000000⟩] }

theorem test_load_extends : got (exec (.ldh w0 3 1 2) ((mapped (withRegs base [(1, 0x100)])).storeBytes (cellKey .pkg 0x104) [0xFE, 0xFF]))
      (·.reg 3) = some (-2) ∧
    got (exec (.ldhn w0 3 1 2) ((mapped (withRegs base [(1, 0x100)])).storeBytes (cellKey .pkg 0x104) [0xFE, 0xFF])) (·.reg 3) =
      some 0xFFFE := by decide +kernel
theorem test_load_widths : let s := (mapped (withRegs base [(1, 0x100)])).storeBytes (cellKey .pkg 0x100) [1, 0x80, 2, 0x80, 3, 0, 0, 0x80]
    got (exec (.ldb w0 3 1 1) s) (·.reg 3) = some (-128) ∧ got (exec (.ldbn w0 3 1 1) s) (·.reg 3) = some 0x80 ∧
    got (exec (.ldw w0 3 1 0) s) (·.reg 3) = some 0xFFFFFFFF80028001 ∧ got (exec (.ldwn w0 3 1 0) s) (·.reg 3) = some 0x80028001 ∧
    got (exec (.ldd w0 3 1 0) s) (·.reg 3) = some 0x8000000380028001 := by decide +kernel
/-- R210: an offset counts accesses of its own width: STW #-1 is 4 bytes below. -/
theorem test_store_negative_offset : got (exec (.stw w0 6 2 0x7FF) (mapped (withRegs base [(6, 0x11223344AABBCCDD), (2, 0x108)])))
    (fun t => (t.load64 (cellKey .pkg 0x100))) = some 0xAABBCCDD00000000 := by decide +kernel
theorem test_store_widths : let s := mapped (withRegs base [(6, 0x1122334455667788), (2, 0x100)])
    got (exec (.stb w0 6 2 1) s) (·.load64 (cellKey .pkg 0x100)) = some 0x8800 ∧
    got (exec (.sth w0 6 2 1) s) (·.load64 (cellKey .pkg 0x100)) = some 0x77880000 ∧
    got (exec (.std w0 6 2 1) s) (·.load64 (cellKey .pkg 0x108)) = some 0x1122334455667788 := by decide +kernel
theorem test_misaligned : trapped (exec (.ldd w0 3 1 0) (mapped (withRegs base [(1, 0x104)]))) = some (0x07, false) := by decide +kernel
theorem test_page_absent_parks : trapped (exec (.ldd w0 3 1 0) base) = some (0x08, true) := by decide +kernel

/-- File 20: owner 0x55's tables for the page P0; levels 4 to 2 as R199 lays out table entries, the level-1 table at 0x0FFFF000. -/
def tables : State :=
  ((((({ base with owners := [⟨0x55, 0x1000, 0, none, none, false, false, [], 0, 0, 0, 0⟩] }.onJob (fun j => { j with owner := 0x55 })
    ).storeBytes (cellKey .pkg 0x1000) (leBytes 8 0xB000000000202000)).storeBytes (cellKey .pkg 0x202800) (leBytes 8 0xB000000000203000)
    ).storeBytes (cellKey .pkg 0x203000) (leBytes 8 0xB00000000FFFF000)).storeBytes (cellKey .pkg 0x0FFFF000) (leBytes 8 0xBC00000010000000)
    ).storeBytes (cellKey .pkg 0x10000028) (leBytes 8 99)

theorem test_page_walk : got (exec (.ldd w0 3 1 5) (withRegs tables [(1, 0x4000000000)])) (·.reg 3) = some 99 := by decide +kernel

theorem test_atomics : let s := fun (d : Word) => (mappedVat (withRegs base [(1, 0x100), (2, 5), (3, d)])).storeBytes (cellKey .vat 0x100) [7]
    let r := fun (i : Instr) (d : Word) => got (exec i (s d)) (fun t => (t.reg 3, t.load64 (cellKey .vat 0x100)))
    r (.amoadd w0 .none 3 1 2) 0 = some (7, 12) ∧ r (.amoand w0 .none 3 1 2) 0 = some (7, 5) ∧ r (.amoor w0 .none 3 1 2) 0 = some (7, 7) ∧
    r (.amoxor w0 .none 3 1 2) 0 = some (7, 2) ∧ r (.amomin w0 .none 3 1 2) 0 = some (7, 5) ∧ r (.amomax w0 .none 3 1 2) 0 = some (7, 7) ∧
    r (.amominn w0 .none 3 1 2) 0 = some (7, 5) ∧ r (.amomaxn w0 .none 3 1 2) 0 = some (7, 7) ∧
    r (.amoxchg w0 .none 3 1 2) 0 = some (7, 5) ∧ r (.amocas w0 .none 3 1 2) 7 = some (7, 5) ∧ r (.amocas w0 .none 3 1 2) 8 = some (7, 7) ∧
    r (.amoincb w0 .none 3 1 2) 0 = some (7, 7) := by decide +kernel
/-- R211: AMOFADD adds FP32: 1.5 + 2.0 is 3.5. -/
theorem test_amofadd : got (exec (.amofadd w0 .none 3 1 2)
      ((mappedVat (withRegs base [(1, 0x100), (2, 0x40000000)])).storeBytes (cellKey .vat 0x100) (leBytes 4 0x3FC00000)))
    (fun t => (t.reg 3, t.load64 (cellKey .vat 0x100))) = some (0x3FC00000, 0x40600000) := by decide +kernel
theorem test_ordered_atomic_queues : got (exec (.amoadd w0 .ord 3 1 2) (mapped (withRegs base [(1, 0x100), (2, 5)])))
    (fun t => (t.job.vqQ.length, t.st.pend)) = some (1, 8) := by decide +kernel
theorem test_obopen_queues : got (exec (.obopen w0 1 1 2 9) (mapped (withRegs base [(1, 0x100)]))) (fun t => (t.job.vqQ.length, t.st.pc)) =
    some (1, 8) := by decide +kernel

/-! ## Capabilities -/

/-- The GLOBAL capability of R68's example: BASE 0x10000, STRIDE 64, ROWT 16, COLT 64; owner 0, all permissions. -/
def gcap : BitVec 128 := mkCap 0x10000 64 16 64 0xFA0000

/-- A stream of base that holds it in pair 1. -/
def capped (x : StreamId) : State := (at_ x).onSt (fun t => t.setCap 1 gcap true)

/-- R189: the worked narrowing: a0 = 4, b0 = 8, k = 1, ROWT' = 4, COLT' = 8 gives BASE' = 0x0001_0108. -/
theorem test_cnarrow : got (exec (.cnarrow w0 3 1 12) (withRegs (capped .A) [(12, 0x0004000800400801)]))
    (fun t => (Cap.base (t.st.cap 3), Cap.stride (t.st.cap 3), Cap.rowt (t.st.cap 3), Cap.colt (t.st.cap 3), t.st.tag 3)) =
    some (0x10108, 64, 4, 8, true) := by decide +kernel
theorem test_cnarrow_traps : trapped (exec (.cnarrow w0 3 2 12) (capped .A)) = some (0x04, false) ∧
    trapped (exec (.cnarrow w0 3 1 12) (withRegs (capped .A) [(12, 0x0004003900400801)])) = some (0x05, false) := by decide +kernel
theorem test_cperm : got (exec (.cperm w0 3 1 12) (withRegs (capped .A) [(12, 0x118)])) (fun t => (Cap.perms (t.st.cap 3), Cap.tclass (t.st.cap 3))) =
    some (0x18, 2) := by decide +kernel
theorem test_cget_ctag : got (exec (.cget w0 5 1 2) (capped .A)) (·.reg 5) = some 16 ∧ got (exec (.ctag w0 5 1) (capped .A)) (·.reg 5) = some 1 ∧
    got (exec (.ctag w0 5 2) (capped .A)) (·.reg 5) = some 0 := by decide +kernel

/-! ## Engine commands -/

/-- A LOCAL capability over entries 0 to 31 as 4 rows of 8, with every permission. -/
def lcap : BitVec 128 := mkCap 0 8 4 8 0xF80000

/-- A stream of base that holds it in pairs 1 and 2, and the GLOBAL one in pair 3. -/
def tiled (x : StreamId) : State :=
  (at_ x).onSt (fun t => ((t.setCap 1 lcap true).setCap 2 lcap true).setCap 3 gcap true)

/-- An entry of owner 0 from its words 0 to 2, unscaled, with no record (R52). -/
def entry (a b c : Nat) : Tte :=
  BitVec.ofNat 512 (a + b * 2 ^ 64 + c * 2 ^ 128 + 0x3F80000000000000 * 2 ^ 192 + 0xFFFFFFFF * 2 ^ 384 + (2 ^ 64 - 1) * 2 ^ 448)

/-- A stored FP32 tile of 1 × 4 in the scratchpad at a granule. -/
def stored (g : Nat) : Tte := entry (3 * 2 ^ 41 + 2 ^ 27) (g * 2 ^ 24) 1

/-- LTT entries 0 and 1 of core 0: stored tiles, the first with elements 1.0, 2.0, −3.0 and 0.5; entry 2 is the symbol ZERO. -/
def tilesIn (s : State) : State :=
  ((((s.onJob (fun j => { j with scrlog := 13 })).setTte (lttKey 0 0) (stored 0x10)).setTte (lttKey 0 1) (stored 0x20)).setTte (lttKey 0 2)
    (entry (2 ^ 61 + 3 * 2 ^ 41 + 2 ^ 27) 0 0)).storeBytes (cellKey .scratch (0x10 * 512))
    (leBytes 4 0x3F800000 ++ leBytes 4 0x40000000 ++ leBytes 4 0xC0400000 ++ leBytes 4 0x3F000000)

/-- A command of the E stream with counter 3 that holds the LOCAL capability in each pair. -/
def cmd (i : Instr) (x y : Word) : Cmd :=
  ⟨0, i, .E, 0, 3, false, lcap, lcap, lcap, x, y, 0, 0, 0, .vat, 0, 0, 0, (0, 0, []), false, 0, false, [], none, false⟩

/-- The Copy Engine completes one command on the tiles: what the state then shows, with the counter's word. -/
def completes {α : Type} (i : Instr) (x y : Word) (f : State → α) : Option (α × Word) :=
  got (exec (.copyEngineCompletion 0) ((tilesIn base).onJob (fun j => { j with ceQ := [cmd i x y] }))) (fun t => (f t, t.job.cc[3]))

theorem test_tile_command_is_accepted : got (exec (.tcopy w0 1 2 9 2 true) (withRegs (tiled .E) [(9, 1)]))
    (fun t => (t.job.ceQ.map (fun c => (c.x, c.cc, c.uint)), t.st.pc)) = some ([(1, 2, true)], 4) := by decide +kernel
theorem test_tile_commands_are_accepted : ∀ i ∈ ([.tld w0 1 2 9 2 false, .tldas w0 3 2 8 2 false .pkg, .tpref w0 1 9 2 false,
      .tgath w0 1 2 9 2 false, .tst w0 1 3 9 2 false, .tstash w0 1 3 9 2 false, .tscat w0 1 2 9 2 false,
      .tcommit w0 1 3 8 2 false .pkg, .tfill w0 1 8 2 false .had, .tdedup w0 1 2 9 2 false, .tpromo w0 1 9 2 false,
      .talias w0 1 2 9 2 false, .publ w0 2 1 9 .pkg] : List Instr), got (exec i (tiled .E)) (·.job.ceQ.length) = some 1 := by
  decide +kernel
theorem test_tredst_is_accepted : got (exec (.tredst w0 1 2 8 2 false) (tiled .E)) (·.job.vqQ.length) = some 1 := by decide +kernel
/-- R218: TLD writes a LOCAL tile, TLDAS reads a GLOBAL one. -/
theorem test_class_traps : trapped (exec (.tld w0 1 3 9 2 false) (tiled .E)) = some (0x06, false) ∧
    trapped (exec (.tldas w0 1 2 8 2 false .pkg) (tiled .E)) = some (0x06, false) := by decide +kernel
theorem test_bound_trap : trapped (exec (.tpref w0 1 9 2 false) (withRegs (tiled .E) [(9, 0x0004000000000000)])) = some (0x05, false) := by
  decide +kernel
theorem test_tinfo : got (exec (.tinfo w0 1 9 1) (tilesIn (tiled .E))) (·.reg 9) = some 0x10000000 ∧
    trapped (exec (.tinfo w0 1 9 1) (tiled .E)) = some (0x09, true) := by decide +kernel
/-- R204: COUNT 1, LAST OK. TLD copies the bytes of the stored tile. -/
theorem test_tld : completes (.tld w0 1 2 9 3 false) 1 0 (fun t => memRead t.mem (cellKey .scratch (0x20 * 512)) 16) =
    some (leBytes 4 0x3F800000 ++ leBytes 4 0x40000000 ++ leBytes 4 0xC0400000 ++ leBytes 4 0x3F000000, 1) := by decide +kernel
theorem test_tcopy_symbol : completes (.tcopy w0 1 2 9 3 false) (0x0000000200000001) 0 (fun t => (t.tte (lttKey 0 1)).kind) =
    some (1, 1) := by decide +kernel
theorem test_tfill_const : completes (.tfill w0 1 8 3 false .const) 0x13FC00000 0 (fun t =>
      ((t.tte (lttKey 0 1)).kind, (t.tte (lttKey 0 1)).syma)) = some ((2, 0x3FC00000), 1) := by decide +kernel
theorem test_tpromo_of_symbol : completes (.tpromo w0 1 9 3 false) 0x100000000 0 (fun t => (t.tte (lttKey 0 1)).kind) =
    some (0, 1) := by decide +kernel
/-- R204, R205: a shape that does not fit posts SHAPE (4) and counts an error. -/
theorem test_shape_is_posted : got (exec (.copyEngineCompletion 0)
      (((tilesIn base).setTte (lttKey 0 1) (entry (2 * 2 ^ 41 + 2 ^ 27) (0x20 * 2 ^ 24) 1)).onJob (fun j =>
        { j with ceQ := [cmd (.tld w0 1 2 9 3 false) 1 0] }))) (fun t => (t.job.cc[3], t.job.errcnt)) =
    some (0x0004000100000001, 1) := by decide +kernel
theorem test_absent_tile_parks_the_thread : got (exec (.copyEngineCompletion 0) (base.onJob (fun j =>
      { j with ceQ := [cmd (.tld w0 1 2 9 3 false) 1 0] }))) (fun t => (t.job.ceQ.map (·.parked), t.job.phase)) =
    some ([true], .running) := by decide +kernel
theorem test_transfer_revoked : got (exec (.transferRevoked 0) (base.onJob (fun j => { j with ceQ := [cmd (.tld w0 1 2 9 3 false) 1 0] })))
    (·.job.ceQ.length) = some 1 := by decide +kernel
theorem test_aon_write_hold : got (exec (.aonWriteHold 0) (((tilesIn base).setTte (lttKey 0 0)
      (entry (3 * 2 ^ 41 + 2 ^ 35 + 2 ^ 27) (0x10 * 2 ^ 24) 1)).onJob (fun j =>
        { j with ceQ := [cmd (.tld w0 1 2 9 3 false) 1 0] }))) (·.aonHolds) = some [(lttKey 0 0, 0)] := by decide +kernel

/-! ## Matrix -/

theorem test_matrix_commands_are_accepted : ∀ i ∈ ([.mma w0 .acc0 1 2 0 3 false false false false false,
      .mmat w0 .acc1 1 2 0 3 false false false false false .zero false 0, .macc w0 .acc1 1 3 false false, .mzero w0 .acc0 1 false,
      .mdrain w0 .acc0 1 3 false none .none false, .mmov w0 .acc2 .acc0 3 false false] : List Instr),
    got (exec i (tiled .M)) (·.job.mxQ.length) = some 1 := by decide +kernel
theorem test_matrix_outside_m : trapped (exec (.mzero w0 .acc0 1 false) (tiled .A)) = some (0x02, false) := by decide +kernel
theorem test_mstat : got (exec (.mstat w0 .acc0 5 false true) ((at_ .M).onJob (fun j => j.setAccStatus .acc0 0x0000120F3F800000)))
    (fun t => (t.reg 5, t.job.accStatus .acc0)) = some (0x0000120F3F800000, 0x000012003F800000) := by decide +kernel
theorem test_mmov_copies : got (exec .matrixCommandCompletion ((base.onJob (fun j => j.setAccStatus .acc0 0x5F)).onJob (fun j =>
      { j with mxQ := [cmd (.mmov w0 .acc2 .acc0 3 false false) 0 0] }))) (fun t => (t.job.accStatus .acc2, t.job.cc[3])) =
    some (0x5F, 1) := by decide +kernel
theorem test_mzero_keeps_skip : got (exec .matrixCommandCompletion ((base.onJob (fun j => j.setAccStatus .acc1 0xAA00000F00000000)).onJob
      (fun j => { j with mxQ := [cmd (.mzero w0 .acc1 3 false) 0 0] }))) (fun t => t.job.accStatus .acc1) =
    some 0xAA00002000000000 := by decide +kernel
/-- R255: MACC of a ZERO tile changes nothing. -/
theorem test_macc_zero : got (exec .matrixCommandCompletion ((tilesIn base).onJob (fun j =>
      { j with mxQ := [cmd (.macc w0 .acc0 1 3 false false) 0 0] }))) (fun t => t.job.cc[3]) = some 1 := by decide +kernel

/-- A stored I8 tile of 1 × 4 in the scratchpad at a granule (R20: I8 is code 6). -/
def storedI8 (g : Nat) : Tte := entry (6 * 2 ^ 57 + 3 * 2 ^ 41 + 2 ^ 27) (g * 2 ^ 24) 1

/-- R246, R242: MMA of the row (1, 2, −3, 4) by itself read transposed is 1 + 4 + 9 + 16. -/
theorem test_mma_i8 : got (exec .matrixCommandCompletion ((((base.onJob (fun j => { j with scrlog := 13 })).setTte (lttKey 0 0)
      (storedI8 0x10)).storeBytes (cellKey .scratch (0x10 * 512)) [1, 2, 0xFD, 4]).onJob (fun j =>
      { j with mxQ := [cmd (.mma w0 .acc0 1 2 0 3 false true false false false) 0 0] })))
    (fun t => (lane 32 t.job.acc[0].rows[0] 0, t.job.cc[3])) = some (30, 1) := by decide +kernel

/-! ## Numbers -/

/-- R29: the first two worked roundings, FP32 to BF16 in RNE. -/
theorem test_round_to_bf16 : (roundTo .bf16 rneCtx (decodeVal .fp32 0x3F80C000)).1 = 0x3F81 ∧
    (roundTo .bf16 rneCtx (decodeVal .fp32 0x3F808000)).1 = 0x3F80 := by decide +kernel
/-- R37, R246: 1.5 × 2.0 + 0.5 × (−1.0) in F16, one chunk, accumulated on 1.0. -/
theorem test_fp32_sum : (roundTo .fp32 rneCtx (addVal .rne (mulVal (decodeVal .f16 0x3E00) (decodeVal .f16 0x4000)).1
    (decodeVal .fp32 0x3F800000)).1).1 = 0x40800000 := by decide +kernel

/-! ## Vector instructions -/

/-- A register from its low lanes. -/
def vec (w : Nat) (l : List Nat) : VecReg := BitVec.ofNat 4096 (l.zipIdx.map (fun p => p.1 * 2 ^ (w * p.2))).sum

/-- The low n lanes of a register. -/
def lanes (w n : Nat) (x : VecReg) : List Nat := (List.range n).map (lane w x)

/-- Stream V with an element type and registers v1 and v2. -/
def vecs (et : Fmt) (a b : VecReg) : State := (((at_ .V).onJob (fun j => { j with et := et })).setVreg 1 a).setVreg 2 b

/-- Lanes 0 to n − 1 of v3 after an instruction, and the flags of FPCTL. -/
def into (i : Instr) (n : Nat) (s : State) : Option (List Nat × Nat) :=
  got (exec i s) (fun t => (lanes (fmtWidth s.job.et) n (t.vreg 3), t.st.fpctl.toNat / 2 ^ 28))

/-- R271's worked addition: a tie in BF16, which sets I. -/
theorem test_vadd_bf16 : got (exec (.vadd w0 3 1 2 0) (vecs .bf16 (vec 16 [0x3F80]) (vec 16 [0x3B80])))
    (fun t => (lane 16 (t.vreg 3) 0, t.st.fpctl != 0)) = some (0x3F80, true) := by decide +kernel
/-- R285's worked sequence, one instruction each: v0 = 0, v1 = 3, −1, 0, 7, −2, 5. -/
def seq1 : State := vecs .fp32 (vec 32 [0x40400000, 0xBF800000, 0, 0x40E00000, 0xC0000000, 0x40A00000]) 0
/-- The same with k2 set in lanes 0, 3 and 5. -/
def seq2 : State := seq1.setPred 2 0x29
theorem test_vclt : got (exec (.vclt w0 2 0 1 0) seq1) (fun t => (t.pred 2, t.st.fpctl)) = some (0x29, 0) := by decide +kernel
theorem test_kpop_kfirst : got (exec (.kpop w0 2 3 0) seq2) (·.reg 3) = some 3 ∧ got (exec (.kfirst w0 2 6 0) seq2) (·.reg 6) = some 0 := by
  decide +kernel
theorem test_vcomp : got (exec (.vcomp w0 4 1 2) seq2) (·.vreg 4) = some (vec 32 [0x40400000, 0x40E00000, 0x40A00000]) := by
  decide +kernel
theorem test_vrsum : got (exec (.vrsum w0 1 5 2) seq2) (fun t => (t.reg 5, t.st.fpctl)) = some (0x41700000, 0) := by decide +kernel
theorem test_vsel : got (exec (.vsel w0 7 1 0 2) seq2) (·.vreg 7) =
    some (vec 32 [0x40400000, 0, 0, 0x40E00000, 0, 0x40A00000]) := by decide +kernel
/-- R274: a signalling NaN clears the lane and sets V. -/
theorem test_vclt_nan : got (exec (.vclt w0 2 0 1 0) (seq1.setVreg 1 (vec 32 [0x40400000, 0xBF800000, 0, 0x7FA00000, 0xC0000000, 0x40A00000])))
    (fun t => (t.pred 2, t.st.fpctl != 0)) = some (0x21, true) := by decide +kernel
/-- R282: the worked VQUANT of 5.0, −0.7, 13.0 and 0.1 to E2M1. -/
theorem test_vquant : got (exec (.vquant w0 8 1 6 0) (withRegs (vecs .fp32 (vec 32 [0x40A00000, 0xBF333333, 0x41500000, 0x3DCCCCCD]) 0)
      [(6, 0x50)])) (fun t => (lanes 8 4 (t.vreg 8), lanes 8 5 (t.vreg 9))) =
    some ([0x82, 0x05, 0, 0], [0x81, 0x7F, 0x7F, 0x7F, 0]) := by decide +kernel
/-- R283: the worked VDEQ. -/
theorem test_vdeq : got (exec (.vdeq w0 10 8 7 0) (withRegs (((vecs .fp32 0 0).setVreg 8 (vec 8 [0x82, 0x05])).setVreg 9
      (vec 8 [0x81, 0x7F, 0x7F, 0x7F])) [(7, 0x05)])) (fun t => lanes 32 5 (t.vreg 10)) =
    some [0x40800000, 0x80000000, 0x41400000, 0, 0] := by decide +kernel
theorem test_vcvt : got (exec (.vcvt w0 3 1 6 0) (withRegs (vecs .fp32 (vec 32 [0x40400000, 0xBF800000]) 0) [(6, 0x60)]))
    (fun t => lanes 8 3 (t.vreg 3)) = some [3, 0xFF, 0] := by decide +kernel
theorem test_vsub_vmul : (into (.vsub w0 3 1 2 0) 1 (vecs .fp32 (vec 32 [0x40400000]) (vec 32 [0x3F800000]))) = some ([0x40000000], 0) ∧
    into (.vmul w0 3 1 2 0) 1 (vecs .fp32 (vec 32 [0x40400000]) (vec 32 [0xBF800000])) = some ([0xC0400000], 0) := by decide +kernel
/-- R272: VFMA adds the product to the destination; VFMS and VFNMA by their formulas: 3 × 2 and 1. -/
theorem test_fused : let s := (vecs .fp32 (vec 32 [0x40400000]) (vec 32 [0x40000000])).setVreg 3 (vec 32 [0x3F800000])
    into (.vfma w0 3 1 2 0) 1 s = some ([0x40E00000], 0) ∧ into (.vfms w0 3 1 2 0) 1 s = some ([0x40A00000], 0) ∧
    into (.vfnma w0 3 1 2 0) 1 s = some ([0xC0A00000], 0) := by decide +kernel
theorem test_vmin_vmax : into (.vmin w0 3 1 2 0) 1 (vecs .fp32 (vec 32 [0x80000000]) 0) = some ([0x80000000], 0) ∧
    into (.vmax w0 3 1 2 0) 1 (vecs .fp32 (vec 32 [0x80000000]) 0) = some ([0], 0) := by decide +kernel
theorem test_vabs_vneg : into (.vabs w0 3 1 0) 1 (vecs .fp32 (vec 32 [0xBF800000]) 0) = some ([0x3F800000], 0) ∧
    into (.vneg w0 3 1 0) 1 (vecs .fp32 (vec 32 [0xBF800000]) 0) = some ([0x3F800000], 0) := by decide +kernel
theorem test_vdiv : into (.vdiv w0 3 1 2 0) 1 (vecs .fp32 (vec 32 [0x40C00000]) (vec 32 [0x40000000] ||| vec 32 (List.replicate 128 0x3F800000 |>.set 0 0))) =
    some ([0x40400000], 0) := by decide +kernel
theorem test_vector_integer : into (.viadd w0 3 1 2 0) 2 (vecs .i8 (vec 8 [0x7F, 1]) (vec 8 [1, 1])) = some ([0x80, 2], 0) ∧
    into (.visub w0 3 1 2 0) 1 (vecs .i8 0 (vec 8 [1])) = some ([0xFF], 0) ∧
    into (.vimul w0 3 1 2 0) 1 (vecs .n8 (vec 8 [0x11]) (vec 8 [0x11])) = some ([0x21], 0) ∧
    into (.vimin w0 3 1 2 0) 1 (vecs .i8 (vec 8 [0xFF]) (vec 8 [1])) = some ([0xFF], 0) ∧
    into (.vimin w0 3 1 2 0) 1 (vecs .n8 (vec 8 [0xFF]) (vec 8 [1])) = some ([1], 0) ∧
    into (.vimax w0 3 1 2 0) 1 (vecs .i8 (vec 8 [0xFF]) (vec 8 [1])) = some ([1], 0) := by decide +kernel
theorem test_vector_bits : into (.vand w0 3 1 2 0) 1 (vecs .i32 (vec 32 [12]) (vec 32 [10])) = some ([8], 0) ∧
    into (.vor w0 3 1 2 0) 1 (vecs .i32 (vec 32 [12]) (vec 32 [10])) = some ([14], 0) ∧
    into (.vxor w0 3 1 2 0) 1 (vecs .i32 (vec 32 [12]) (vec 32 [10])) = some ([6], 0) ∧
    into (.vshl w0 3 1 2 0) 1 (vecs .i32 (vec 32 [1]) (vec 32 [33])) = some ([2], 0) ∧
    into (.vshr w0 3 1 2 0) 1 (vecs .i32 (vec 32 [0x80000000]) (vec 32 [31])) = some ([1], 0) ∧
    into (.vsra w0 3 1 2 0) 1 (vecs .i32 (vec 32 [0x80000000]) (vec 32 [31])) = some ([0xFFFFFFFF], 0) := by decide +kernel
theorem test_vector_type : trapped (exec (.viadd w0 3 1 2 0) (vecs .fp32 0 0)) = some (0x01, false) ∧
    trapped (exec (.vadd w0 3 1 2 0) (vecs .i8 0 0)) = some (0x01, false) := by decide +kernel
/-- R270: an inactive lane keeps its value. -/
theorem test_inactive_lane : into (.viadd w0 3 1 2 1) 2 (((vecs .i8 (vec 8 [1, 1]) (vec 8 [1, 1])).setVreg 3 (vec 8 [9, 9])).setPred 1 2) =
    some ([9, 2], 0) := by decide +kernel
theorem test_compares_of_vectors : let s := vecs .i8 (vec 8 [1, 0xFF, 2]) (vec 8 [1, 1, 1])
    let p := fun (i : Instr) => got (exec i (s.setPred 1 7)) (fun t => t.pred 2)
    p (.vceq w0 2 1 2 1) = some 1 ∧ p (.vcne w0 2 1 2 1) = some 6 ∧ p (.vclt w0 2 1 2 1) = some 2 ∧ p (.vcle w0 2 1 2 1) = some 3 := by
  decide +kernel
theorem test_vcun : got (exec (.vcun w0 2 1 2 0) (vecs .fp32 (vec 32 [0, 0x7FC00000]) 0)) (·.pred 2) = some 2 := by decide +kernel
theorem test_reductions : let s := (vecs .i8 (vec 8 [5, 0xFE, 7, 7]) 0).setPred 1 0xF
    got (exec (.vrsum w0 1 5 1) s) (·.reg 5) = some 17 ∧ got (exec (.vrmax w0 1 5 1) s) (·.reg 5) = some 7 ∧
    got (exec (.vrmin w0 1 5 1) s) (·.reg 5) = some (-2) ∧ got (exec (.vrargmx w0 1 5 1) s) (·.reg 5) = some 2 := by decide +kernel
theorem test_predicates : let s := ((((at_ .V).setPred 1 12).setPred 2 10).setPred 4 15)
    let p := fun (i : Instr) => got (exec i s) (·.pred 3)
    p (.kand w0 3 1 2 4) = some 8 ∧ p (.kor w0 3 1 2 4) = some 14 ∧ p (.kxor w0 3 1 2 4) = some 6 ∧ p (.knot w0 3 1 4) = some 3 ∧
    got (exec (.kset w0 3 5 0) (withRegs s [(5, 3)])) (·.pred 3) = some 7 := by decide +kernel
theorem test_k0_discards : got (exec (.kset w0 0 5 0) (at_ .V)) (·.pred 0) = some (BitVec.allOnes 512) := by decide +kernel
theorem test_permutes : let s := (withRegs (vecs .i8 (vec 8 [10, 11, 12]) (vec 8 [2, 0, 200])) [(5, 1)]).setPred 1 7
    into (.vexpd w0 3 1 1) 4 s = some ([10, 11, 12, 0], 0) ∧ into (.vperm w0 3 1 2 1) 3 s = some ([12, 10, 0], 0) ∧
    into (.vslide w0 3 1 5 1) 3 s = some ([11, 12, 0], 0) ∧ into (.vbcast w0 3 5 1) 4 s = some ([1, 1, 1, 0], 0) ∧
    into (.viota w0 3 5 1) 4 s = some ([1, 2, 3, 0], 0) ∧ into (.vmov w0 3 1 0) 3 s = some ([10, 11, 12], 0) ∧
    into (.vins w0 3 1 5 0) 4 s = some ([1, 10, 11, 12], 0) ∧ got (exec (.vext w0 1 5) s) (·.reg 5) = some 11 := by decide +kernel
theorem test_vcfg : got (exec (.vcfg w0 .bf16 (some .rz)) (at_ .V)) (fun t => (t.job.et, t.st.fpctl)) = some (.bf16, 0x10000) := by
  decide +kernel
/-- R135, R136: a read at or beyond the live depth gives 0 and is counted. -/
theorem test_dead_read : got (exec (.vmov w0 1 17 0) ((at_ .V).onJob (fun j => { j with rsize := 1, rlive := 1, vregs := j.vregs.set 17 5 })))
    (fun t => (t.vreg 1, t.job.deadrd != 0)) = some (0, true) := by decide +kernel
theorem test_vld : got (exec (.vld w0 1 2 1 0 false false) ((mapped (withRegs (at_ .V) [(2, 0x1000)])).storeBytes (cellKey .pkg 0x1000) [1, 2, 3]))
    (fun t => (lanes 8 4 (t.vreg 1), t.reg 2)) = some ([1, 2, 3, 0], 0x1040) := by decide +kernel
theorem test_vst : got (exec (.vst w0 1 2 0 1 false false) (((mapped (withRegs (at_ .V) [(2, 0x1000)])).setVreg 1 (vec 32 [5, 6])).setPred 1 2))
    (fun t => t.load64 (cellKey .pkg 0x1000)) = some 0x600000000 := by decide +kernel
theorem test_vldg_vsts : got (exec (.vldg w0 3 2 1 1 false) (((mapped (withRegs (vecs .i32 (vec 32 [2, 0]) 0) [(2, 0x1000)])).storeBytes
      (cellKey .pkg 0x1000) [1, 0, 0, 0, 2, 0, 0, 0, 3]).setPred 1 3)) (fun t => lanes 32 3 (t.vreg 3)) = some [3, 1, 0] ∧
    got (exec (.vsts w0 2 2 1 1 false) ((mapped (withRegs (vecs .i32 (vec 32 [1, 1]) (vec 32 [7, 8])) [(2, 0x1000)])).setPred 1 3))
      (fun t => t.load64 (cellKey .pkg 0x1000)) = some 0x800000000 := by decide +kernel
theorem test_queue_slot_fill : got (exec (.queueSlotFill 0 0) ((bound .V).onJob (·.setQueue 0 [⟨5, false⟩])))
    (fun t => (t.job.queue 0).entries.map (·.ready)) = some [true] := by decide +kernel
/-- R129: a slot that is filled already stays as it is, and a stream that waits for a queue goes on waiting. -/
theorem test_queue_slot_filled : got (exec (.queueSlotFill 0 0) (((bound .V).onJob (·.setQueue 0 [⟨5, true⟩])).block .queue))
    (fun t => ((t.job.queue 0).entries, t.st.blocked)) = some ([⟨5, true⟩], some .queue) := by decide +kernel
/-- R63: a block that goes back stands at the head of its pool and counts as free. -/
theorem test_give_back : (fun t : State => (t.load (cellKey .pkg 0x1000) 5, t.load (cellKey .pkg 0x100C) 4, t.load64 (cellKey .pkg 0xE00)))
    (base.giveBlock (cellKey .pkg 0x1000, cellKey .pkg 0xE00, 7)) = (7, 1, 0) := by decide +kernel

/-! ## Culture, tokens and clocks -/

/-- File 13: the van der Corput dimension, and the scrambled one. -/
def corput : DimRec := BitVec.ofNat 2112 ((List.range 32).map (fun b => 2 ^ (31 - b) * 2 ^ (32 * b))).sum
def scrambled : DimRec := BitVec.ofNat 2112 (0x80000000 + 0xC0000000 * 2 ^ 32 + 0xA0000000 * 2 ^ 64 + 0xF0000000 * 2 ^ 96 +
  0xC0000000 * 2 ^ (32 * 33) + 0x10000000 * 2 ^ (32 * 64))
theorem test_culture_points : [0, 1, 2, 3, 4, 5, 6, 7].map (culturePoint corput) =
    [0, 0x80000000, 0x40000000, 0xC0000000, 0x20000000, 0xA0000000, 0x60000000, 0xE0000000] := by decide +kernel
theorem test_scrambled_points : culturePoint scrambled 1 = 0xD0000000 ∧ culturePoint scrambled 3 = 0x50000000 := by decide +kernel
theorem test_qrn : got (exec (.qrn w0 5 1 3 1) ((withRegs ((vecs .fp32 (vec 32 [0, 1, 2, 3]) 0).onJob (fun j =>
      { j with culture := j.culture.set 0 corput })) [(3, 0x100)]).setPred 1 15)) (fun t => lanes 32 5 (t.vreg 5)) =
    some [0, 0x3F000000, 0x3E800000, 0x3F400000, 0] := by decide +kernel
theorem test_qcfg_none : got (exec (.qcfg w0 2) (at_ .V)) (·.job.qset) = some 0xFF := by decide +kernel
theorem test_qldt : got (exec (.qldt w0 2 1) ((mapped (withRegs (at_ .V) [(2, 0x1000)])).storeBytes (cellKey .pkg 0x1000) [7]))
    (fun t => (t.job.culture[1], t.job.qdirty)) = some (7, true) := by decide +kernel
theorem test_versions_of_tokens : got (exec (.pvset w0 3) (withRegs (at_ .V) [(3, 6)])) (fun t => (t.job.pvrNext, t.job.pvrPend)) =
      some (6, true) ∧
    got (exec (.tokbnd w0) ((at_ .V).onJob (fun j => { j with pvrNext := 6, pvrPend := true }))) (fun t => (t.job.pvrCur, t.job.pvrPend)) =
      some (6, false) := by decide +kernel
/-- R356, file 18: token 100, version 5, position 0. -/
theorem test_vtok : got (exec (.vtok w0 6 2 5 0) (withRegs ((vecs .i32 0 (vec 32 [100])).onJob (fun j => { j with pvrCur := 5 })) [(5, 1)]))
    (fun t => lanes 32 4 (t.vreg 6)) = some [100, 5, 0, 1] := by decide +kernel
theorem test_clkr : got (exec (.clkr w0 4) { base with dies := base.dies.set 0 { base.dies[0] with earliest := 1000, latest := 1100 } })
    (fun t => (t.reg 4, t.reg 5)) = some (1000, 1100) := by decide +kernel
theorem test_clock_wide : trapped (exec (.clkr w0 4) { base.onJob (fun j => { j with strict := true }) with
    dies := base.dies.set 0 { base.dies[0] with earliest := 0, latest := 4001 } }) = some (0x0F, false) := by decide +kernel
theorem test_cwait : got (exec (.cwait w0) base) (·.st.pc) = some 4 := by decide +kernel

/-! ## Launches, the host and other agents -/

/-- A host launch of one supervisor job that waits to be started: its record's words are given. -/
def waiting (id : Nat) (st : LaunchState) (prio : Nat) (jobs : List LJob) : Launch :=
  { launchOf (List.replicate 32 0) (some 7) none 0 [id] 1 0 with id := id, state := st, prio := prio, jobs := jobs }

/-- base with launches. -/
def launched (ls : List Launch) : State := { base with launches := ls, nextLaunch := ls.length + 1, booted := true }

theorem test_launch_misaligned : trapped (exec (.launch w0 4 6) (withRegs base [(6, 0x80)])) = some (0x07, false) := by decide +kernel
theorem test_launch_submits : got (exec (.launch w0 4 6) (mapped (withRegs base [(6, 0x100)]))) (fun t => (t.launches.length, t.st.calls)) =
    some (1, 1) := by decide +kernel
theorem test_probe_ack : got (exec (.probeAck 1) (launched [waiting 1 .routing 0 []])) (fun t => t.launches.map (·.state)) =
    some [.loading] := by decide +kernel
/-- A grant of two packages in x, of a ring of four, at its origin: the probes pass once a link of the group +X is up; a package
outside the box has no route to test (R101). -/
theorem test_probe_linked : let l := { waiting 1 .routing 0 [] with words := [0, 0, 0x1000000000000] ++ List.replicate 29 0 }
    let s := { launched [l] with torus := (4, 1, 1) }
    let got := fun (t : State) => got (exec (.probeAck 1) t) (fun t => t.launches.map (·.state))
    (got s = some [.routing] ∧ got (s.onPort 9 (fun p => { p with up := true })) = some [.routing] ∧
     got (s.onPort 7 (fun p => { p with up := true })) = some [.loading] ∧
     got { s with coords := (3, 0, 0) } = some [.loading]) := by decide +kernel
theorem test_probe_timeout : got (exec (.probeTimeout 1) (launched [waiting 1 .routing 0 []]))
    (fun t => t.launches.map (fun l => (l.state, l.status))) = some [(.ended, 4)] := by decide +kernel
theorem test_launch_ageing : got (exec (.launchAgeing 1) { launched [waiting 1 .waiting 0 []] with age := Vector.replicate 7 3 })
    (fun t => t.launches.map (·.prio)) = some [1] := by decide +kernel
theorem test_gang_start : got (exec (.gangStart 1) { launched [waiting 1 .loading 0 [⟨0, 0, 0, 1, .loaded⟩]] with
      job := { base.job with phase := .loaded, launch := 1 } }) (fun t => (t.job.phase, t.launches.map (·.state))) =
    some (.running, [.running]) := by decide +kernel
theorem test_grant_release : got (exec (.grantRelease ⟨1, .loaded⟩) { launched [{ waiting 1 .loading 0 [⟨0, 0, 0, 1, .loaded⟩] with
      words := (List.replicate 32 0).set 0 0x200000000 }] with job := { base.job with phase := .loaded, launch := 1 } })
    (fun t => t.job.phase) = some .running := by decide +kernel
theorem test_safe_hold_release : got (exec .safeHoldRelease (base.onJob (fun j => { j with
      preempt := true
      a := { j.a with phase := .held 1 }
      m := { j.m with blocked := some .rdv }
      v := { j.v with blocked := some .queue }
      e := { j.e with phase := .held 1 } }))) (fun t => (t.job.a.phase, t.job.m.phase)) = some (.released, .running) := by decide +kernel
theorem test_preempt_save : got (exec .preemptSave { launched [waiting 1 .running 0 [⟨0, 0, 0, 1, .running⟩]] with
      job := { base.job with
        launch := 1
        preempt := true
        a := { base.job.a with phase := .held 1 }
        m := { base.job.m with phase := .held 1 }
        v := { base.job.v with phase := .held 1 }
        e := { base.job.e with phase := .held 1 } } })
    (fun t => (t.job.uid, t.saved.length, t.launches.map (fun l => l.jobs.map (·.phase)))) = some (0, 1, [[.preempted]]) := by
  decide +kernel
theorem test_dispatch_nothing : got (exec .dispatch (launched [])) (·.nextUid) = some 2 := by decide +kernel
theorem test_resume_nothing : got (exec (.resume 5) (launched [])) (·.job.uid) = some 1 := by decide +kernel
/-- R317: the one job of a CLUSTER instance stands at BAR 1: the barrier completes. -/
theorem test_bar_completes : got (exec (.barrierComplete ⟨.cluster, false⟩) { launched [{ waiting 1 .running 0 [⟨0, 0, 0, 1, .running⟩] with
      words := (List.replicate 32 0).set 4 1 }] with
      job := { base.job with
        launch := 1
        clusterNo := some 0
        bars := Vector.replicate 4 1
        a := { base.job.a with barAt := some ⟨.cluster, 1, [], false⟩ }
        m := { base.job.m with phase := .halted }
        v := { base.job.v with phase := .halted }
        e := { base.job.e with phase := .halted } } }) (fun t => (t.job.a.barAt.map (·.done), t.bars.map (·.gen))) =
    some (some true, [1]) := by decide +kernel

theorem test_submit_before_boot : got (exec (.submit 0x207) base) (·.launches.length) = some 0 := by decide +kernel
theorem test_submit : got (exec (.submit 0x207) (launched [])) (fun t => (t.launches.map (·.tag), t.host.submits)) = some ([some 7], 1) := by
  decide +kernel
theorem test_management_window : got (exec (.tapselWrite 0x1234000000000005) base) (·.host.tapsel) = some 0x1234000000000005 ∧
    got (exec (.inval 0x21) (mapped user)) (fun t => (t.tlb, t.host.invBusy)) = some ([], true) ∧
    got (exec .invalComplete (base.onHost (fun h => { h with invBusy := true }))) (·.host.invBusy) = some false ∧
    got (exec (.mgmtRegisterWrite ⟨8, 0x1000⟩ 0x8000000000000001) base) (fun t => (t.host.mbBusy, t.mb 0)) = some (true, 0x8000000000000001) := by
  decide +kernel

/-- The mailbox with words 0 to 3, in progress. -/
def mailed (a b c d : Word) (s : State) : State :=
  s.onHost (fun h => { h with mbBusy := true, mailbox := (((h.mailbox.set 0 a).set 1 b).set 2 c).set 3 d })

/-- An owner. -/
def owner (id : BitVec 16) : Owner := ⟨id, 0, 0, none, none, false, false, [], 0, 0, 0, 0⟩

/-- The result of a mailbox command with an owner 0x21 known, and what it leaves of that owner. -/
def mails (i : Instr) (a c d : Word) : Option (Option (BitVec 16) × List Owner) :=
  got (exec i (mailed a 0x21 c d { base with owners := [owner 0x21] })) (fun t => (t.host.mbResult, t.owners))

theorem test_owner_new : got (exec .ownerNew (mailed 1 0x21 0x1000 0 base)) (fun t => (t.host.mbResult, t.owners.map (fun o => (o.id, o.root)))) =
      some (some 0, [(0x21, 0x1000)]) ∧ mails .ownerNew 1 0 0 = some (some 1, [owner 0x21]) := by decide +kernel
theorem test_owner_del : mails .ownerDel 2 0 0 = some (some 0, []) := by decide +kernel
theorem test_owner_settings : mails .setRoot 3 0x5000 0 = some (some 0, [{ owner 0x21 with root := 0x5000 }]) ∧
    mails .setTtb 4 7 0 = some (some 0, [{ owner 0x21 with ttb := 7 }]) ∧
    mails .keyLoad 0x10 1 9 = some (some 0, [{ owner 0x21 with key1 := some 9 }]) ∧
    mails .keyUse 0x11 1 0 = some (some 0, [{ owner 0x21 with useSlot := true }]) ∧
    mails .keyRetire 0x12 2 0 = some (some 1, [owner 0x21]) ∧
    mails .sigPolicy 0x30 1 0 = some (some 0, [{ owner 0x21 with sigRequired := true }]) ∧
    mails .sigPolicy 0x30 0x500 0 = some (some 1, [owner 0x21]) := by decide +kernel
theorem test_err_read : got (exec .errRead (mailed 0x31 0x21 0 0 { base with owners := [{ owner 0x21 with tagErr := 5 }] })) (fun t =>
    (t.host.mbResult, t.mb 2)) = some (some 0, 5) := by decide +kernel
theorem test_windows : got (exec .exportWin (mailed 0x20 9 0x3000000000000010 0x0021002100000000 { base with owners := [owner 0x21] })) (fun t =>
      (t.host.mbResult, t.fabric.windows.length)) = some (some 0, 1) ∧
    got (exec .revoke (mailed 0x21 9 0 0 base)) (·.host.mbResult) = some (some 1) ∧
    got (exec .importWin (mailed 0x22 9 3 0 base)) (fun t => t.fabric.imports) = some [(9, 3)] ∧
    got (exec .unimport (mailed 0x23 9 0 0 base)) (·.host.mbResult) = some (some 1) := by decide +kernel
theorem test_quote_limit : got (exec .quote (mailed 0x40 0 0 0 { base with quotes := 2 ^ 20 })) (·.host.mbResult) = some (some 3) := by
  decide +kernel
theorem test_mailbox_result : got (exec .mailboxResult ((mailed 0x8000000000000001 0 0 0 base).onHost (fun h => { h with mbResult := some 2 })))
    (fun t => (t.mb 0, t.host.mbBusy)) = some (0x8000000200000001, false) := by decide +kernel
theorem test_raw_access : got (exec (.hostRawAccess true .pkg 0x100 [7, 8]) base) (fun t => t.load64 (cellKey .pkg 0x100)) = some 0x0807 := by
  decide +kernel
theorem test_aperture_of_absent_tile : got (exec (.tileApertureRead 0 4) (base.onHost (fun h => { h with tapsel := 0 }))) (·.mem.length) =
      some 0 ∧ got (exec (.tileApertureWrite 0 [1]) base) (·.mem.length) = some 0 ∧
    got (exec (.outsideAgentRead (some 0) 0x21 3) base) (·.mem.length) = some 0 := by decide +kernel
theorem test_peer_without_window : got (exec (.peerRequest 0x21 5 ⟨0, (.read 0 8)⟩) { base with owners := [owner 0x21] }) (fun t =>
    t.owners.map (·.revoked)) = some [1] := by decide +kernel

theorem test_boot : got (exec (.boot ⟨false, 0, 3, 1, 1, 1, 0, 0, 0, 1000, [], true⟩) State.reset) (fun t => (t.booted, t.desc[0].toNat / 2 ^ 48, t.now)) =
    some (true, 0x0960, 1000) := by decide +kernel
theorem test_boot_refused : got (exec (.boot ⟨false, 0, 3, 1, 1, 1, 0, 0, 0, 1000, [], false⟩) State.reset) (fun t => (t.booted, t.desc)) =
    some (false, Vector.replicate 4 0) := by decide +kernel
theorem test_beacon : got (exec (.beacon 1 50 40 ⟨60, 45, []⟩) base) (fun t => (t.dies[1].earliest, t.dies[1].latest, t.now, t.dies[1].floorPkg, t.dies[0].floorPkg)) =
    some (50, 60, 50, 45, 0) := by
  decide +kernel
theorem test_floors : let s := { base with dies := base.dies.map (fun d => { d with earliest := 100 }) }
    got (exec (.floorReport 2 90 ⟨[], []⟩) s) (·.dies[2].floorPkg) = some 90 ∧ got (exec (.knownFloorPassesStamp 2 150) s) (·.dies[2].floorPkg) =
      some 100 ∧ got (exec (.dieReset 2) s) (·.dies[2].out) = some true := by decide +kernel
theorem test_clock_wide_step : got (exec .clockWide base) (·.job.uid) = some 1 := by decide +kernel
theorem test_throttle_and_shutdown : got (exec (.throttle 1200) base) (·.mhz) = some 1200 ∧
    got (exec (.thermalShutdown 0) base) (fun t => (t.dies[0].stopped, t.job.uid)) = some (true, 0) := by decide +kernel
theorem test_version_of_no_tile : got (exec (.versionCurrent 0) base) (·.mem.length) = some 0 := by decide +kernel

/-- R387: the CRC-32 of the ASCII digits 1 to 9 is the well-known check value of the IEEE polynomial. -/
theorem test_crc : crc32 [0x31, 0x32, 0x33, 0x34, 0x35, 0x36, 0x37, 0x38, 0x39] = 0xCBF43926 := by decide +kernel
theorem test_link : got (exec (.linkTraining 47 true false) base) (fun t => (t.fabric.ports[47].up, t.fabric.ports[47].pressCap)) =
      some (true, true) ∧
    got (exec (.linkDown ⟨0, []⟩) (base.onPort 0 (fun p => { p with up := true, replays := 9 }))) (·.fabric.ports[0].up) = some false := by
  decide +kernel
theorem test_flit_with_bad_crc : got (exec (.flitReceived 0 ⟨⟨0x21, 0, false, false, 0, 0, List.replicate 56 0⟩, [], []⟩)
    (base.onPort 0 (fun p => { p with up := true }))) (·.fabric.ports[0].replays) = some 1 := by decide +kernel
theorem test_tag_without_key : got (exec (.tagFlit 0 0x21 false ⟨0, []⟩) ({ base with owners := [owner 0x21] }.onPort 0 (fun p => { p with up := true })))
    (fun t => t.owners.map (·.tagErr)) = some [1] := by decide +kernel

/-- R213, R215: an ordered atomic is held before its batch opens; OBOPEN opens it. -/
theorem test_ordered_arrival : got (exec (.orderedRequestArrival 0) (base.onJob (fun j => { j with vqQ :=
      [{ cmd (.amoadd w0 .ord 3 1 2) 1 0x0009000000000005 with pa := 0x100, cc := 3 }] }))) (fun t => (t.dies[0].held.length, t.mem.length)) =
      some (1, 0) ∧
    got (exec (.orderedRequestArrival 0) (base.onJob (fun j => { j with vqQ :=
      [{ cmd (.obopen w0 3 1 2 9) 0 0x0000000200000040 with pa := 0x100, room := 4096 }] }))) (fun t => t.dies[0].batches.map (fun b => (b.base, b.len, b.count))) =
      some [(0x100, 0x40, 2)] := by decide +kernel

/-! ## The machine's step -/

/-- R119, log 14: the placed instruction is the next that runs. -/
theorem test_placed_word_runs : got (step (State.reset.withFetchWord 32 0x00B40005)) (·.reg 13) = some 5 := by decide +kernel
theorem test_first_turn_boots : got (step State.reset) (·.booted) = some true := by decide +kernel

/-! ## Witnesses: for each hypothesised statement a state and operands that meet its hypotheses -/

/-- base with one token in every counter. -/
def tokens1 : State := base.onJob (fun j => { j with tokens := Vector.replicate 8 1 })

/-- Hypothesis of ScalarResults, ImmediateResults, BranchAndJumpResults, CapabilityResults and others: an instruction may start,
without a wait, and with both waits on counters of exactly 1. -/
theorem test_witness_start : base.canStart w0 0xFFFF = true ∧ tokens1.canStart ⟨true, true, true, true⟩ 0xFFFF = true := by decide +kernel
theorem test_witness_clz : base.reg 1 = 0 ∧ (withRegs base [(1, 1)]).reg 1 ≠ 0 := by decide +kernel
theorem test_witness_frame : base.canStart w0 (regBit 3 ||| regBit 1 ||| regBit 2) = true ∧
    got (exec (.add w0 3 1 2) base) (fun _ => ()) = some () ∧ got (exec (.ctag w0 3 1) base) (fun _ => ()) = some () ∧
    got (exec (.jr w0 1) base) (fun _ => ()) = some () ∧ (base.reg 1).toNat % 4 = 0 := by decide +kernel
/-- LoopAndRotationResults: the highest slot of each size, and a job that does not rotate. -/
theorem test_witness_rotation : let j := fun n : BitVec 2 => { base.job with rsize := n, rlive := 4 }
    (j 1).rot = 8 ∧ 7 < (j 1).rot ∧ (j 2).rot = 16 ∧ 15 < (j 2).rot ∧ (j 0).rot = 0 := by decide +kernel
/-- QueueAndSpillResults: a queue with room, one without, one with a filled head, one whose head waits for its data. -/
theorem test_witness_queues : (bound .A).job.produces 4 .A = true ∧ (bound .A).job.produces 4 .V = false ∧
    (filled 4 (List.replicate 16 0) (bound .A)).canStart w0 (regBit 2) = true ∧
    queueDepth 4 ≤ ((filled 4 (List.replicate 16 0) (bound .A)).job.queue 4).entries.length ∧
    (bound .V).job.consumes 4 .V = true ∧ ((filled 4 [5] (bound .V)).job.queue 4).entries.map (·.ready) = [true] ∧
    (bound .V).job.produces 0 .V = true ∧ (bound .V).cur = .V ∧ ((bound .V).job.queue 0).entries.length < queueDepth 0 ∧
    ((bound .E).job.consumes 0 .E) = true := by decide +kernel
/-- TokensMove and StreamAndPrivilegeTraps: a wait at 0, and an instruction outside its streams. -/
theorem test_witness_waits : (Instr.add ⟨true, false, false, false⟩ 3 1 2).wheel? = some ⟨true, false, false, false⟩ ∧
    base.job.tokens[wpOf base.cur] = 0 ∧ base.st.pend = 0 ∧ base.st.shadowPend = 0 ∧ base.st.barAt = none ∧ base.job.preempt = false ∧
    (Instr.vadd w0 1 2 3 0).allowedIn base.cur = false ∧ (Instr.mzero w0 .acc0 0 false).allowedIn .V = false ∧
    (Instr.publ w0 1 1 2 .die).allowedIn .A = false := by decide +kernel
/-- NothingIssues: an idle core, a halted stream, a held one, and one that owes a signal on a full counter. -/
theorem test_witness_idle : State.reset.job.phase ≠ .running ∧
    (base.onSt (fun t => { t with phase := .halted })).job.a.phase = .halted ∧
    (base.onSt (fun t => { t with phase := .held 3 })).job.a.phase = .held 3 ∧
    (base.onJob (fun j => { j with tokens := Vector.replicate 8 15, a := { j.a with oweP := true } })).job.tokens[spOf .A] = 15 := by
  decide +kernel
/-- StepRunsDecoded and PlacedWordRuns: the word of ADDI s13, s0, #5 where the next step fetches. -/
def placed : State := State.reset.withFetchWord 32 0x00B40005
theorem test_witness_step : let v : State := { State.focus { placed with agenda := [] } 0 with cur := .A }
    v.canIssue = true ∧ v.st.oweP = false ∧ v.st.oweS = false ∧ v.job.wantsInterrupt .A = false ∧
    (match fetch v with | .ok (i, _) => decide (i = .addi w0 13 0 5) | _ => false) = true ∧
    decodeTableWord 32 0x00B40005 = some (.addi w0 13 0 5) ∧ decodeTableWord 64 0x004240040FF00101 = some (.li64 w0 12 0x900100101) := by
  decide +kernel
/-- FetchResults: a pc outside every segment, and a fetch inside one at a place that a TLB holds. -/
theorem test_witness_fetch : base.st.pc.toNat + 4 > (base.job.segs[0]).1.toNat + (base.job.segs[0]).2 ∧
    (match placed.translate placed.st.pc.toNat 2 with | .ok (p, s) => decide (p.pa + 4 ≤ tierSize p.tier ∧ s.tlb = placed.tlb) | _ => false) =
      true ∧ isLong 0x00B40005 = false ∧
    (placed.job.segs[0]).1.toNat ≤ placed.st.pc.toNat ∧ placed.st.pc.toNat + 4 ≤ (placed.job.segs[0]).1.toNat + (placed.job.segs[0]).2 := by
  decide +kernel
/-- SafeRdvHaltResults: a halt that owes a command, one that owes nothing, and the last stream of a job. -/
theorem test_witness_halt : ((base.onJob (fun j => { j with ceQ := [{ cmd (.nop w0) 0 0 with stream := .A }] })).job.ceQ.any (fun c => c.stream == .A)) = true ∧
    base.job.uid < base.nextUid ∧ base.st.pend = 0 ∧
    (let s := base.onJob (fun j => { j with
      m := { j.m with phase := .halted }
      v := { j.v with phase := .halted }
      e := { j.e with phase := .halted } })
     allStreams.all (fun x => x == s.cur || (s.job.stream x).phase == .halted) = true) := by decide +kernel
/-- MarkAndJoinResults: no marker, a marker at its head, and one that is not. -/
theorem test_witness_markers : base.st.markers = [] ∧ (base.onSt (fun t => { t with markers := [⟨.ce, [], [], .core, true⟩, ⟨.mx, [4], [], .pkg, false⟩] })
    ).job.a.markers.map (·.atHead) = [true, false] := by decide +kernel
/-- WaitcDiscResults: one posting of OK, one of SHAPE with ERRTRAP 0, and none. -/
theorem test_witness_waitc : 0 < (BitVec.ofNat 32 (1 : Word).toNat - (0 : BitVec 32)).toInt ∧ ¬ (3 ≤ (1 : Word).toNat / 2 ^ 48 ∧ (1 : Word).toNat / 2 ^ 48 ≤ 8) ∧
    0 < (BitVec.ofNat 32 (0x0004000100000001 : Word).toNat - (0 : BitVec 32)).toInt ∧ base.job.errtrap = 0 ∧
    (BitVec.ofNat 32 (base.job.cc[1]).toNat - base.job.consumed[1]).toInt ≤ 0 := by decide +kernel
/-- BarrierResults: a pipeline job, and a job with a CLUSTER instance. -/
theorem test_witness_bar : barScopeOk .cluster = true ∧ (base.onJob (fun j => { j with pipeline := true })).job.pipeline = true ∧
    (let s := base.onJob (fun j => { j with clusterNo := some 0 })
     s.st.barAt = none ∧ s.canStart w0 0 = true ∧ s.job.pipeline = false ∧ s.job.clusterNo = some 0) ∧
    (let s := { launched [waiting 1 .running 0 [⟨0, 0, 0, 1, .running⟩]] with
       job := { base.job with
         launch := 1
         clusterNo := some 0
         bars := Vector.replicate 4 1
         a := { base.job.a with barAt := some ⟨.cluster, 1, [], false⟩ } } }
     s.job.waitsAt .cluster = some 1 ∧ s.job.barInst .cluster = some 0 ∧ (s.launch? 1).isSome = true ∧
     instanceJobs (List.replicate 32 0) .cluster ≤ (s.instanceOf .cluster).length ∧
     (s.instanceOf .cluster).all (fun j => j.arrived .cluster 1) = true) := by decide +kernel
/-- CsrResults and StreamAndPrivilegeTraps: a supervisor job, another job, and the streams that may and may not write VTYPE. -/
theorem test_witness_csrs : base.job.owner = 0 ∧ user.job.owner ≠ 0 ∧ user.canStart w0 0xFFFF = true ∧ (0x200 : Nat) ≤ (0x200 : BitVec 10).toNat ∧
    (at_ .V).cur = .V ∧ base.cur ≠ .V ∧ 0x00A ∈ ([0x00A, 0x00B, 0x00C, 0x00D, 0x028] : List (BitVec 10)) := by decide +kernel
/-- TrapEntry and CallsAndJobTraps: a job; a code that parks and one that ends; a stalled job and one that is not. -/
theorem test_witness_traps : base.job.uid ≠ 0 ∧ (0x08 : BitVec 8) ≠ 0x05 ∧ base.canStart w0 (regBit 5 ||| regBit 6) = true ∧
    (let j := { base.job with
       a := { base.job.a with blocked := some .token }
       m := { base.job.m with blocked := some .rdv }
       v := { base.job.v with phase := .halted }
       e := { base.job.e with blocked := some .queue } }
     j.phase = .running ∧ j.a.phase ≠ .halted ∧ allStreams.all (fun x => (j.stream x).phase == .halted ||
       [some Blocked.token, some .queue, some .rdv].contains (j.stream x).blocked) = true) ∧ base.job.a.blocked = none := by decide +kernel
/-- AcknowledgedFaults: a supervisor call that awaits its reply, one that has it, and a thread's fault. -/
theorem test_witness_faults : called.job.owner = 0 ∧ (called.parked.find? (fun f => f.seq == 9 && f.ack.isNone)).isSome = true ∧
    called.parked.all (fun f => f.seq == 9) = true ∧
    (let f : Parked := ⟨9, 0x14, 1, .A, none, 1, some (5, w0), some (.reply 77), []⟩
     nextResumable [f] (f.seq.extractLsb' 30 2) = some f ∧ f.uid = called.job.uid) ∧
    (let f : Parked := ⟨9, 0x08, 1, .A, some (.ce, 4), 1, none, some .retry, []⟩
     nextResumable [f] (f.seq.extractLsb' 30 2) = some f) := by decide +kernel
/-- A state whose die 0 has an entry waiting, its ring of 64 entries at VAT 0x20000, with HEAD 0. -/
def ringState (tail : BitVec 16) : State :=
  { base with dies := base.dies.set 0 { base.dies[0] with fqSz := 0, fqLoc := 0x100, fqHead := 0, fqTail := tail, waiting := [(1, 2, 3, 4)] } }
/-- FaultRing: no entry, an entry and room (also at the last slot of the smallest ring), a full ring, and a supervisor's write. -/
theorem test_witness_ring : base.dies[0].waiting = [] ∧ (ringState 0x3F).dies[0].waiting = [(1, 2, 3, 4)] ∧ (ringState 0x3F).memOk ∧
    (let d := (ringState 0x3F).dies[0]
     (d.fqTail - d.fqHead).toNat ≠ 2 ^ (d.fqSz.toNat + 6) ∧
      512 * d.fqLoc.toNat + 32 * (d.fqTail.toNat % 2 ^ (d.fqSz.toNat + 6)) + 32 ≤ 2 ^ 31) ∧
    (let d := (ringState 0x40).dies[0]
     (d.fqTail - d.fqHead).toNat = 2 ^ (d.fqSz.toNat + 6)) ∧
    (let s := (ringState 0x3F).onJob (fun j => { j with owner := 0 })
     s.canStart w0 (regBit 5) = true ∧ s.job.owner = 0) := by
  refine ⟨?_, ?_, by unfold State.memOk; decide +kernel, ?_, ?_, ?_⟩ <;> decide +kernel
/-- UserInterrupts: a stream that wants its interrupt for a counter, and one for an error event. -/
theorem test_witness_uint : let s := base.onSt (fun t => { t with upend := 0x8000, uvec := 0x8000000000000000 })
    let r := base.onSt (fun t => { t with errEvent := some ⟨4, 0, 3⟩, uvec := 0x8000000000000000 })
    allStreams.find? s.job.wantsInterrupt = some .A ∧ s.job.a.errEvent = none ∧ allStreams.find? r.job.wantsInterrupt = some .A ∧
    r.job.a.errEvent = some ⟨4, 0, 3⟩ := by decide +kernel
/-- LaunchSubmits: an aligned and a misaligned record. -/
theorem test_witness_launch : (mapped base).canStart w0 (regBit 6) = true ∧ 0x100 % 256 = 0 ∧ 0x80 % 256 ≠ 0 ∧
    (match ((mapped base).started w0 1).place 0x100 256 0 with | .ok (k, s) => decide (k = cellKey .pkg 0x100 ∧ s.tlb = (mapped base).tlb) | _ => false) =
      true ∧ (mapped base).launches.all (fun l => decide (l.id < (mapped base).nextLaunch)) = true := by decide +kernel
/-- PageWalk: file 20's page by three table levels, and an address without a root entry. -/
theorem test_witness_walk : (tables.owners.find? (·.id == 0x55)).isSome = true ∧ tlbHit tables 0x55 0x4000000000 = none ∧ 0x1000 + 2 ^ 21 ≤ 2 ^ 40 ∧
    (let e := tables.load64 (cellKey .pkg 0x0FFFF000)
     e.getLsbD 63 = true ∧ e.getLsbD 59 = true ∧ pteTier e = some .pkg ∧ pteFrame e % 2 ^ 12 = 0 ∧ leafAllows e 1 = true ∧ leafAllows e 2 = false) ∧
    (let e := tables.load64 (cellKey .pkg 0x1000)
     e.getLsbD 63 = true ∧ e.getLsbD 59 = false ∧ pteTier e = some .pkg ∧ pteFrame e = 0x202000) ∧
    (tables.load64 (cellKey .pkg 0x1008)).getLsbD 63 = false := by decide +kernel

/-- The translation that `mapped` holds, for an address of the low gigabyte. -/
theorem test_sees (s : State) (va n : Nat) (a : BitVec 2) (h : s.st.attempt = 0) (hv : va + n ≤ 2 ^ 30) (ha : a = 0 ∨ a = 1) (hn : 0 < n) :
    (mapped s).sees va n a ⟨.pkg, va, 2 ^ 30 - va⟩ := by
  have h0 : va / 2 ^ 30 * 2 ^ 30 = 0 := by omega
  refine ⟨h, ?_, ⟨s.job.owner, 0, 30, 0xBC00000000000000⟩, ?_, ?_, ?_, ?_, ?_⟩
  · show va + n ≤ 2 ^ 40; omega
  · simp [tlbHit, mapped]; omega
  · show pteTier 0xBC00000000000000 = some .pkg; decide
  · show leafAllows 0xBC00000000000000 a = true; rcases ha with rfl | rfl <;> decide
  · show va = pteFrame 0xBC00000000000000 + va % 2 ^ 30
    have : pteFrame 0xBC00000000000000 = 0 := by decide
    omega
  · show 2 ^ 30 - va = 2 ^ 30 - va % 2 ^ 30; omega

/-- LoadAndStoreResults, AtomicResults, VatQueueAndTinfoResults: memory, streams and translations. -/
theorem test_witness_memory : (mapped base).memOk ∧ (mapped base).cur = .A ∧ (mapped base).canStart w0 0xFFFF = true ∧
    (mapped base).sees 0x100 8 0 ⟨.pkg, 0x100, 2 ^ 30 - 0x100⟩ ∧ (mapped base).sees 0x100 8 1 ⟨.pkg, 0x100, 2 ^ 30 - 0x100⟩ ∧
    (mapped base).sees (2 ^ 30 - 8) 8 1 ⟨.pkg, 2 ^ 30 - 8, 2 ^ 30 - (2 ^ 30 - 8)⟩ := by
  refine ⟨by unfold State.memOk; decide +kernel, by decide +kernel, by decide +kernel, test_sees _ _ _ _ ?_ ?_ ?_ ?_, test_sees _ _ _ _ ?_ ?_ ?_ ?_, test_sees _ _ _ _ ?_ ?_ ?_ ?_⟩ <;> decide +kernel
/-- AccessTraps: a misaligned address, also for a JR, a leaf that does not allow a write, and an owner without tables. -/
theorem test_witness_absent : (0x104 : Nat) % 8 ≠ 0 ∧ ((withRegs base [(1, 0x102)]).reg 1).toNat % 4 ≠ 0 ∧ base.st.attempt = 0 ∧ tlbHit base base.job.owner 0x100 = none ∧
    base.owners.find? (·.id == base.job.owner) = none ∧ leafAllows 0xB800000000000000 1 = false := by decide +kernel
/-- VatQueueAndTinfoResults: a tile whose entry is well-formed, an absent one, room in the queue and none. -/
theorem test_witness_tinfo : let s := tilesIn (tiled .E)
    s.mayUse 1 16 (fun _ => true) (0, 0) ∧ s.mayUse 1 16 (fun _ => true) (3, 7) ∧ Cap.tclass (s.st.cap 1) = 0 ∧
    (match entryOk s s.job.tctx (2 ^ 32) (s.tte (lttKey 0 0)) with | .ok b => b | _ => false) = true ∧ (s.tte (lttKey 0 3)).tier = 6 ∧
    s.job.vqQ.length < 64 ∧ s.cur = .E := by unfold State.mayUse; decide +kernel
/-- TileCommandResults: capabilities that serve, full queues, and each failure of a check. -/
theorem test_witness_tile_commands : (tiled .E).mayUse 1 16 (fun _ => true) (0, 0) ∧ (tiled .E).mayUse 2 8 (fun c => c == 0) (0, 0) ∧
    (tiled .E).mayUse 3 16 (fun c => c == 1 || c == 2) (0, 0) ∧ (tiled .E).job.ceQ.length < 32 ∧
    (tiled .E).capFailure 4 16 (fun _ => true) (0, 0) = some 0x04 ∧
    ((tiled .E).onJob (fun j => { j with owner := 5 })).capFailure 1 16 (fun _ => true) (0, 0) = some 0x06 ∧
    (tiled .E).capFailure 1 16 (fun _ => true) (4, 0) = some 0x05 ∧ (tiled .E).capFailure 3 16 (fun c => c == 0) (0, 0) = some 0x06 ∧
    (tiled .E).capFailure 1 16 (fun _ => true) (3, 7) = none ∧
    ((tiled .E).onJob (fun j => { j with ceQ := List.replicate 32 (cmd (.nop w0) 0 0) })).job.ceQ.length = 32 := by unfold State.mayUse; decide +kernel
/-- MatrixCommandsAccepted and MatrixCompletionAndMstat: the M stream, commands at the head, an empty queue. -/
theorem test_witness_matrix : (tiled .M).cur = .M ∧ (tiled .M).canStart w0 0xFFFF = true ∧ (tiled .M).job.mxQ = [] ∧ (tiled .M).job.uid ≠ 0 ∧
    AccId.acc2.index? = some 2 ∧ (cmd (.mzero w0 .acc2 3 false) 0 0).parked = false ∧ AccId.accv ≠ AccId.acc1 := by decide +kernel

/-- One chunk of an I8 product of one row and one column. -/
def product1 (path : MxPath) (xs ys : List (BitVec 8)) : Product :=
  ⟨.i32, 32, 1, 1, 1, path, [xs.map (fun v => decodeVal .i8 v.toNat)], [ys.map (fun v => decodeVal .i8 v.toNat)], [], none, false⟩

theorem test_witness_product : (product1 .array [0x80, 1] [0x80, 2]).a.getD 0 [] = [(0x80 : BitVec 8), 1].map (fun v => decodeVal .i8 v.toNat) ∧
    (product1 .array [] []).chunks = 1 ∧ [(0x80 : BitVec 8), 1].length ≤ 32 ∧ (List.replicate 32 (0 : BitVec 8)).length = 32 ∧
    (∀ v ∈ List.replicate 32 (0 : BitVec 8), v = 0) := by decide +kernel
/-- R39: the sum is exact and saturates once: (−128)² + 2 on the largest I32. -/
theorem test_product_saturates : ((product1 .array [0x80, 1] [0x80, 2]).element 0 0 0x7FFFFFFF).1 = 0x7FFFFFFF ∧
    ((product1 .array [0x80, 1] [0x80, 2]).element 0 0 5).1 = 16391 := by decide +kernel
/-- VectorWriteReadsBack: the last live distance and the first dead one. -/
theorem test_witness_vector_write : let j := { base.job with rsize := 1, rlive := 4 }
    (16 ≤ (19 : VReg).toNat ∧ (19 : VReg).toNat - 16 < j.rot ∧ (19 : VReg).toNat - 16 < j.rlive.toNat) ∧
    ((20 : VReg).toNat - 16 < j.rot ∧ j.rlive.toNat ≤ (20 : VReg).toNat - 16) ∧ ¬ ((24 : VReg).toNat - 16 < j.rot) := by decide +kernel
/-- VectorFloatResults, VectorCompareIntegerResults, ReductionResults, PermuteResults, VectorFrame: the V stream and each kind of
element type. -/
theorem test_witness_vector : (at_ .V).canStart w0 0 = true ∧ (at_ .V).canStart w0 (regBit 5) = true ∧ (at_ .V).cur = .V ∧
    (vecs .bf16 0 0).job.et ∈ floatTypes ∧ (vecs .n16 0 0).job.et ∈ intTypes ∧ (vecs .n16 0 0).job.et ∉ floatTypes ∧
    got (exec (.vadd w0 1 2 3 0) (vecs .bf16 0 0)) (fun _ => ()) = some () := by decide +kernel
/-- ConversionResults: a control word that is read (FP32 to E2M1, the highest PART) and one that is refused. -/
theorem test_witness_control : fmtOfCode (0x750 % 16) = some .fp32 ∧ fmtOfCode (0x750 / 16 % 16) = some .e2m1 ∧ (modeOfCode (0x750 / 2 ^ 11 % 8)).isSome = true ∧
    0x750 / 2 ^ 8 % 8 < max (fmtWidth .fp32) (fmtWidth .e2m1) / min (fmtWidth .fp32) (fmtWidth .e2m1) ∧ fmtOfCode 15 = none := by
  decide +kernel
/-- VectorMemoryResults: aligned 512 bytes within a page, up to its last place, and a misaligned address. -/
theorem test_witness_vector_memory : (0x1E00 : Nat) % 64 = 0 ∧ 0x1E00 % 4096 ≤ 3584 ∧ (0x1E01 : Nat) % 64 ≠ 0 ∧
    (mapped (at_ .V)).sees 0x1E00 512 0 ⟨.pkg, 0x1E00, 2 ^ 30 - 0x1E00⟩ ∧ (mapped (at_ .V)).sees 0x1E00 512 1 ⟨.pkg, 0x1E00, 2 ^ 30 - 0x1E00⟩ ∧
    (mapped (at_ .V)).job.et ∈ floatTypes ++ intTypes ∧ 0 < 4096 / 32 ∧ ((at_ .V).pred 0).getLsbD 0 = true := by
  refine ⟨by decide, by decide, by decide, test_sees _ _ _ _ ?_ ?_ ?_ ?_, test_sees _ _ _ _ ?_ ?_ ?_ ?_, ?_, ?_, ?_⟩ <;> decide +kernel
/-- CultureAndTokenResults: types of 32 bits, no sets and one, DIRTY, a publish that is seen, and one that is not. -/
theorem test_witness_culture : fmtWidth .i32 = 32 ∧ fmtWidth (vecs .bf16 0 0).job.et ≠ 32 ∧ base.job.dirtab.2 = 0 ∧
    (base.onJob (fun j => { j with dirtab := (0x400, 1) })).job.dirtab.2 ≠ 0 ∧ (0x1000 : Nat) % 8 = 0 ∧ (0x1004 : Nat) % 8 ≠ 0 ∧
    (base.onJob (fun j => { j with pvrPend := true })).job.vdom = 0 ∧
    (let s := { (at_ .V).onJob (fun j => { j with vdom := 3, pvrNext := 6, pvrPend := true }) with
       vdoms := [⟨0, 3, 6, 10, .pkg⟩]
       dies := (at_ .V).dies.set 0 { (at_ .V).dies[0] with floorPkg := 11 } }
     s.vdoms.find? (fun p => p.owner == s.job.owner && p.dom == s.job.vdom) = some ⟨0, 3, 6, 10, .pkg⟩ ∧
     s.job.pvrNext.toNat ≤ 6 ∧ (10 : Word) < s.knownFloor s.myDie .pkg) := by decide +kernel
/-- ClockResults: an interval of exactly 2 × EPSMAX is not wide, one more is; commits that are past and that are not. -/
theorem test_witness_clocks : ¬ (2 * base.epsmax.toNat < 4000 - 0) ∧ 2 * base.epsmax.toNat < 4001 - 0 ∧
    base.job.flow.commits = [] ∧ base.dies[1].out = false ∧ (State.reset.onDie 1 (fun d => { d with out := true })).dies[1].out = true ∧
    (base.onSt (fun t => { t with blocked := some .cwait })).job.a.blocked = some .cwait ∧ base.now.toNat ≤ (50 : Word).toNat := by
  decide +kernel

/-- A stored tile of 1 × 4 in PKG memory and its entry. -/
def versioned : State := base.setTte (cellKey .pkg 0x4000) ((entry (3 * 2 ^ 41 + 3 * 2 ^ 38 + 2 ^ 33 + 2 ^ 27) (0x1000 * 2 ^ 24) 1))

/-- VersionBecomesCurrent: a pending version below and at the floor. -/
theorem test_witness_version : let k := cellKey .pkg 0x4000
    let t := versioned.tte k
    let key := cellKey .pkg (t.loc * 512 + t.backLen)
    t.kind = 0 ∧ t.cave = 0 ∧ t.tier = 3 ∧ t.loc < 2 ^ 31 ∧ (key + 64 ≤ k ∨ k + 64 ≤ key) ∧
    Memory.wf versioned.mem = true ∧ versioned.vwater.toNat < (9 : Word).toNat ∧
    (∀ d : Fin 4, (versioned.dies.get d).floorPkg.toNat ≤ (9 : Word).toNat) := by decide +kernel
/-- LaunchesAndDispatch: launches in each state, loaded jobs, ageing at and below level 7, a held job, and no plan. -/
theorem test_witness_launches : ((launched [waiting 1 .routing 0 []]).launch? 1).isSome = true ∧ (waiting 1 .waiting 6 []).prio < 7 ∧
    (waiting 1 .loading 0 [⟨0, 0, 0, 1, .loaded⟩]).jobs.any (fun x => x.phase == .loaded) = true ∧
    (waiting 1 .waiting 0 []).words.getD 0 0 = 0 ∧ (launched []).plans (launched []).inService [] = [] ∧
    (launched []).age[6] = 0 := by decide +kernel
theorem test_witness_save : let s := { launched [waiting 1 .running 0 [⟨0, 0, 0, 1, .running⟩]] with
      job := { base.job with
        launch := 1
        preempt := true
        a := { base.job.a with phase := .held 1 }
        m := { base.job.m with phase := .held 1 }
        v := { base.job.v with phase := .held 1 }
        e := { base.job.e with phase := .held 1 } } }
    s.job.mayBeSaved = true ∧ s.others.all (fun j => j.uid != 1) = true ∧ (s.launch? 1).map (·.jobs) = some [⟨0, 0, 0, 1, .running⟩] := by
  decide +kernel
/-- HostWindowResults and MailboxResults: a package that has booted, one that has not, offsets at the edges of the mailbox. -/
theorem test_witness_host : (launched []).booted = true ∧ State.reset.booted = false ∧ (0x1100 : BitVec 16).toNat ∉ [0x40, 0x48, 0x50, 0x58] ∧
    0x1100 ≤ (0x1100 : BitVec 16).toNat ∧ (0xFF8 : BitVec 16).toNat < 0x1000 ∧ (0x1004 : BitVec 16).toNat % 8 ≠ 0 ∧
    (let s := mailed 0x31 0x21 0 0 { base with owners := [owner 0x21] }
     s.host.mbBusy = true ∧ s.host.mbResult = none ∧ (s.owners.any (fun x => x.id == 0x21)) = true ∧ s.launches = [] ∧
     (s.host.mailbox[0]).toNat % 2 ^ 16 = 0x31) ∧ base.quotes < 2 ^ 20 := by decide +kernel
/-- OutsideAccesses: a raw access that ends at the top of package memory, an entry that is read, a window. -/
theorem test_witness_outside : (2 ^ 40 - 64) + [(0 : Byte)].length ≤ tierSize .pkg ∧ [(0 : Byte)].length ≤ 64 ∧
    (let s := { base with fabric := { base.fabric with windows := [(5, 0xB000000000000010, 0x00210021E0000007)] } }
     (s.fabric.windows.find? (fun x => x.1 == 5 && x.2.1.getLsbD 63)).isSome = true ∧ (0xB000000000000010 : Word).toNat / 2 ^ 60 % 8 = 3 ∧
     BitVec.ofNat 16 ((0x00210021E0000007 : Word).toNat / 2 ^ 32) = 0x21 ∧ 4088 + 8 ≤ ((0x00210021E0000007 : Word).toNat % 2 ^ 24 + 1) * 512 ∧
     (0x00210021E0000007 : Word).getLsbD 29 = true) ∧
    base.fabric.windows.find? (fun x => x.1 == 5 && x.2.1.getLsbD 63) = none := by decide +kernel
theorem test_witness_aperture : let s := { versioned.setTte (cellKey .pkg 0x4000) (entry (3 * 2 ^ 41 + 3 * 2 ^ 38 + 2 ^ 27) (0x1000 * 2 ^ 24 + 0x21) 1) with
      owners := [{ owner 0x21 with ttb := 0x6000000000000020 }] }
    let t := s.tte (cellKey .pkg 0x4000)
    (match readEntry s (s.outsider 0 0x21).ctx 0 0 with | .ok (k, u) => decide (k = cellKey .pkg 0x4000 ∧ u = t) | _ => false) = true ∧
    t.owner = 0x21 ∧ t.kind = 0 ∧ t.press = false ∧ t.versioned = false ∧ t.aon = false ∧ t.tier = 3 ∧ t.refcnt = 1 ∧
    t.loc * 512 + t.backLen ≤ tierSize .pkg ∧ t.record .a / 2 ^ 18 = 0x3FFF ∧ t.record .b / 2 ^ 18 = 0x3FFF ∧ t.record .w / 2 ^ 18 = 0x3FFF ∧
    s.recs = [] := by decide +kernel
/-- FabricEvents: a link that is up; a good flit of KIND 0, of a reserved KIND, and a bad one; owners with a key and without. -/
theorem test_witness_fabric : let f : BitVec 4 → Flit := fun kind => ⟨0x21, kind, false, false, 0,
      crc32 (leBytes 4 (0x21 * 2 ^ 16 + kind.toNat * 2 ^ 12) ++ List.replicate 56 0), List.replicate 56 0⟩
    (base.onPort 0 (fun p => { p with up := true })).fabric.ports[0].up = true ∧ base.fabric.ports[0].up = false ∧
    (f 0).payload.length = 56 ∧ 6 ≤ (f 6).kind.toNat ∧ (f 0).crc ≠ 0 ∧ (owner 0x21).key0 = none ∧
    peerCmd base (cmd (.tld w0 1 2 9 3 false) 1 0) = false := by decide +kernel
/-- EngineThreadResults: commands at the head, one behind its own party's; entries that are free; a batch's region at its end. -/
theorem test_witness_engines : let s := (tilesIn base).onJob (fun j => { j with ceQ := [cmd (.tfill w0 1 8 3 false .zero) 0x100000000 0] })
    s.job.uid ≠ 0 ∧ (s.job.ceQ.map (·.parked)) = [false] ∧ s.aonHolds = [] ∧ s.recs = [] ∧
    (match openWrite s s.job.tctx lcap (2 ^ 32 + 1) with
      | .ok (k, t) => decide (k = lttKey 0 1 ∧ t.kind = 0 ∧ t.aon = false ∧ t.versioned = false ∧ t.pooled = false ∧
          t.record .w / 2 ^ 18 = 0x3FFF)
      | _ => false) = true ∧ Memory.wf s.mem = true ∧
    s.dies[0].batches = [] ∧ s.dies[0].held = [] ∧ 0x100 % 64 = 0 ∧ 64 % 64 = 0 := by decide +kernel
/-- BatchOrderPlaysNoPart: two requests in either order, with distinct keys. -/
theorem test_witness_batch : let x : Req := ⟨1, 0, cmd (.amoadd w0 .ord 3 1 2) 1 5, 5, 0x100, 8⟩
    let y : Req := ⟨1, 0, cmd (.amoadd w0 .ord 3 1 2) 2 6, 6, 0x100, 8⟩
    [x, y].Perm [y, x] ∧ [x, y].Pairwise (fun a b => a.key ≠ b.key) := by decide +kernel
/-- RefusedWords and RoundTrip: reserved majors at both ends, a second word with a Wheel bit, encodings of one and of two words. -/
theorem test_witness_encoding : (0x0DBFFFFF : IWord).toNat / 2 ^ 22 % 64 = 0x36 ∧ (0x10000000 : IWord).toNat / 2 ^ 28 ≠ 0 ∧
    (0x0FF00101 : IWord).toNat / 2 ^ 22 % 64 = 0x3F ∧ (Instr.add w0 4 4 3).wf = true ∧ encode (.add w0 4 4 3) = some (0x00510C00, none) ∧
    encode (.li64 w0 12 0x900100101) = some (0x0FF00101, some 0x00424004) := by decide +kernel
/-- StepKeepsMemoryCanonical and StepKeepsLaunches: states with memory and a launch, and a step of them that goes on. -/
theorem test_witness_invariants : Memory.wf placed.mem = true ∧ placed.mem ≠ [] ∧ got (step placed) (fun _ => ()) = some () ∧
    (launched [waiting 1 .routing 0 []]).launches.all (fun l => decide (l.id < 2)) = true := by decide +kernel

/-! ## Witnesses of each clause: boundary values, errors, and both sides of a condition -/

/-- base with stream A's owed signals, its phase, and the tokens of every counter. -/
def owing (p q : Bool) (ph : StreamPhase) (n : BitVec 4) : State :=
  base.onJob (fun j => { j with tokens := Vector.replicate 8 n, a := { j.a with oweP := p, oweS := q, phase := ph } })
/-- What the turn of stream A leaves of what it owes, with its counters and its wait. -/
def pays (s : State) : Option (Bool × Bool × BitVec 4 × BitVec 4 × Option Blocked) :=
  got (step { s with agenda := [⟨0, .issue .A, []⟩] }) (fun t => (t.st.oweP, t.st.oweS, t.job.tokens[spOf .A], t.job.tokens[ssOf .A], t.st.blocked))
/-- NothingIssues: SP, SS and both owed on full counters; a halted stream that owes both, with room and without. -/
theorem test_witness_owed : (owing true false .running 15).job.phase = .running ∧ (owing false true .running 15).job.a.phase = .running ∧
    (owing true true .halted 14).job.a.phase = .halted ∧ (owing true false .running 15).job.tokens[spOf .A] = 15 ∧
    pays (owing true false .running 15) = some (true, false, 15, 15, some .token) ∧
    pays (owing false true .running 15) = some (false, true, 15, 15, some .token) ∧
    pays (owing true true .running 15) = some (true, true, 15, 15, some .token) ∧
    pays (owing true true .halted 14) = some (false, false, 15, 15, none) ∧
    pays (owing true true .halted 15) = some (true, true, 15, 15, none) := by
  refine ⟨?_, ?_, ?_, ?_, ?_, ?_, ?_, ?_, ?_⟩ <;> decide +kernel

/-- A GLOBAL capability over entries 0 to 31 of owner 0, with every permission. -/
def gcap0 : BitVec 128 := mkCap 0 8 4 8 0xFA0000
/-- The place of entry n of a table at VAT 0x4000. -/
def gttKey (n : Nat) : Nat := cellKey .vat (0x4000 + 64 * n)
/-- Owner 0 with its table at VAT 0x4000, and an entry in it. -/
def tabled (n : Nat) (t : Tte) (s : State) : State :=
  State.setTte ({ s with owners := [⟨0, 0, 0x4000000000000020, none, none, false, false, [], 0, 0, 0, 0⟩] }.onJob
    (fun j => { j with ttbase := 0x4000000000000020 })) (gttKey n) t
/-- Entry 0 is a tile of tier PEER. -/
def peered : State := tabled 0 (entry (3 * 2 ^ 41 + 5 * 2 ^ 38 + 2 ^ 27) 0 1) base
/-- A TLD from the PEER tile. -/
def peerTld : Cmd := { cmd (.tld w0 1 2 9 3 false) 0 0 with capA := gcap0 }
/-- MarkAndJoinResults: the fabric queue's marker stands behind the commands on PEER tiles only. -/
theorem test_witness_fabric_marker : let s := peered.onJob (fun j => { j with ceQ := [peerTld, { cmd (.tld w0 1 2 9 3 false) 0 0 with id := 1 }] })
    peerCmd s peerTld = true ∧ peerCmd s (cmd (.tld w0 1 2 9 3 false) 0 0) = false ∧
    got (exec (.mark w0 8 .pkg) s) (fun t => t.st.markers.map (fun m => (m.queue, m.ahead))) = some [(.fq, [0])] ∧
    (let t := s.onSt (fun t => { t with markers := [⟨.fq, [0], [], .pkg, false⟩, ⟨.ce, [7], [], .core, false⟩] })
     (t.job.a.markers.length = 2 ∧ 0 ∈ (t.job.ceQ ++ t.job.mxQ ++ t.job.vqQ).map (·.id) ∧ 7 ∉ t.job.ceQ.map (·.id)) ∧
     got (exec (.markerHead 0) t) (fun u => u.job.a.markers.map (·.atHead)) = some [false, false] ∧
     got (exec (.markerHead 1) t) (fun u => u.job.a.markers.map (·.atHead)) = some [false, true]) := by decide +kernel

/-- base with a posting of status 4 on counter 1, with an ERRTRAP. -/
def errored (e : BitVec 2) (h : Bool) : State :=
  (base.onJob (fun j => { j with cc := j.cc.set 1 0x0004000100000001, errtrap := e })).onSt (fun t => { t with inHandler := h })
/-- WaitcDiscResults: an error with each ERRTRAP, in a handler and outside one, and a posting of the launch controller. -/
theorem test_witness_errtrap : (errored 2 false).canStart w0 (regBit 5) = true ∧ (errored 1 false).job.uid ≠ 0 ∧
    got (exec (.waitc w0 5 1) (errored 2 false)) (fun t => t.st.errEvent.map (fun e => (e.status, e.src, e.cc))) = some (some (4, 1, 1)) ∧
    trapped (exec (.waitc w0 5 1) (errored 1 false)) = some (0x13, false) ∧
    trapped (exec (.waitc w0 5 1) (errored 2 true)) = some (0x13, false) ∧
    (let s := (errored 0 false).onJob (fun j => { j with launchPosts := [(1, 1)] })
     ((1 : Cc), s.job.consumed[1] + 1) ∈ s.job.launchPosts ∧ got (exec (.waitc w0 5 1) s) (fun t => (t.job.launchPosts, t.job.acq)) = some ([], [])) := by
  decide +kernel

/-- A launch of two packages, whose GRANT instance holds a job of each (R89: GRANT 1, PKG 2, JOB 1): its job of this package stands at
BAR 1 of GRANT. -/
def grantBar : State :=
  { launched [{ waiting 1 .running 0 [⟨0, 0, 0, 1, .running⟩] with
      words := ((List.replicate 32 0).set 0 0x20C000000).set 4 0x4000000220000001 |>.set 5 1 }] with
    job := { base.job with
      launch := 1
      grantNo := some 0
      coscope := 4
      multi := true
      bars := Vector.replicate 4 1
      a := { base.job.a with barAt := some ⟨.grant, 1, [], false⟩ } } }
/-- BarrierResults: an instance with a job elsewhere completes when its jobs there have arrived too. -/
theorem test_witness_grant_barrier : grantBar.job.waitsAt .grant = some 1 ∧ grantBar.job.barInst .grant = some 0 ∧
    (grantBar.launch? 1).map (fun l => (instanceJobs l.words .grant, shareOf l.words)) = some (2, 1) ∧
    (grantBar.instanceOf .grant).map (fun j => j.arrived .grant 1) = [true] ∧
    got (exec (.barrierComplete ⟨.grant, false⟩) grantBar) (fun t => t.job.a.barAt.map (·.done)) = some (some false) ∧
    got (exec (.barrierComplete ⟨.grant, true⟩) grantBar) (fun t => (t.job.a.barAt.map (·.done), t.bars.map (·.gen))) = some (some true, [1]) := by
  decide +kernel

/-- A thread's fault of a running job that is acknowledged, with its parked command. -/
def threadFault : Parked := ⟨9, 0x08, 1, .A, some (.ce, 0), 1, none, some .retry, [(⟨7, 0⟩, 3)]⟩
def threadParked : State :=
  { base with parked := [threadFault] }.onJob (fun j => { j with ceQ := [{ cmd (.tld w0 1 2 9 3 false) 1 0 with parked := true }] })
/-- AcknowledgedFaults: a thread's fault of a running job, with its command, and one that is not acknowledged. -/
theorem test_witness_thread_resumes : nextResumable threadParked.parked (threadFault.seq.extractLsb' 30 2) = some threadFault ∧
    threadFault.uid = threadParked.job.uid ∧ threadParked.job.uid ≠ 0 ∧ threadParked.job.phase = .running ∧
    ((threadParked.job.cmds .ce).find? (·.id == 0)).isSome = true ∧
    got (exec (.faultResume 9) threadParked) (fun t => (t.job.phase, t.job.ceQ.map (·.parked), t.job.threadTable 4, t.parked.length)) =
      some (.running, [false], [(⟨7, 0⟩, 3)], 0) ∧
    called.parked.all (fun g => g.ack.isNone) = true := by
  refine ⟨?_, ?_, ?_, ?_, ?_, ?_, ?_⟩ <;> decide +kernel

/-- A stream in a handler whose shadow s15 is a value. -/
def handling (v : Word) : State := base.onSt (fun t => { t with inHandler := true, shadow := t.shadow.set 7 v, uvec := 0x8000000000002000, upend := 2 })
/-- A stream whose interrupt is pending and enabled. -/
def pending : State := base.onSt (fun t => { t with upend := 2, uvec := 0x8000000000002000 })
/-- UserInterrupts: a stream that takes its interrupt by its own turn, streams that do not (in a handler; EN 0; held while pre-emption is
requested; at a BAR), and a misaligned return address, of which the low 57 bits are given. -/
theorem test_witness_interrupt_turn : pending.job.phase = .running ∧ pending.job.a.uvec.getLsbD 63 = true ∧ pending.job.a.inHandler = false ∧
    pending.job.a.upend ≠ 0 ∧ pending.job.a.barAt = none ∧ pending.job.a.phase = .running ∧ pending.job.a.oweP = false ∧
    got (step { pending with agenda := [⟨0, .issue .A, []⟩] }) (fun t => (t.st.pc, t.reg 14)) = some (0x2000, 1) ∧
    [handling 0, base.onSt (fun t => { t with upend := 2 }), (pending.onSt (fun t => { t with phase := .held 1 })).onJob (fun j => { j with preempt := true }),
      pending.onSt (fun t => { t with barAt := some ⟨.cluster, 1, [], false⟩ })].all (fun u => got (exec .uintDelivery u) (·.st.pc) == some 0) = true := by
  refine ⟨?_, ?_, ?_, ?_, ?_, ?_, ?_, ?_, ?_⟩ <;> decide +kernel
theorem test_witness_uret : (handling 0xF200000000001002).canStart w0 (regBit 15) = true ∧ (0xF200000000001002 : Word).toNat % 4 ≠ 0 ∧
    got (exec (.uret w0) (handling 0xF200000000001002)) (fun t => t.dies[0].waiting.map (·.2.2.1)) = some [0x1002] ∧
    got (exec (.uret w0) (handling 0xF200000000001000)) (·.st.pc) = some 0x1000 := by decide +kernel

/-- What the walk to file 20's page gives with an entry put in its place at a key: the place, or the code of its trap. -/
def walks (k : Nat) (e : Word) (access : BitVec 2) : Nat × Nat :=
  match translate (tables.storeBytes (cellKey .pkg k) (leBytes 8 e.toNat)) 0x55 false 0x4000000000 access with
  | .ok (p, t) => (p.pa, t.tlb.length)
  | .error (.trap t) => (t.code.toNat, 0)
  | .error _ => (0, 9)
/-- PageWalk: a leaf at each of the levels 3, 2 and 1, held after the walk; every form of an absent entry; a leaf that does not allow a write;
a retry, which walks whatever is held. -/
theorem test_witness_walk_levels : walks 0x202800 0xBC00000040000000 1 = (0x40000000, 1) ∧ walks 0x203000 0xBC00000000200000 1 = (0x200000, 1) ∧
    walks 0x0FFFF000 0xBC00000000003000 0 = (0x3000, 1) ∧ walks 0x1000 0xBC00000000000000 0 = (8, 0) ∧ walks 0x1000 0 0 = (8, 0) ∧
    walks 0x202800 0xBC00000000200000 0 = (8, 0) ∧ walks 0x203000 0x8C00000000200000 0 = (8, 0) ∧ walks 0x203000 0x9000000000203000 0 = (8, 0) ∧
    walks 0x0FFFF000 0xB000000000203000 0 = (8, 0) ∧ walks 0x0FFFF000 0xB800000000003000 1 = (8, 0) ∧
    (match translate { tables with tlb := [⟨0x55, 0x4000000000, 30, 0xBC00000000000000⟩] } 0x55 true 0x4000000000 0 with
      | .ok (p, _) => p.pa | .error _ => 0) = 0x10000000 := by
  refine ⟨?_, ?_, ?_, ?_, ?_, ?_, ?_, ?_, ?_, ?_, ?_⟩ <;> decide +kernel
/-- AtomicResults: a word of a Vat in whose release set a party stands, under each ordering option, and one of HOST. -/
def releasing : State := { (mappedVat (withRegs base [(1, 0x100), (2, 5)])).onJob (fun j => { j with epoch := 4, acq := [(⟨7, 0⟩, 3)] }) with
  relsets := [⟨cellKey .vat 0x100, [(⟨9, 0⟩, 2)]⟩] }
theorem test_witness_releases : releasing.st.attempt = 0 ∧
    (releasing.relset (cellKey .vat 0x100)).length = 1 ∧ (mapped releasing).memOk ∧
    got (exec (.amoadd w0 .rel 3 1 2) releasing) (fun t => (t.job.epoch, t.relset (cellKey .vat 0x100))) =
      some (5, [(⟨1, 0⟩, 4), (⟨7, 0⟩, 3), (⟨9, 0⟩, 2)]) ∧
    got (exec (.amocas w0 .rel 3 1 2) (releasing.setReg 3 8)) (fun t => (t.job.epoch, t.relsets.length)) = some (4, 1) ∧
    got (exec (.amoadd w0 .acq 3 1 2) releasing) (fun t => (t.job.epoch, t.job.acq)) = some (4, [(⟨9, 0⟩, 2), (⟨7, 0⟩, 3)]) := by
  refine ⟨?_, ?_, by unfold State.memOk; decide +kernel, ?_, ?_, ?_⟩ <;> decide +kernel

/-- Code, ACCESS and WHERE of the fault entry that an outcome leaves on die 0. -/
def faultOf (o : Out) : Option (Nat × Nat × Nat) :=
  match o with
  | .next t => t.dies[0].waiting.head?.map (fun e => (e.1.toNat / 2 ^ 24 % 256, e.1.toNat / 2 ^ 5 % 4, e.2.2.1.toNat))
  | _ => none
/-- tilesIn with entry 0 put in the place of its own. -/
def tiles (t : Tte) : State := (tilesIn (tiled .E)).setTte (lttKey 0 0) t
/-- Whether entry 0 is well-formed. -/
def wellFormed (s : State) : Option Bool :=
  match entryOk s s.job.tctx (2 ^ 32) (s.tte (lttKey 0 0)) with
  | .ok b => some b
  | .error _ => none
/-- VatQueueAndTinfoResults: a good entry, of which SFIN and the reserved bits that software has written do not read; one that is not well-formed
(PRESS of FP32); one of another owner; and one at which an error stands. -/
theorem test_witness_tinfo_entries :
    wellFormed (tiles (stored 0x10 ||| 7)) = some true ∧ wellFormed (tiles (stored 0x10 ||| 0x1000000000)) = some false ∧
    got (exec (.tinfo w0 1 9 0) (tiles (stored 0x10 ||| 7))) (·.reg 9) = some 0x0000060008000000 ∧
    faultOf (exec (.tinfo w0 1 9 0) (tiles (stored 0x10 ||| 0x1000000000))) = some (0x09, 0, 2 ^ 32) ∧
    faultOf (exec (.tinfo w0 1 9 0) { tiles (stored 0x10) with bad := [(lttKey 0 0 + 8, false)] }) = some (0x09, 0, 2 ^ 32) ∧
    faultOf (exec (.tinfo w0 1 9 0) (tiles (stored 0x10 ||| 5 * 2 ^ 64))) = some (0x06, 0, 0) := by
  refine ⟨?_, ?_, ?_, ?_, ?_, ?_⟩ <;> decide +kernel

/-- An FP32 tile of 1 × 4 of a Vat at a granule, stored and unpooled. -/
def inVat (g : Nat) : Tte := entry (3 * 2 ^ 41 + 2 * 2 ^ 38 + 2 ^ 27) (g * 2 ^ 24) 1
/-- VatQueueAndTinfoResults: a reduce-store into a tile of a Vat, whose record is placed, and one into a LOCAL tile, which posts SHAPE. -/
def reducing : State := tabled 1 (inVat 0x40) (tiles (stored 0x10))
def reduce : Cmd := { cmd (.tredst w0 1 2 8 3 false) 1 0 with capB := gcap0 }
theorem test_witness_tredst : reducing.job.vqQ.length < 64 ∧
    (match redPlan reducing (reducing.whoOf .vq reduce) reduce with
      | .ok p => (match placeRed (reducing.whoOf .vq reduce) reduce p reducing with
        | .ok v => decide (p.sk = lttKey 0 0 ∧ p.dk = gttKey 1 ∧ v.recs.length = 1)
        | _ => false)
      | _ => false) = true ∧
    (match redPlan (tiles (stored 0x10)) (reducing.whoOf .vq reduce) (cmd (.tredst w0 1 2 8 3 false) 1 0) with
      | .error (.post n) => n | _ => 0) = 4 := by decide +kernel
/-- TileCommandResults, MatrixCommandsAccepted: a pair that is only read, and one that is written, as ACCESS shows them. -/
theorem test_witness_check_access : faultOf (exec (.tld w0 4 2 9 3 false) (tiled .E)) = some (0x04, 0, 0) ∧
    faultOf (exec (.tld w0 1 4 9 3 false) (tiled .E)) = some (0x04, 1, 0) ∧
    faultOf (exec (.tld w0 4 3 9 3 false) (tiled .E)) = some (0x04, 0, 0) ∧
    (tiled .M).capFailure 4 8 (fun _ => true) (0, 0) = some 0x04 ∧
    faultOf (exec (.mdrain w0 .acc0 4 3 false none .none false) (tiled .M)) = some (0x04, 1, 0) ∧
    faultOf (exec (.mma w0 .acc0 1 4 0 3 false false false false false) (tiled .M)) = some (0x04, 0, 0) := by
  refine ⟨?_, ?_, ?_, ?_, ?_, ?_⟩ <;> decide +kernel

/-- An operand of a matrix command as MatrixCompletionAndMstat asks: its entry, its backing and as many values as elements. -/
def operandOk (s : State) (cap : BitVec 128) (k b : Nat) : Bool :=
  match openTile s s.job.tctx cap 0 (Cap.tile cap 0 0) with
  | .ok (k', t) =>
    decide (k' = k ∧ t.kind = 0 ∧ t.tier = 0 ∧ t.rowsc = false ∧ t.press = false ∧ t.fmt ≠ .e2m1 ∧ t.aon = false ∧ t.versioned = false ∧
      t.tscale / 2 ^ 23 % 256 ≠ 255 ∧ t.record .w / 2 ^ 18 = 0x3FFF ∧ t.record .a / 2 ^ 18 = 0x3FFF ∧ t.record .b / 2 ^ 18 = 0x3FFF) &&
    (match backKey s s.job.tctx 0 (Cap.tile cap 0 0) t with | .ok b' => decide (b' = b ∧ (k + 64 ≤ b ∨ b + t.backLen ≤ k)) | _ => false) &&
    (match valuesOf s s.job.tctx (Cap.tile cap 0 0) t with | .ok v => decide (v.vals.length = t.rows * t.cols) | _ => false)
  | _ => false
/-- A LOCAL capability of entry n alone. -/
def only (n : Nat) : BitVec 128 := mkCap n 1 1 1 0xF80000
/-- The matrix engine's head is a command on entries 0 and 1; entry 0 holds 1.0, 2.0, −3.0 and 0.5, as does entry 1; ACC0 is DENSE where asked. -/
def engine (i : Instr) (dense : Bool) : State :=
  (((tilesIn base).storeBytes (cellKey .scratch (0x20 * 512)) (leBytes 4 0x3F800000 ++ leBytes 4 0x40000000 ++ leBytes 4 0xC0400000 ++
    leBytes 4 0x3F000000)).onJob (fun j => if dense then
      { j with acc := j.acc.set 0 { j.acc[0] with status := 0, rows := (j.acc[0]).rows.set 0 (BitVec.ofNat 4096 0x40400000) } } else j)).onJob (fun j =>
    { j with mxQ := [{ cmd i 0 0 with capA := only 0, capB := only 1, capC := only 0 }] })
/-- MatrixCompletionAndMstat: operands of MMA, MMAT and MACC, and the destination of MDRAIN. -/
theorem test_witness_matrix_operands :
    (let s := engine (.mma w0 .acc0 1 2 0 3 false true false true false) false
     operandOk s (only 0) (lttKey 0 0) (cellKey .scratch (0x10 * 512)) = true ∧ operandOk s (only 1) (lttKey 0 1) (cellKey .scratch (0x20 * 512)) = true ∧
     s.job.mxQ.map (fun c => (c.parked, c.cut)) = [(false, false)] ∧ s.bad = [] ∧ s.recs = [] ∧ AccId.acc0.index? = some 0) ∧
    (let s := engine (.mdrain w0 .acc0 1 3 false none .none false) true
     (match openWrite s s.job.tctx (only 0) (Cap.tile (only 0) 0 0) with
      | .ok (k, t) => decide (k = lttKey 0 0 ∧ t.fmt = .fp32 ∧ t.layout = 0 ∧ t.detect = false ∧ t.tscale = 0x3F800000) | _ => false) = true ∧
     (s.job.acc[0]).status.getLsbD 37 = false ∧ s.aonHolds = []) := by decide +kernel
/-- R37: 1 × 1 + (−3) × (−3), added to 3.0, is 13.0. -/
theorem test_chunk_and_acc_add : (accAdd 0x40400000 (f32 0x3F800000) (chunkSum [mulVal (decodeVal .fp32 0x3F800000) (decodeVal .fp32 0x3F800000),
    mulVal (decodeVal .fp32 0xC0400000) (decodeVal .fp32 0xC0400000)])).1 = 0x41500000 := by decide +kernel
/-- R257: ACC0 = (3.0, 0, 0, 0) is drained. -/
theorem test_mdrain : got (exec .matrixCommandCompletion (engine (.mdrain w0 .acc0 1 3 false none .none false) true))
    (fun t => (memRead t.mem (cellKey .scratch (0x10 * 512)) 8, t.job.cc[3])) = some ([0, 0, 0x40, 0x40, 0, 0, 0, 0], 1) := by decide +kernel

/-- MatrixCompletionAndMstat: MZERO and MMOV of an accumulator at the head of the queue. -/
theorem test_witness_matrix_completion : AccId.acc0.index? = some 0 ∧ AccId.acc2.index? = some 2 ∧ AccId.accv.index? = none ∧
    got (exec .matrixCommandCompletion (engine (.mmov w0 .accv .acc0 3 false true) true)) (fun t => t.job.cc[3]) = some 0x0004000100000001 ∧
    got (exec .matrixCommandCompletion (engine (.mmov w0 .acc1 .acc0 3 false true) true)) (fun t =>
      (t.job.acc[0].status, lane 32 t.job.acc[1].rows[0] 0)) = some (0x2000000000, 0x40400000) := by decide +kernel

/-- VectorMemoryResults: an access across a page boundary, and one at which an error stands. -/
theorem test_witness_vector_pages : (0x1F00 : Nat) % 64 = 0 ∧ min 512 (4096 - 0x1F00 % 4096) = 256 ∧
    (mapped (at_ .V)).sees 0x1F00 256 0 ⟨.pkg, 0x1F00, 2 ^ 30 - 0x1F00⟩ ∧ (mapped (at_ .V)).sees 0x2000 256 1 ⟨.pkg, 0x2000, 2 ^ 30 - 0x2000⟩ ∧
    (mapped (at_ .V)).bad = [] ∧ (mapped (at_ .V)).job.errtrap = 0 ∧ (mapped (bound .V)).job.produces 0 .V = true ∧
    (filled 0 [3] (bound .E)).job.consumes 0 .E = true := by
  refine ⟨by decide, by decide, test_sees _ _ _ _ ?_ ?_ ?_ ?_, test_sees _ _ _ _ ?_ ?_ ?_ ?_, ?_, ?_, ?_, ?_⟩ <;> decide +kernel
/-- R231, R82: a load across a page boundary; one that meets an error leaves its register, counts it and goes on. -/
theorem test_vector_pages : let s := ((mapped (withRegs (at_ .V) [(2, 0x1F00)])).storeBytes (cellKey .pkg 0x1FFC) [1, 0, 0, 0, 2]).setVreg 1 9
    got (exec (.vld w0 1 2 0 0 false false) s) (fun t => (lane 32 (t.vreg 1) 63, lane 32 (t.vreg 1) 64, lane 32 (t.vreg 1) 0)) = some (1, 2, 0) ∧
    got (exec (.vld w0 1 2 0 0 false false) { s with bad := [(cellKey .pkg 0x2000, false)] }) (fun t => (t.vreg 1, t.job.errcnt, t.st.pc)) = some (9, 1, 4) ∧
    got (exec (.vst w0 1 2 0 0 false false) { s with bad := [(cellKey .pkg 0x2000, false)] }) (fun t => (t.job.errcnt, t.load64 (cellKey .pkg 0x1FF8))) =
      some (1, 0x100000000) := by decide +kernel
/-- VectorMemoryResults: tile 0, its entry and backing, each kind of refusal, and an offset that is no multiple of 64. -/
theorem test_witness_tile_mode : (tilesIn (tiled .V)).mayUse 1 16 (fun _ => true) (0, 0) ∧ (tilesIn (tiled .V)).mayUse 1 8 (fun _ => true) (0, 0) ∧
    (tilesIn (tiled .V)).memOk ∧
    (let s := tilesIn (tiled .V)
     s.job.uid ≠ 0 ∧ s.bad = [] ∧ s.aonHolds = [] ∧ s.capFailure 4 16 (fun _ => true) (0, 0) = some 0x04 ∧ 4 * 1 % 64 ≠ 0 ∧
     operandOk s lcap (lttKey 0 0) (cellKey .scratch (0x10 * 512)) = true ∧
     (match openWrite s s.job.tctx lcap (2 ^ 32) with | .ok (k, _) => decide (k = lttKey 0 0) | _ => false) = true) := by
  unfold State.mayUse State.memOk; decide +kernel
/-- R232: VLD gives the elements of the tile and zeros beyond its end; VST replaces them; an offset of one element traps MISALIGN, with the tile
index and the offset. -/
theorem test_tile_mode : let s := (withRegs (tilesIn (tiled .V)) [(8, 0), (9, 1)]).setVreg 5 (vec 32 [7, 8])
    got (exec (.vld w0 1 8 8 0 true false) s) (fun t => lanes 32 5 (t.vreg 1)) = some [0x3F800000, 0x40000000, 0xC0400000, 0x3F000000, 0] ∧
    got (exec (.vst w0 5 8 9 0 true false) s) (fun t => (memRead t.mem (cellKey .scratch (0x10 * 512)) 8, t.reg 8)) =
      some ([7, 0, 0, 0, 8, 0, 0, 0], 128) ∧
    faultOf (exec (.vld w0 1 9 8 0 true false) s) = some (0x07, 0, 2 ^ 48 + 2 ^ 32) := by decide +kernel

/-- An image with sets 5 and 3 behind file offset 0x400 (R287): V stream, at VA 0. -/
def dirs : State := ((mapped (at_ .V)).onJob (fun j => { j with dirtab := (0x400, 2) })).storeBytes (cellKey .pkg 0x400) [5] |>.storeBytes
  (cellKey .pkg (0x400 + 16904)) [3]
/-- CultureAndTokenResults: the headers of a set that the image holds second, of one that it does not hold, and the place of the second's records. -/
theorem test_witness_culture_sets : dirs.job.dirtab.2 = 2 ∧ (memByte dirs.mem (cellKey .pkg 0x400) = 5) ∧
    memByte dirs.mem (cellKey .pkg (0x400 + 16904)) = 3 ∧ dirs.bad = [] ∧ dirs.cur = .V ∧ dirs.canStart w0 (regBit 3) = true ∧ dirs.memOk ∧
    (mapped (at_ .V)).sees 0x400 8 0 ⟨.pkg, 0x400, 2 ^ 30 - 0x400⟩ ∧
    (mapped (at_ .V)).sees (0x400 + 16904) 8 0 ⟨.pkg, 0x400 + 16904, 2 ^ 30 - (0x400 + 16904)⟩ ∧
    (mapped (at_ .V)).sees (0x400 + 16912) 16896 0 ⟨.pkg, 0x400 + 16912, 2 ^ 30 - (0x400 + 16912)⟩ ∧
    (mapped (at_ .V)).sees 0x1000 264 0 ⟨.pkg, 0x1000, 2 ^ 30 - 0x1000⟩ := by
  refine ⟨?_, ?_, ?_, ?_, ?_, ?_, by unfold State.memOk; decide +kernel, test_sees _ _ _ _ ?_ ?_ ?_ ?_, test_sees _ _ _ _ ?_ ?_ ?_ ?_,
    test_sees _ _ _ _ ?_ ?_ ?_ ?_, test_sees _ _ _ _ ?_ ?_ ?_ ?_⟩ <;> decide +kernel
/-- R294, R371: QLDT that meets an error keeps its dimension and counts it; of a set that the image does not hold nothing is left. -/
theorem test_culture_errors : got (exec (.qldt w0 2 1) { mapped (withRegs (at_ .V) [(2, 0x1000)]) with bad := [(cellKey .pkg 0x1100, false)] })
      (fun t => (t.job.culture[1], t.job.qdirty, t.job.errcnt)) = some (0, false, 1) ∧
    got (exec (.qcfg w0 4) (dirs.onJob (fun j => { j with qset := 5 }))) (·.job.qset) = some 0xFF := by decide +kernel

/-- base on clocks that stand at an interval, in a strict job. -/
def clocked (lo hi : Word) : State := { base.onJob (fun j => { j with strict := true }) with
  dies := base.dies.set 0 { base.dies[0] with earliest := lo, latest := hi, floorPkg := 100 } }
/-- A commit that a stream has issued, posted with a stamp in the package's domain or not yet posted. -/
def committed (x : StreamId) (stamp : Option Word) (s : State) : State :=
  s.onJob (fun j => { j with flow := { (Flow.accepts Flow.reset x 3) with commits := [⟨3, stamp.map (fun t => (t, [.pkg]))⟩] } })
/-- ClockResults: an interval of exactly 2 × EPSMAX and one more, for CWAIT; a commit that is past, one that is not, and one that has not
posted; beacons at the greatest width and beyond, with a grant and without; a publish report to a package without records. -/
theorem test_witness_cwait : (let s := clocked 0 4000
     s.job.strict = true ∧ ¬ (2 * s.epsmax.toNat < 4000) ∧ 2 * s.epsmax.toNat < 4001) ∧
    trapped (exec (.cwait w0) (clocked 0 4001)) = some (0x0F, false) ∧
    got (exec (.cwait w0) (committed .A (some 99) (clocked 0 4000))) (fun t => (t.st.pc, t.st.blocked)) = some (4, none) ∧
    got (exec (.cwait w0) (committed .A (some 100) (clocked 0 4000))) (fun t => (t.st.pc, t.st.blocked)) = some (0, some .cwait) ∧
    got (exec (.cwait w0) (committed .A none (clocked 0 4000))) (fun t => (t.st.pc, t.st.blocked)) = some (0, some .cwait) ∧
    got (exec (.cwait w0) (committed .M none (clocked 0 4000))) (fun t => (t.st.pc, t.st.blocked)) = some (4, none) ∧
    trapped (exec .clockWide ((clocked 0 4001).onSt (fun t => { t with blocked := some .cwait }))) = some (0x0F, false) := by
  refine ⟨by decide +kernel, ?_, ?_, ?_, ?_, ?_, ?_⟩ <;> decide +kernel
/-- TokensMove: M's commit reaches A with the token that M signals, and not before (R347). -/
theorem test_commit_travels : let s := committed .M none { clocked 0 4000 with cur := .M }
    got (exec (.nop ⟨false, false, true, false⟩) s) (fun t => (t.job.tokens[2], t.job.flow.tokens[2])) = some (1, [[3]]) ∧
    (let f := (Flow.accepts Flow.reset .M 3).signals .M 2
     (f.takes .A 2).known[0] = [3] ∧ (f.takes .A 2).tokens[2] = [] ∧ f.known[0] = [] ∧ ((f.meets .V true).meets .E false).known[3] = [3]) := by
  decide +kernel
/-- The time, and the latest times of dies 1 and 0, after an instruction. -/
def times (i : Instr) (s : State) : Option (Word × Word × Word) :=
  got (exec i s) (fun t => (t.now, t.dies[1].latest, t.dies[0].latest))
/-- A grant that runs. -/
def granted : State := launched [{ waiting 1 .running 0 [] with words := (List.replicate 32 0).set 0 0x200000000 }]
theorem test_witness_beacon : times (.beacon 1 1000 990 ⟨1010, 0, []⟩) base = some (1000, 1010, 1000) ∧
    times (.beacon 1 1000 990 ⟨1011, 0, []⟩) base = some (1000, 1000, 1000) ∧
    times (.beacon 1 1000 1001 ⟨1010, 0, []⟩) base = some (1000, 1000, 1000) ∧
    times (.beacon 1 1000 880 ⟨1120, 0, []⟩) granted = some (1000, 1120, 1000) ∧
    times (.beacon 1 1000 880 ⟨1121, 0, []⟩) granted = some (1000, 1000, 1000) ∧
    times (.beacon 1 9001 8991 ⟨9011, 0, []⟩) base = some (9001, 9011, 9003) ∧ base.now.toNat ≤ (1000 : Word).toNat := by decide +kernel
theorem test_witness_publish_report : base.vdoms = [] ∧ got (exec (.floorReport 1 5 ⟨[], [⟨0x21, 3, 6, 90, 4⟩]⟩) base)
    (fun t => t.vdoms.map (fun d => (d.owner, d.dom, d.lastPub, d.pstamp, d.scope))) = some [(0x21, 3, 6, 90, .grant 4)] := by
  decide +kernel
/-- ClockResults: a die that stops with a job on it, whose launch has not ended. -/
theorem test_witness_shutdown : let s := launched [waiting 1 .running 0 [⟨0, 0, 0, 1, .running⟩]] |>.onJob (fun j => { j with launch := 1 })
    (s.liveJobs.map (·.uid)).Nodup ∧ (s.onCores.filter (fun j => j.uid != 0)).map (fun j => (s.dieOf j.core, j.launch)) = [(0, 1)] ∧
    got (exec (.thermalShutdown 0) s) (fun t => t.launches.map (fun l => (l.state, l.status, l.trap))) = some [(.ended, 5, 0x12)] := by decide +kernel

/-- A pending version of the entry at VAT 0x4000, with a symbol ZERO, stamp 9 and policy version 4, and the home's floor. -/
def versionAt (floor : Word) : State :=
  let s := base.setTte (cellKey .vat 0x4000) (inVat 0x40)
  { s with
    tileVers := [⟨cellKey .vat 0x4000, 0, 0, .pending, entry (2 ^ 61 + 3 * 2 ^ 41 + 2 * 2 ^ 38 + 2 ^ 27) (0x40 * 2 ^ 24) 1, 9, 4, .pkg, none⟩]
    dies := s.dies.set 0 { s.dies[0] with floorPkg := floor } }
/-- VersionBecomesCurrent: a pending version at the floor of its home, and below it. -/
theorem test_witness_pending : (versionAt 9).tileVers.map (fun v => (v.state, v.recBlock, v.domain)) = [(.pending, none, .pkg)] ∧
    homeDie (cellKey .vat 0x4000) ((versionAt 9).tte (cellKey .vat 0x4000)) = 0 ∧ (versionAt 9).vwater.toNat < (9 : Word).toNat ∧
    got (exec (.versionCurrent (cellKey .vat 0x4000)) (versionAt 9)) (fun t => t.tileVers.length) = some 1 ∧
    (9 : Word).toNat < (versionAt 10).dies[0].floorPkg.toNat := by
  refine ⟨?_, ?_, ?_, ?_, ?_⟩ <;> decide +kernel

/-- A running launch of two packages, whose job of this package has halted or runs. -/
def twoPackages (ph : LJobPhase) : State := launched [{ waiting 1 .running 0 [⟨0, 0, 0, 1, ph⟩] with
  words := ((List.replicate 32 0).set 0 0x20C000000).set 4 0x4000000220000001 |>.set 5 1 }] |>.onJob (fun j => { j with launch := 1 })
/-- LaunchesAndDispatch: the reports of the other packages, with this package's jobs halted and not, and in a launch of one package. -/
theorem test_witness_grant_reports : (twoPackages .halted).launches.map (fun l => (l.stages, l.share, (l.words.getD 0 0).getLsbD 33)) = [(0, 1, true)] ∧
    got (exec (.grantRelease ⟨1, .halted⟩) (twoPackages .halted)) (fun t => t.launches.map (fun l => (l.state, l.status))) = some [(.ended, 0)] ∧
    got (exec (.grantRelease ⟨1, .halted⟩) (twoPackages .running)) (fun t => t.launches.map (fun l => (l.state, l.othersHalted))) = some [(.running, true)] ∧
    got (exec (.grantRelease ⟨1, (.trapped 0x0D 0 1)⟩) (twoPackages .running)) (fun t => (t.launches.map (fun l => (l.state, l.status, l.trap)), t.job.uid)) =
      some ([(.ended, 5, 0x0D)], 0) ∧
    got (exec (.grantRelease ⟨1, .halted⟩) (launched [waiting 1 .running 0 []])) (fun t => t.launches.map (·.othersHalted)) = some [false] := by
  decide +kernel
/-- LaunchesAndDispatch: a hold that must end (a stream blocked at a queue with a token in flight), and one that need not. -/
theorem test_witness_hold : let s := (base.onJob (fun j => { j with
        preempt := true
        tokens := j.tokens.set 0 1
        a := { j.a with phase := .held 1 }
        m := { j.m with phase := .halted }
        v := { j.v with blocked := some .waitc }
        e := { j.e with phase := .held 1 } }))
    s.job.preempt = true ∧ s.job.tokens[0] ≠ 0 ∧ got (exec .safeHoldRelease s) (fun t => (t.job.a.phase, t.job.e.phase)) = some (.released, .released) ∧
    got (exec .safeHoldRelease (s.onJob (fun j => { j with v := { j.v with blocked := none } }))) (fun t => t.job.a.phase) = some (.held 1) := by
  decide +kernel
/-- LaunchesAndDispatch: R377's worked example of a context: two of eight rotating slots are live. -/
theorem test_witness_context : let j := { Job.reset 0 with rsize := 2, rlive := 4, slotLive := 0xF, scrlog := 3 }
    (j.image []).bytes = 100544 := by decide +kernel

/-- Whether BOOT succeeds with torus extents. -/
def boots (x : Nat) (i : Instr) : Option (Bool × Nat) := got (exec i State.reset) (fun t => (t.booted, t.torus.1 + x))
/-- HostWindowResults: torus extents at the ends of their range and outside it; reads of the window, of another size and of an unlisted place. -/
theorem test_witness_boot : boots 0 (.boot ⟨false, 0, 3, 1, 16, 1, 0, 0, 0, 1000, [], true⟩) = some (true, 1) ∧
    boots 0 (.boot ⟨false, 0, 3, 16, 1, 16, 0, 0, 0, 1000, [], true⟩) = some (true, 16) ∧
    (boots 0 (.boot ⟨false, 0, 3, 0, 1, 1, 0, 0, 0, 1000, [], true⟩)).map (·.1) = some false ∧
    (boots 0 (.boot ⟨false, 0, 3, 1, 1, 17, 0, 0, 0, 1000, [], true⟩)).map (·.1) = some false ∧
    (boots 0 (.boot ⟨true, 0, 3, 1, 1, 1, 0, 0, 0, 1000, [], true⟩)).map (·.1) = some false ∧
    (boots 0 (.boot ⟨true, 0xC30C3, 3, 1, 1, 1, 0, 0, 0, 1000, [], true⟩)).map (·.1) = some true := by
  refine ⟨?_, ?_, ?_, ?_, ?_, ?_⟩ <;> decide +kernel
theorem test_management_reads : let s := base.onHost (fun h => { h with invBusy := true, compBase := 5, mailbox := h.mailbox.set 31 9 })
    s.mgmtRead 8 0x60 = 1 ∧ s.mgmtRead 8 0x48 = 5 ∧ s.mgmtRead 4 0x48 = 0 ∧ s.mgmtRead 8 0x40 = 0 ∧ s.mgmtRead 8 0x10F8 = 9 ∧
    s.mgmtRead 8 0x1100 = 0 ∧ got (exec (.mgmtRegisterWrite ⟨4, 0x48⟩ 7) s) (·.host.compBase) = some 5 := by decide +kernel
/-- MailboxResults: a quote below the limit. -/
theorem test_witness_quote : let s := mailed 0x40 1 2 3 base
    s.host.mbBusy = true ∧ s.host.mbResult = none ∧ s.quotes < 2 ^ 20 ∧ (s.host.mailbox[0]).toNat % 2 ^ 16 = 0x40 ∧
    got (exec .quote s) (fun t => (t.host.mbResult, t.quotes, t.host.quote.map (·.nonce))) =
      some (some 0, 1, some 0x300000000000000020000000000000001) := by decide +kernel

/-- Tile 1 of owner 0x21 is a plain FP32 tile of a Vat at granule 0x21; a window 5 of owner 0x21 over the granules from 0x10 on, of 8 granules,
for owner 0x21, with every permission. -/
def outer : State :=
  let s := { base with owners := [{ owner 0x21 with ttb := 0x4000000000000020 }] }
  let s := (s.setTte (gttKey 1) (entry (3 * 2 ^ 41 + 2 * 2 ^ 38 + 2 ^ 27) (0x40 * 2 ^ 24 + 0x21) 1)).storeBytes (cellKey .vat (0x40 * 512)) [1, 2, 3, 4]
  { s with fabric := { s.fabric with windows := [(5, 0xA000000000000010, 0x00210021E0000007)] } }
/-- OutsideAccesses: the entry that the aperture and an agent read, its values and backing, apart from the entry. -/
theorem test_witness_outer_tile : (match readEntry outer (outer.outsider 0 0x21).ctx 0 1 with
      | .ok (k, t) => decide (k = gttKey 1 ∧ t.owner = 0x21 ∧ t.kind = 0 ∧ t.aon = false ∧ t.versioned = false ∧ t.press = false ∧ t.tier = 2 ∧
          t.refcnt = 1 ∧ t.layout = 0 ∧ t.record .w / 2 ^ 18 = 0x3FFF ∧ t.loc * 512 = 0x40 * 512 ∧ t.loc * 512 + t.backLen ≤ tierSize .vat ∧
          gttKey 1 + 64 ≤ cellKey .vat (t.loc * 512)) &&
        (match valuesOf outer (outer.outsider 0 0x21).ctx 1 t with | .ok v => v.vals == [0x04030201, 0, 0, 0] | _ => false)
      | _ => false) = true ∧ outer.recs = [] ∧ outer.bad = [] ∧ outer.aonHolds = [] ∧ outer.memOk := by unfold State.memOk; decide +kernel
theorem test_aperture_reads : let s := outer.onHost (fun h => { h with tapsel := 0x0021000000000001 })
    got (exec (.tileApertureRead 2 4) s) (fun t => t.host.answer) = some (some [3, 4, 0, 0]) ∧
    got (exec (.tileApertureWrite 2 [9]) s) (fun t => memRead t.mem (cellKey .vat (0x40 * 512)) 4) = some [1, 2, 9, 4] ∧
    got (exec (.hostRawAccess false .vat 0x4001 [0, 0]) s) (fun t => t.host.answer.map List.length) = some (some 2) ∧
    got (exec (.tileApertureRead 2 4) (s.onHost (fun h => { h with tapsel := 0x0021000000000009 }))) (fun t =>
      (t.host.answer, t.owners.map (·.accessErr))) = some (none, [1]) := by decide +kernel
/-- OutsideAccesses: the last bytes of a window, one byte beyond it, an atomic, and a window that is revoked. -/
theorem test_witness_window : let w := outer.fabric.windows
    (w.find? (fun x => x.1 == 5 && x.2.1.getLsbD 63)).isSome = true ∧ 4088 + 8 ≤ (0x00210021E0000007 : Word).toNat % 2 ^ 24 * 512 + 512 ∧
    (0x10 * 512 + 4088) % 8 = 0 ∧
    got (exec (.peerRequest 0x21 5 ⟨0, (.write 4088 [1, 2])⟩) outer) (fun t => memRead t.mem (cellKey .vat (0x10 * 512 + 4088)) 2) = some [1, 2] ∧
    got (exec (.peerRequest 0x21 5 ⟨0, (.atomic 4088 .add 3 0 true)⟩) outer) (fun t => (t.load64 (cellKey .vat (0x10 * 512 + 4088)), t.host.peerEpoch)) =
      some (3, outer.host.peerEpoch + 1) ∧
    got (exec (.peerRequest 0x21 5 ⟨0, (.read 4089 8)⟩) outer) (fun t => t.owners.map (·.revoked)) = some [1] ∧
    got (exec (.peerRequest 0x99 5 ⟨0, (.read 0 8)⟩) { outer with fabric := { outer.fabric with windows := [(5, 0x2000000000000010, 0x00210021E0000007)] } })
      (fun t => t.owners.map (·.revoked)) = some [1] := by
  refine ⟨?_, ?_, ?_, ?_, ?_, ?_, ?_⟩ <;> decide +kernel

/-- A Vat operation or Copy Engine command at the head of its queue, on the tiles. -/
def queued (cs : List Cmd) (s : State) : State := s.onJob (fun j => { j with ceQ := cs })
/-- A plain FP32 tile without records, at its entry and backing, apart from another entry. -/
def plainAt (s : State) (o : Except Stop (Nat × Tte)) (k b n : Nat) (idx : Nat) : Bool :=
  match o with
  | .ok (k', t) => decide (k' = k ∧ t.kind = 0 ∧ t.fmt = .fp32 ∧ t.layout = 0 ∧ t.press = false ∧ t.tier ≤ 4 ∧ t.detect = false ∧ t.aon = false ∧
      t.versioned = false ∧ t.pooled = false ∧ t.rows * t.cols = n ∧ t.refcnt = 1 ∧ t.record .w / 2 ^ 18 = 0x3FFF ∧ t.record .a / 2 ^ 18 = 0x3FFF ∧
      t.record .b / 2 ^ 18 = 0x3FFF) && s.recs.isEmpty &&
    (match backKey s s.job.tctx 1 idx t with | .ok b' => decide (b' = b ∧ (k + 64 ≤ b ∨ b + t.backLen ≤ k)) | _ => false)
  | _ => false
/-- EngineThreadResults: two plain tiles apart, as source and destination of a TLD, TCOPY, TALIAS or TDEDUP. -/
theorem test_witness_pair : let s := tilesIn base
    plainAt s (openTile s s.job.tctx lcap 0 (2 ^ 32)) (lttKey 0 0) (cellKey .scratch (0x10 * 512)) 4 (2 ^ 32) = true ∧
    plainAt s (openWrite s s.job.tctx lcap (2 ^ 32 + 1)) (lttKey 0 1) (cellKey .scratch (0x20 * 512)) 4 (2 ^ 32 + 1) = true ∧
    lttKey 0 0 + 64 ≤ lttKey 0 1 ∧ sameShape (s.tte (lttKey 0 0)) (s.tte (lttKey 0 1)) = true ∧
    isLtt (2 ^ 32) = isLtt (2 ^ 32 + 1) ∧ (s.tte (lttKey 0 2)).kind = 1 ∧ s.aonHolds = [] ∧ s.bad = [] := by
  refine ⟨?_, ?_, ?_, ?_, ?_, ?_, ?_, ?_⟩ <;> decide +kernel
/-- EngineThreadResults: a command behind its own party's, one of another party, and one that was cut on a PEER tile. -/
theorem test_witness_order : let c := cmd (.tpref w0 1 9 3 false) 0 0
    (∃ d ∈ [c].take 1, d.cc = { c with id := 1 }.cc) ∧ (∀ d ∈ [c].take 1, d.cc ≠ { c with id := 1, cc := 4 }.cc) ∧
    got (exec (.copyEngineCompletion 0) (queued [c] base)) (fun t => (t.job.cc[3], t.mem.length)) = some (1, 0) ∧
    peerCmd peered peerTld = true ∧
    got (exec (.copyEngineCompletion 0) (queued [{ peerTld with cut := true }] peered)) (fun t => t.job.cc[3]) = some 0x0003000100000001 ∧
    got (exec (.transferRevoked 0) (queued [peerTld] peered)) (fun t => (t.job.cc[3], t.owners.map (·.revoked))) = some (0x0006000100000001, [1]) ∧
    got (exec (.transferRevoked 0) (peered.onJob (fun j => { j with mxQ := [{ cmd (.macc w0 .acc0 1 3 false false) 0 0 with capC := gcap0 }] }))) (fun t =>
      t.job.cc[3]) = some 0x0006000100000001 := by
  refine ⟨?_, ?_, ?_, ?_, ?_, ?_, ?_⟩ <;> decide +kernel
/-- R224, R222, R227: the KINDs that TFILL leaves, the aliases of a stored and of a symbolic tile, and TDEDUP of equal and of other tiles. -/
theorem test_fills : completes (.tfill w0 1 8 3 false .ramp) 0x1_3F800000 0x4000000040400000 (fun t => let e := t.tte (lttKey 0 1)
      (e.kind, e.syma, e.symb, e.symc)) = some ((3, 0x3F800000, 0x40000000, 0x40400000), 1) ∧
    completes (.tfill w0 1 8 3 false .had) 0x1_3F800000 0 (fun t => let e := t.tte (lttKey 0 1)
      (e.kind, e.syma)) = some ((4, 0x3F800000), 1) ∧
    completes (.tfill w0 1 8 3 false .zero) 0x1_00000000 0 (fun t => (t.tte (lttKey 0 1)).kind) = some (1, 1) := by decide +kernel
theorem test_alias : completes (.talias w0 1 2 9 3 false) 0x1_00000000 0 (fun t =>
      ((t.tte (lttKey 0 1)).kind, (t.tte (lttKey 0 1)).syma, (t.tte (lttKey 0 0)).refcnt)) = some ((5, 0, 2), 1) ∧
    completes (.talias w0 1 2 9 3 false) 0x1_00000002 0 (fun t => ((t.tte (lttKey 0 1)).kind)) = some (1, 1) ∧
    completes (.tdedup w0 1 2 9 3 false) 0x1_00000000 0 (fun t => ((t.tte (lttKey 0 1)).kind, (t.tte (lttKey 0 0)).kind)) =
      some ((0, 0), 0x0001000000000001) := by decide +kernel

/-- EngineThreadResults: a gather by one index, of a row that stands, and one beyond the column; its index list. -/
def gathering (i : Nat) : State := ((mapped (tilesIn base)).storeBytes (cellKey .pkg 0x100) (leBytes 4 i)).onJob (fun j =>
  { j with ceQ := [{ cmd (.tgath w0 1 2 9 3 false) 0x100 0 with capA := only 0, capB := only 1 }] })
theorem test_witness_gather : Cap.rowt (only 0) = 1 ∧
    (match indexList { cmd (.tgath w0 1 2 9 3 false) 0x100 0 with capA := only 0 } 1 (gathering 0) with
      | .ok (l, t) => decide (l = [0] ∧ t.mem = (gathering 0).mem) | _ => false) = true ∧
    got (exec (.copyEngineCompletion 0) (gathering 0)) (fun t => (memRead t.mem (cellKey .scratch (0x20 * 512)) 4, t.job.cc[3])) =
      some (leBytes 4 0x3F800000, 1) ∧
    got (exec (.copyEngineCompletion 0) (gathering 1)) (fun t => t.job.cc[3]) = some 0x0005000100000001 := by
  refine ⟨?_, ?_, ?_, ?_⟩ <;> decide +kernel
/-- A versioned, pooled tile of a Vat, whose pool of the table's header has blocks of 1,024 bytes. -/
def committing (ver : List TileVer) : State :=
  let s := tabled 1 (entry (3 * 2 ^ 41 + 2 * 2 ^ 38 + 2 ^ 34 + 2 ^ 33 + 2 ^ 27) (0x40 * 2 ^ 24) 1) (tilesIn base)
  { (s.storeBytes (cellKey .vat 0) (leBytes 8 0x4000000000000000 ++ [2])).onJob (fun j => { j with
      vdom := 3
      ceQ := [{ cmd (.tcommit w0 1 2 8 3 false .pkg) 0x200000001 0x0007000000000000 with capB := gcap0 }] }) with tileVers := ver }
/-- EngineThreadResults: a commit of a symbol that its home takes; a publish of a version that no tile has staged. -/
theorem test_witness_commit : (let s := committing []
      commitOk s s.job.tctx (s.tte (gttKey 1)) = true ∧ sameShape (s.tte (lttKey 0 2)) (s.tte (gttKey 1)) = true ∧
      (match openTile s s.job.tctx gcap0 1 1 with | .ok (k, t) => decide (k = gttKey 1 ∧ t.kind = 0 ∧ t.refcnt = 1) | _ => false) = true ∧
      s.waitingVers (gttKey 1) = [] ∧ s.vdoms = [] ∧ s.job.vdom ≠ 0) ∧
    got (exec (.copyEngineCompletion 0) (committing [])) (fun t => (t.tileVers.map (fun v => (v.entry, v.state, v.tte.kind)), t.job.cc[3])) =
      some ([(gttKey 1, .pending, 1)], 1) ∧
    got (exec (.copyEngineCompletion 0) (queued [{ cmd (.publ w0 3 1 2 .pkg) 6 0 with capA := mkCap 1 1 1 1 0xFA0000 }] (committing []))) (fun t =>
      t.vdoms.map (fun d => (d.dom, d.lastPub, d.scope))) = some [(3, 6, .pkg)] := by
  refine ⟨by decide +kernel, ?_, ?_⟩ <;> decide +kernel
/-- EngineThreadResults: a TLDAS whose stamp is not past waits. -/
theorem test_witness_as_of : let s := (committing []).onJob (fun j => { j with ceQ := [{ cmd (.tldas w0 3 2 8 2 false .pkg) 0x100000001 50 with capA := gcap0 }] })
    ¬ ((50 : Word) < s.knownFloor (homeDie (gttKey 1) (s.tte (gttKey 1))) .pkg) ∧
    got (exec (.copyEngineCompletion 0) s) (fun t => t.job.ceQ.length) = some 1 := by decide +kernel

/-- tilesIn, where slot W of entry 1 holds the record of a party, with a table that the Copy Engine's party 3 has acquired. -/
def recorded (p : Party) (acq : AcqTable) : State :=
  let s := (tilesIn base).onJob (fun j => { j with epoch := 5, threadAcq := [(4, acq)], ceQ := [cmd (.tfill w0 1 8 3 false .zero) 0x100000000 0] })
  let r := s.recordOf p 0
  { s.setTte (lttKey 0 1) ((s.tte (lttKey 0 1)).setRecord .w r) with
    recs := [⟨lttKey 0 1, .w, BitVec.ofNat 32 r, p, false, none, [p], none⟩] }
/-- What the check of a write by the Copy Engine's party 3 gives: whether it passes. -/
def writePasses (s : State) : Bool :=
  match checkAccess (lttKey 0 1) (s.tte (lttKey 0 1)) ⟨1, 4⟩ true none s with
  | .ok _ => true
  | .error _ => false
/-- RaceChecks: empty slots; a record of the job, of the host and of the party itself; the job's once its epoch is acquired, and one below. -/
theorem test_witness_races : (let s := recorded ⟨1, 0⟩ []
      s.placed (lttKey 0 1) (s.tte (lttKey 0 1)) .w = some ⟨lttKey 0 1, .w, BitVec.ofNat 32 (s.recordOf ⟨1, 0⟩ 0), ⟨1, 0⟩, false, none, [⟨1, 0⟩], none⟩ ∧
      (s.tte (lttKey 0 1)).record .w / 2 ^ 18 ≠ 0x3FFF ∧ (s.tte (lttKey 0 1)).record .a / 2 ^ 18 = 0x3FFF) ∧
    (writePasses (tilesIn base), writePasses (recorded ⟨1, 0⟩ []), writePasses (recorded ⟨0, 0⟩ []), writePasses (recorded ⟨1, 4⟩ [])) =
      (true, false, false, true) ∧
    (writePasses (recorded ⟨1, 0⟩ [(⟨1, 0⟩, 5)]), writePasses (recorded ⟨1, 0⟩ [(⟨1, 0⟩, 4)])) = (true, false) ∧
    trapped (exec (.copyEngineCompletion 0) (recorded ⟨1, 0⟩ [])) = some (0x0D, false) ∧
    got (exec (.copyEngineCompletion 0) (recorded ⟨1, 0⟩ [(⟨1, 0⟩, 5)])) (fun t => (t.job.cc[3], (t.tte (lttKey 0 1)).record .w,
      (t.tte (lttKey 0 1)).record .a)) = some (1, 4 * 2 ^ 18 + 2 ^ 9, 0xFFFFFFFF) := by
  refine ⟨by decide +kernel, ?_, ?_, ?_, ?_⟩ <;> decide +kernel
/-- RaceChecks: an AON tile lets a read pass a write, and a VERSIONED tile is not checked; a read takes slot A, then B. -/
theorem test_witness_race_exceptions : let s := recorded ⟨1, 0⟩ []
    let check := fun (flags : Tte) (write : Bool) => match checkAccess (lttKey 0 1) (s.tte (lttKey 0 1) ||| flags) ⟨1, 4⟩ write none s with
      | .ok _ => true | .error _ => false
    (check 0 false, check 0x800000000 false, check 0x800000000 true, check 0x200000000 true) = (false, true, false, true) ∧
    (let u := recordAccess (lttKey 0 1) ⟨1, 4⟩ false none (tilesIn base)
     let v := recordAccess (lttKey 0 1) ⟨1, 5⟩ false none u
     ((u.tte (lttKey 0 1)).record .a, (v.tte (lttKey 0 1)).record .b, v.recs.length)) = (4 * 2 ^ 18 + 2 ^ 9, 5 * 2 ^ 18 + 2 ^ 9, 2) := by decide +kernel

/-- FabricEvents: the flit after the last good one, another, the count of failures at its ends, and a group of 16 and of 17 flits. -/
def flitOf (kind : BitVec 4) (seq : BitVec 10) : Flit :=
  ⟨0x21, kind, false, false, seq, crc32 (leBytes 4 (0x21 * 2 ^ 16 + kind.toNat * 2 ^ 12 + seq.toNat) ++ List.replicate 56 0), List.replicate 56 0⟩
def portUp (n : Nat) (asked : Bool) : State := base.onPort 0 (fun p => { p with up := true, replays := n, asked := asked, lseq := 4 })
theorem test_witness_flits : got (exec (.flitReceived 0 ⟨flitOf 0 5, [], []⟩) (portUp 8 true)) (fun t => (t.fabric.ports[0].lseq, t.fabric.ports[0].replays,
      t.fabric.ports[0].groups.length)) = some (5, 0, 1) ∧
    got (exec (.flitReceived 0 ⟨flitOf 0 6, [], []⟩) (portUp 1 true)) (fun t => (t.fabric.ports[0].lseq, t.fabric.ports[0].asked)) = some (4, true) ∧
    got (exec (.flitReceived 0 ⟨flitOf 0 6, [], []⟩) (portUp 0 false)) (fun t => t.fabric.ports[0].lseq) = some 6 ∧
    got (exec (.flitReceived 0 ⟨flitOf 0 5, [], []⟩) (portUp 9 true)) (fun t => t.fabric.ports[0].lseq) = some 4 ∧
    got (exec (.flitReceived 0 ⟨flitOf 6 5, [], []⟩) (portUp 0 false)) (fun t => (t.fabric.ports[0].linkErr, t.fabric.ports[0].groups.length)) = some (1, 0) ∧
    got (exec (.linkDown ⟨0, []⟩) (portUp 8 true)) (fun t => t.fabric.ports[0].up) = some true ∧
    got (exec (.linkDown ⟨0, [0]⟩) ((portUp 9 true).onJob (fun j => { j with ceQ := [cmd (.tld w0 1 2 9 3 false) 1 0] }))) (fun t =>
      (t.fabric.ports[0].up, t.job.ceQ.map (·.cut))) = some (false, [true]) := by
  refine ⟨?_, ?_, ?_, ?_, ?_, ?_, ?_⟩ <;> decide +kernel
theorem test_witness_group : let s := fun (n : Nat) => { base with owners := [{ owner 0x21 with key0 := some 7 }] }.onPort 0 (fun p =>
      { p with up := true, groups := [⟨0x21, List.replicate n (flitOf 0 5)⟩] })
    (s 16).fabric.ports[0].groups.map (·.flits.length) = [16] ∧ (s 16).fabric.ports[0].nonces = [] ∧
    got (exec (.tagFlit 0 0x21 false ⟨0, []⟩) (s 17)) (fun t => (t.owners.map (·.tagErr), t.fabric.ports[0].groups.length)) = some ([1], 0) := by
  decide +kernel

/-- An image of one job whose code sections are empty. -/
def image1 : Image := ⟨Vector.replicate 4 (0, 0), [[0, 0, 0, 0]], [], [], Vector.replicate 64 0, (0, 0)⟩
/-- A launch of one job (one level, JOB, of COUNT 1), in words. -/
def oneJob : List Word := ((List.replicate 32 0).set 0 0x4000000).set 4 1
def ready (jobs : List LJob) : Launch := { waiting 1 .waiting 0 jobs with words := oneJob, image := some image1 }
/-- A launch of two packages that waits, whose owner has a key. -/
def routed : State := { launched [{ waiting 1 .waiting 0 [] with image := some image1, words := ((List.replicate 32 0).set 0 0x20C000000).set 4 0x4000000220000001 |>.set 5 1 }] with
  job := Job.reset 0
  owners := [{ owner 0 with key0 := some 1 }] }
/-- A package whose one launch has jobs, on an idle core 0. -/
def idleWith (st : LaunchState) (jobs : List LJob) : State := { launched [{ ready jobs with state := st }] with job := Job.reset 0 }
/-- LaunchesAndDispatch: a plan of each kind stands first: a start, a resumption and a claim. -/
theorem test_witness_plans : (idleWith .waiting []).plans (idleWith .waiting []).inService [] = [.run 1 (.start 0 [0]) [(0, 0)]] ∧
    (idleWith .running [⟨0, 0, 0, 1, .preempted⟩]).plans (idleWith .running [⟨0, 0, 0, 1, .preempted⟩]).inService [] =
      [.run 1 (.resume [⟨0, 0, 0, 1, .preempted⟩]) [(0, 0)]] ∧
    routed.plans routed.inService [] = [.route 1] := by refine ⟨?_, ?_, ?_⟩ <;> decide +kernel
theorem test_dispatch : got (exec .dispatch (idleWith .waiting [])) (fun t => (t.launches.map (fun l => (l.state, l.jobs.map (·.phase))), t.nextUid)) =
      some ([(.loading, [.loaded])], 3) ∧
    got (exec .dispatch routed) (fun t => (t.launches.map (·.state), t.fabric.routes.map (·.1))) = some ([.routing], [0]) := by decide +kernel

/-! ## Witnesses of errors, holds, batches and contexts -/

/-- AcknowledgedFaults: a supervisor call whose TRAP has SP and SS set resumes with its reply; A's signals act (R367). -/
theorem test_witness_reply_signals : let f : Parked := ⟨9, 0x14, 1, .A, none, 1, some (5, ⟨false, false, true, true⟩), some (.reply 77), []⟩
    let s := { base with parked := [f] }.onJob (fun j => { j with phase := .parked })
    nextResumable s.parked (f.seq.extractLsb' 30 2) = some f ∧
    got (exec (.faultResume 9) s) (fun t => (t.reg 5, t.job.tokens[1], t.job.tokens[0], t.job.phase)) = some (77, 1, 1, .running) := by
  decide +kernel
/-- Loads, stores, atomics and LAUNCH that meet an uncorrectable error (log 42): no register, byte or word, and a count. -/
def struck (s : State) : State := { s with bad := [(cellKey .pkg 0x104, false)] }
theorem test_witness_dropped : let s := struck (mapped (withRegs base [(1, 0x100), (2, 5), (6, 0x100)]))
    s.good (cellKey .pkg 0x100) 8 = false ∧ s.good (cellKey .pkg 0x100) 4 = true ∧
    got (exec (.ldd w0 2 1 0) s) (fun t => (t.reg 2, t.job.errcnt, t.st.pc)) = some (5, 1, 4) ∧
    got (exec (.std w0 2 1 0) s) (fun t => (t.mem.length, t.job.errcnt)) = some (0, 1) ∧
    got (exec (.amoadd w0 .none 2 1 2) s) (fun t => (t.reg 2, t.mem.length, t.job.errcnt)) = some (5, 0, 1) ∧
    got (exec (.launch w0 4 6) s) (fun t => (t.launches.map (·.words.length), t.job.errcnt)) = some ([0], 1) := by
  refine ⟨?_, ?_, ?_, ?_, ?_, ?_⟩ <;> decide +kernel
/-- CultureAndTokenResults: a header and a set that meet an error: QCFG waits and is made again. -/
theorem test_witness_culture_again : let s := fun (k : Nat) => { dirs with bad := [(cellKey .pkg k, false)] }
    got (exec (.qcfg w0 3) (s (0x400 + 7))) (fun t => (t.st.blocked, t.st.pc)) = some (some .engineQueue, 0) ∧
    got (exec (.qcfg w0 5) (s (0x408 + 16895))) (fun t => t.st.blocked) = some (some .engineQueue) := by
  refine ⟨?_, ?_⟩ <;> decide +kernel
/-- VersionBecomesCurrent: a command that reads the tile holds its writes (R329). -/
theorem test_witness_version_held : got (exec (.versionCurrent (cellKey .vat 0x4000)) { versionAt 10 with aonHolds := [(cellKey .vat 0x4000, 5)] })
    (fun t => t.tileVers.length) = some 1 := by decide +kernel
/-- EngineThreadResults: a CXL device holds the writes of an AON tile; a tile that is not AON is not held. -/
theorem test_witness_agent_hold : let s := tabled 1 (inVat 0x40 ||| 0x800000000) base
    (s.tte (gttKey 1)).aon = true ∧
    got (exec (.aonWriteHold (1 + (3 * gttKey 1 + 1))) s) (·.aonHolds) = some [(gttKey 1, 2 ^ 79 + 1)] ∧
    got (exec (.aonWriteHold (1 + (3 * gttKey 2 + 1))) s) (·.aonHolds) = some [] := by refine ⟨?_, ?_, ?_⟩ <;> decide +kernel
/-- FabricEvents: the floor that a flit carries for a grant, up to the clocks of the package. -/
theorem test_witness_flit_floors : let s := { portUp 0 false with dies := (portUp 0 false).dies.map (fun d => { d with earliest := 10 }) }
    got (exec (.flitReceived 0 ⟨flitOf 2 5, [], [(4, 9)]⟩) s) (fun t => (t.dies[0].grantFloor 4, t.dies[1].grantFloor 4)) = some (9, 0) ∧
    got (exec (.flitReceived 0 ⟨flitOf 2 5, [], [(4, 11)]⟩) s) (fun t => t.dies[0].grantFloor 4) = some 10 ∧
    got (exec (.flitReceived 0 ⟨flitOf 6 5, [], [(4, 9)]⟩) s) (fun t => t.dies[0].grantFloor 4) = some 0 := by
  refine ⟨?_, ?_, ?_⟩ <;> decide +kernel
/-- OutsideAccesses: another importer, a window without WRITE, and a read that runs past the end. -/
theorem test_witness_turned_away : let s := { outer with owners := outer.owners ++ [owner 0x99] }
    let u := { s with fabric := { s.fabric with windows := [(5, 0xA000000000000010, 0x00210021A0000007)] } }
    let refused := fun (s : State) (o : BitVec 16) (p : PeerOp) => got (exec (.peerRequest o 5 ⟨0, p⟩) s) (fun t => (t.owners.map (·.revoked), t.mem == s.mem))
    refused s 0x99 (.read 0 8) = some ([1, 1], true) ∧ refused u 0x21 (.write 0 [1]) = some ([1, 0], true) ∧
    refused s 0x21 (.atomic 4096 .fadd 1 0 true) = some ([1, 0], true) ∧
    refused s 0x21 (.member 4089 .add 1 0 9 5) = some ([1, 0], true) := by refine ⟨?_, ?_, ?_, ?_⟩ <;> decide +kernel
/-- MarkAndJoinResults: a CORE marker passes a TCOMMIT that has prepared its version, a PKG marker does not (R318; log 38). -/
theorem test_witness_core_marker : let s := fun (sc : Scope) => (queued [{ cmd (.tcommit w0 1 2 8 3 false .pkg) 0 0 with ver := some (0, none, []) }] base).onSt (fun t =>
        { t with markers := [⟨.ce, [0], [], sc, false⟩] })
    got (exec (.markerHead 0) (s .core)) (fun u => u.job.a.markers.map (·.atHead)) = some [true] ∧
    got (exec (.markerHead 0) (s .pkg)) (fun u => u.job.a.markers.map (·.atHead)) = some [false] := by refine ⟨?_, ?_⟩ <;> decide +kernel
/-- MatrixCompletionAndMstat, EngineThreadResults: a 2 × 2 ROWCOL tile, whose COL half follows its ROW half. -/
def rowcol (k : Nat) (g : Nat) (s : State) : State := s.setTte k (entry (3 * 2 ^ 55 + 2 ^ 48 + 2 ^ 41 + 2 ^ 27) (g * 2 ^ 24) 1)
/-- tilesIn with a 2 × 2 source and a ROWCOL destination. -/
def stashing : State := rowcol (lttKey 0 1) 0x20 ((tilesIn base).setTte (lttKey 0 0) (entry (2 ^ 48 + 2 ^ 41 + 2 ^ 27) (0x10 * 2 ^ 24) 1))
/-- R221, R46: both halves take the elements of a TSTASH, the COL half in column order; a ROW destination posts SHAPE. -/
theorem test_witness_stash : got (exec (.copyEngineCompletion 0) (queued [cmd (.tstash w0 1 2 9 3 false) 1 0] stashing)) (fun t =>
      (memRead t.mem (cellKey .scratch (0x20 * 512)) 12, memRead t.mem (cellKey .scratch (0x21 * 512)) 12, t.job.cc[3])) =
      some (leBytes 4 0x3F800000 ++ leBytes 4 0x40000000 ++ leBytes 4 0xC0400000,
        leBytes 4 0x3F800000 ++ leBytes 4 0xC0400000 ++ leBytes 4 0x40000000, 1) ∧
    got (exec (.copyEngineCompletion 0) (queued [cmd (.tstash w0 1 2 9 3 false) 1 0] (tilesIn base))) (fun t => t.job.cc[3]) = some 0x0004000100000001 ∧
    (stashing.tte (lttKey 0 1)).layout = 3 ∧ (stashing.tte (lttKey 0 1)).backLen = 1024 ∧ stashing.recs = [] ∧
    sameShape (stashing.tte (lttKey 0 0)) (stashing.tte (lttKey 0 1)) = true := by refine ⟨?_, ?_, ?_, ?_, ?_, ?_⟩ <;> decide +kernel
/-- R222: a scatter of one row to the row of its index, and to one beyond the column. -/
theorem test_witness_scatter : let s := fun (i : Nat) => queued [{ cmd (.tscat w0 1 2 9 3 false) 0x100 0 with capA := only 0, capB := only 1 }] (gathering i)
    got (exec (.copyEngineCompletion 0) (s 0)) (fun t => (memRead t.mem (cellKey .scratch (0x20 * 512)) 4, t.job.cc[3])) =
      some (leBytes 4 0x3F800000, 1) ∧
    got (exec (.copyEngineCompletion 0) (s 1)) (fun t => t.job.cc[3]) = some 0x0005000100000001 := by refine ⟨?_, ?_⟩ <;> decide +kernel

/-- OBOPEN of batch 9, posting to counter 8, and an ordered AMOADD of 3 with key k into register r. -/
def opener : Cmd := { cmd (.obopen w0 8 1 2 9) 0 0 with id := 7, cc := 8 }
def member (r : SReg) (k : Word) : Cmd :=
  { cmd (.amoadd w0 .ord r 1 2) 3 (0x0009000000000000 + k) with id := r.toNat, cc := r, pa := 0x100, tier := .vat }
/-- Batch 9 over 64 bytes of a Vat, of one request, open at die 0; its word holds 4, and s5 of the E stream is pending. -/
def opened (q : List Cmd) : State :=
  let s := (base.onJob (fun j => { j with vqQ := q, e := { j.e with pend := 0x20 } })).storeBytes (cellKey .vat 0x100) [4]
  s.onDie 0 (fun d => { d with batches := [⟨0, 9, 0x100, 64, 1, 1, opener, [], false, [], []⟩] })
/-- OrderedBatchResults: the member arrives; with an error at its word (R215, R216). -/
theorem test_witness_last_member : let s := opened [opener, member 5 6]
    hasArrived s 1 (member 5 6) = false ∧ s.dies[0].held = [] ∧ s.recs = [] ∧
    got (exec (.orderedRequestArrival 1) s) (fun t => (t.load64 (cellKey .vat 0x100), t.job.e.regs[5], t.job.e.pend, t.job.cc[5], t.job.cc[8],
      t.job.vqQ.length)) = some (7, 4, 0, 1, 1, 0) ∧
    got (exec (.orderedRequestArrival 1) { s with bad := [(cellKey .vat 0x107, false)] }) (fun t => (t.load64 (cellKey .vat 0x100), t.job.e.regs[5],
      t.job.e.pend, t.job.cc[5], t.job.cc[8])) = some (4, 0, 0, 0x0003000100000001, 1) := by refine ⟨?_, ?_, ?_, ?_, ?_⟩ <;> decide +kernel
/-- OrderedBatchResults: an OBCLOSE of a batch without members, one that finds no batch, and an ordered atomic to PKG memory. -/
theorem test_witness_close : let c : Cmd := { cmd (.obclose w0 6 1 2) 0 9 with id := 8, cc := 6, pa := 0x100 }
    got (exec (.orderedRequestArrival 0) (opened [c, opener])) (fun t => (t.job.cc[6], t.job.cc[8], t.job.vqQ.length, t.dies[0].batches.length)) =
      some (1, 1, 0, 0) ∧
    got (exec (.orderedRequestArrival 0) (base.onJob (fun j => { j with vqQ := [c] }))) (fun t => t.job.cc[6]) = some 0x0007000100000001 ∧
    got (exec (.orderedRequestArrival 0) (opened [{ member 5 6 with tier := .pkg }])) (fun t => (t.job.cc[5], t.job.e.pend)) =
      some (0x0007000100000001, 0) := by refine ⟨?_, ?_, ?_⟩ <;> decide +kernel
/-- A batch of members, applied. -/
def applied (ms : List Cmd) (s : State) : State :=
  applyBatch 0 ⟨0, 9, 0x100, 64, 9, 1, opener, ms.map (fun c => ⟨1, 0, c, BitVec.ofNat 32 c.y.toNat, c.pa, 8⟩), false, [], []⟩ s
/-- OrderedBatchResults: ascending keys whatever the arrival; a shared key; a reduce-store of two tiles (R215, R223). -/
theorem test_witness_application : let q := [opener, member 5 6, member 4 2]
    (let t := applied [member 5 6, member 4 2] (opened q)
     (t.load64 (cellKey .vat 0x100), t.job.e.regs[4], t.job.e.regs[5], t.dies[0].batches.length) = (10, 4, 7, 0)) ∧
    (let t := applied [member 5 6, member 4 6] (opened q)
     (t.load64 (cellKey .vat 0x100), t.job.e.regs[4], t.job.errcnt, t.job.cc[4], t.job.cc[8]) = (4, 0, 2, 0x0008000100000001, 1)) ∧
    (let r := { reduce with y := 0x0009000000000005 }
     let t := applied [r] ((reducing.onJob (fun j => { j with vqQ := [opener, r] })).storeBytes (cellKey .vat (0x40 * 512)) (leBytes 4 0x40000000))
     (memRead t.mem (cellKey .vat (0x40 * 512)) 8, t.job.cc[3]) = (leBytes 4 0x40400000 ++ leBytes 4 0x40000000, 1)) := by
  refine ⟨?_, ?_, ?_⟩ <;> decide +kernel

/-- LaunchesAndDispatch: a job held at SAFE 7 in every stream is saved, and its image has the sections of R377. -/
def holding : State :=
  let h := fun (t : Stream) => { t with phase := .held 7 }
  (launched [waiting 1 .running 0 [⟨0, 0, 0, 1, .running⟩]]).onJob (fun j =>
    { j with launch := 1, preempt := true, a := h j.a, m := h j.m, v := h j.v, e := h j.e })
theorem test_witness_image : holding.job.mayBeSaved = true ∧ holding.saved = [] ∧
    (holding.job.image []).held = some 7 ∧ (holding.job.image []).lengths = [1024, 2048, 16384, 448, 64, 16384, 32, 192, 320, 96, 65536, 512] ∧
    got (exec .preemptSave holding) (fun t => (t.saved.map (·.1.uid), t.job.uid)) = some ([1], 0) := by
  refine ⟨?_, ?_, ?_, ?_, ?_⟩ <;> decide +kernel

/-- A turn of the tile entry cache of core 0. -/
def cacheTurn (m : CacheMove) (s : State) : Out := step { s with agenda := [⟨0, .entry m, []⟩] }
/-- A state in which core 0 holds entry 0 of its LTT, and a copy that differs from the table. -/
def caching (late : Bool) (t : Tte) : State :=
  { tilesIn base with entries := [⟨0, lttKey 0 0, t, late⟩] }
/-- A cache takes an entry; a change that it keeps back reaches every core and not the table, which a drop mends (R50). -/
theorem test_cache_keeps_back :
    got (cacheTurn (.take (2 ^ 32) true) (tilesIn base)) (fun t => t.entries.map (fun c => (c.core, c.key, c.late))) =
      some [(0, lttKey 0 0, true)] ∧
    (let s := (caching true (stored 0x10)).setTte (lttKey 0 0) (stored 0x30)
     s.tte (lttKey 0 0) = stored 0x30 ∧ State.tte { s with job := Job.reset 1 } (lttKey 0 0) = stored 0x30 ∧
     s.tableTte (lttKey 0 0) = stored 0x10 ∧
     got (cacheTurn (.drop (lttKey 0 0)) s) (fun t => (t.tableTte (lttKey 0 0), t.entries.length)) = some (stored 0x30, 0)) := by
  refine ⟨?_, ?_, ?_, ?_, ?_⟩ <;> decide +kernel
/-- A parity error on a copy: the table stands for a copy that equals it, or that software has passed by; a change that was kept
back is lost, and the job ends with MACHINE_ERROR (R50). -/
theorem test_cache_parity :
    got (cacheTurn (.parity (lttKey 0 0)) (caching true (stored 0x10))) (fun t => (t.tte (lttKey 0 0), t.job.uid, t.entries.length)) =
      some (stored 0x10, 1, 0) ∧
    got (cacheTurn (.parity (lttKey 0 0)) (caching false (stored 0x30))) (fun t => (t.tte (lttKey 0 0), t.job.uid)) =
      some (stored 0x10, 1) ∧
    trapped (cacheTurn (.parity (lttKey 0 0)) (caching true (stored 0x30))) = some (0x12, false) := by
  refine ⟨?_, ?_, ?_⟩ <;> decide +kernel
/-- CallsAndJobTraps: an entry that can be taken, a copy that is the core's only one, and each kind of copy;
the clauses of other statements on copies: one that agrees with the table, and a table with an error under a copy. -/
theorem test_witness_cache : let s := caching true (stored 0x30)
    entryKey base.job.tctx 0 (2 ^ 32) = .ok (lttKey 0 0) ∧ (tilesIn base).good (lttKey 0 0) 64 = true ∧ s.job.core = 0 ∧
    (∀ c ∈ s.entries, c.key = lttKey 0 0 ∧ c.late = true ∧ c.tte ≠ s.tableTte (lttKey 0 0)) ∧
    (∀ c ∈ (caching false (stored 0x10)).entries, c.tte = (caching false (stored 0x10)).tableTte c.key) ∧
    s.entryCopy (lttKey 0 0) ≠ none ∧ State.good { s with bad := [(lttKey 0 0, false)] } (lttKey 0 0) 64 = false := by
  refine ⟨rfl, ?_, ?_, ?_, ?_, ?_, ?_⟩ <;> decide +kernel

/-! ## Witnesses of halted jobs, waits, drops, routes and special functions -/

/-- What a fetch gives: an instruction, the code of a trap, or 200 and a status where it is dropped. -/
def fetched (s : State) : Option (Except Nat Instr) :=
  match fetch s with
  | .ok (i, _) => some (.ok i)
  | .error (.trap t) => some (.error t.code.toNat)
  | .error (.post n) => some (.error (200 + n))
  | .error _ => none
/-- A two-word instruction at the pc. -/
def placedTwo : State := State.reset.withFetchWord 64 0x004240040FF00101
/-- An error at a byte of its words. -/
def spoilt (n : Nat) : State := { placedTwo with bad := [(cellKey .pkg n, false)] }
/-- StepRunsDecoded, FetchResults: a two-word instruction whole, with its second word outside the segment, and with an error at its last byte and beyond; the step drops
the fetch and makes it again (log 42). -/
theorem test_witness_two_words : isLong 0x0FF00101 = true ∧
    (match fetched placedTwo with | some (.ok i) => decide (i = .li64 w0 12 0x900100101) | _ => false) = true ∧
    (match fetched (placedTwo.onJob (fun j => { j with segs := j.segs.set 0 (0, 4) })) with | some (.error n) => n | _ => 0) = 3 ∧
    (match fetched (spoilt 0) with | some (.error n) => n | _ => 0) = 203 ∧
    (match fetched (spoilt 7) with | some (.error n) => n | _ => 0) = 203 ∧
    (match fetched (spoilt 8) with | some (.ok i) => decide (i = .li64 w0 12 0x900100101) | _ => false) = true ∧
    got (step { placedTwo with agenda := [⟨0, .issue .A, [(cellKey .pkg 7, false)]⟩] }) (fun t => (t.st.pc, t.job.errcnt)) = some (0, 1) := by
  refine ⟨?_, ?_, ?_, ?_, ?_, ?_, ?_⟩ <;> decide +kernel
/-- A running job, and one that has halted and holds its core. -/
theorem test_witness_has_job : base.hasJob ∧ ¬ (base.onJob (fun j => { j with phase := .halted })).hasJob ∧ ¬ State.reset.hasJob := by decide +kernel

/-- A job whose queue q0 goes from V to E and whose q1 goes from M to V. -/
def vbound : State := (at_ .V).onJob (fun j => { j with queues := (j.queues.set 1 ⟨some (.M, .V), []⟩).set 0 ⟨some (.V, .E), []⟩ })
/-- QueueAndSpillResults: a pop of a filled head, of an empty queue and of a head whose data has not come; a push on a full queue; queues
of other streams. -/
theorem test_witness_vector_queues :
    got (exec (.vpop w0 1 1 0) (filled 1 [5, 6] vbound)) (fun t => (t.vreg 1, (t.job.queue 1).entries.length)) = some (5, 1) ∧
    got (exec (.vpop w0 1 1 0) vbound) (·.st.blocked) = some (some .queue) ∧
    got (exec (.vpop w0 1 1 0) (vbound.onJob (fun j => j.setQueue 1 [⟨0, false⟩]))) (·.st.blocked) = some (some .queue) ∧
    got (exec (.vpush w0 1 0 0) (filled 0 [0, 0, 0] vbound)) (fun t => (t.job.queue 0).entries.length) = some 4 ∧
    got (exec (.vpush w0 1 0 0) (filled 0 [0, 0, 0, 0] vbound)) (·.st.blocked) = some (some .queue) ∧
    trapped (exec (.vpush w0 1 1 0) vbound) = some (2, false) ∧ trapped (exec (.vpop w0 1 0 0) vbound) = some (2, false) := by
  refine ⟨?_, ?_, ?_, ?_, ?_, ?_, ?_⟩ <;> decide +kernel

/-- A TREDST that has issued: whether its record is placed, and the Vat operation queue. -/
def redIssued (placed : Bool) (q : List Cmd) : State :=
  (reducing.onSt (fun t => { t with redAt := some (9, placed) })).onJob (fun j => { j with vqQ := q })
/-- VatQueueAndTinfoResults: a TREDST completes once its record is placed, or its command has ended, and else its stream waits; one whose
source has no entry is accepted and waits (R326; log 69). -/
theorem test_witness_red_waits : let after := fun (s : State) => got (exec reduce.instr s) (fun t => (t.st.redAt, t.st.pc, t.st.blocked, t.job.vqQ.length))
    after (redIssued true [{ reduce with id := 9 }]) = some (none, 4, none, 1) ∧
    after (redIssued false [{ reduce with id := 9 }]) = some (some (9, false), 0, some .engineQueue, 1) ∧
    after (redIssued false []) = some (none, 4, none, 0) ∧
    got (exec (.tredst w0 1 3 8 3 false) ((reducing.setTte (lttKey 0 0) 0).onSt (fun t => t.setCap 3 gcap0 true))) (fun t =>
      (t.st.redAt.map (·.2), t.st.pc, t.st.blocked, t.job.vqQ.length)) = some (some false, 0, some .engineQueue, 1) := by
  refine ⟨?_, ?_, ?_, ?_⟩ <;> decide +kernel

/-- A co-resident CLUSTER instance of two jobs: the last stream of the first is about to halt; the second is in a phase. -/
def coset (ph : LJobPhase) : State := (launched [{ waiting 1 .running 0 [⟨0, 0, 0, 1, .running⟩, ⟨0, 1, 1, 2, ph⟩] with
    words := ((List.replicate 32 0).set 0 0x48000000).set 4 0x0000000280000001 }]).onJob (fun j =>
  { j with launch := 1, scrlog := 5, m := { j.m with phase := .halted }, v := { j.v with phase := .halted }, e := { j.e with phase := .halted } })
/-- SafeRdvHaltResults: the halted job holds its core, with its scratch, until every job of its set has halted (R94; log 65). -/
theorem test_witness_halted_holds :
    ((coset .running).launch? 1).map (fun l => (l.unitLevel, l.perCore, l.sizeAt 0, l.share, l.stages)) = some (some 0, 1, 2, 2, 0) ∧
    got (exec (.halt w0) (coset .running)) (fun t => (t.job.uid, t.job.phase, t.job.scrlog, t.launches.map (fun l => l.jobs.map (·.phase)))) =
      some (1, .halted, 5, [[.halted, .running]]) ∧
    got (exec (.halt w0) (coset .halted)) (fun t => (t.job.uid, t.job.phase, t.launches.map (·.state))) = some (0, .idle, [.ended]) := by
  refine ⟨?_, ?_, ?_⟩ <;> decide +kernel

/-- MarkAndJoinResults: an ordered atomic and a TFILL have read what they use at acceptance; a TLD has not (R318; log 38). -/
theorem test_witness_captured_only : let s := fun (j : Job → Job) (q : MarkQueue) => (base.onJob j).onSt (fun t =>
      { t with markers := [⟨q, [0], [], .core, false⟩] })
    let after := fun (s : State) => got (exec (.markerHead 0) s) (fun u => u.job.a.markers.map (·.atHead))
    after (s (fun j => { j with vqQ := [cmd (.amoadd w0 .ord 3 1 2) 0 0] }) .vq) = some [true] ∧
    after (s (fun j => { j with ceQ := [cmd (.tfill w0 1 8 3 false .zero) 0 0] }) .ce) = some [true] ∧
    after (s (fun j => { j with ceQ := [cmd (.tld w0 1 2 9 3 false) 0 0] }) .ce) = some [false] := by
  refine ⟨?_, ?_, ?_⟩ <;> decide +kernel

/-- PageWalk: an error at the first and the last byte of an entry that the walk reads, and one beside it. -/
def walkBad (k : Nat) : Nat :=
  match translate { tables with bad := [(cellKey .pkg k, false)] } 0x55 false 0x4000000000 0 with
  | .ok (p, _) => p.pa | .error (.post n) => n | .error _ => 0
theorem test_witness_walk_dropped : walkBad 0x202800 = 3 ∧ walkBad 0x202807 = 3 ∧ walkBad 0x202808 = 0x10000000 ∧ walkBad 0x0FFFF000 = 3 := by
  refine ⟨?_, ?_, ?_, ?_⟩ <;> decide +kernel

/-- HostWindowResults: a record with an error at its last byte and beside it (log 42); a place inside the torus and outside it. -/
theorem test_witness_host_bounds : let words := fun (k : Nat) => got (exec (.submit 0x207) { launched [] with bad := [(cellKey .host k, false)] }) (fun t =>
      t.launches.map (fun l => (l.tag, l.words.length)))
    let place := fun (x : Nat) => got (exec (.boot ⟨false, 0, 3, 4, 1, 1, x, 0, 0, 1000, [], true⟩) State.reset) (fun t => (t.booted, t.coords))
    words 0x2FF = some [(some 7, 0)] ∧ words 0x300 = some [(some 7, 32)] ∧
    place 3 = some (true, 3, 0, 0) ∧ place 4 = some (false, 0, 0, 0) := by refine ⟨?_, ?_, ?_, ?_⟩ <;> decide +kernel

/-- LaunchesAndDispatch: routes of a grant that spans the ring leave in both directions; of one that does not, toward its packages (R101). -/
theorem test_witness_groups : let l := fun (w : Word) => { waiting 1 .routing 0 [] with words := [0, 0, w] ++ List.replicate 29 0 }
    let s := fun (n x : Nat) => { base with torus := (n, 1, 1), coords := (x, 0, 0) }
    (l 0x1000000000000).groupsUsed (s 2 0) = [0, 1] ∧ (l 0x1000000000000).groupsUsed (s 4 0) = [0] ∧
    (l 0x1000000000000).groupsUsed (s 4 1) = [1] ∧ (l 0x2000000000000).groupsUsed (s 4 1) = [0, 1] ∧
    (l 0x3001000000000000).groupsUsed (s 4 0) = [1] ∧ (l 0x1000000000000).groupsUsed (s 4 2) = [] := by decide +kernel
/-- R101: inside a box that does not span its ring a route keeps to the box, the long way round too; on equal lengths of a ring +. -/
theorem test_witness_routes : let l := fun (w : Word) => { waiting 1 .running 0 [] with words := [0, 0, w] ++ List.replicate 29 0 }
    let first := fun (w : Word) (n x y : Nat) => (l w).firstGroup (n, 1, 1) (x, 0, 0) (y, 0, 0)
    first 0x2000000000000 4 0 2 = some 0 ∧ first 0x2000000000000 4 2 0 = some 1 ∧ first 0x3000000000000 4 0 3 = some 1 ∧
    first 0x3000000000000 4 0 2 = some 0 ∧ first 0x3000000000000 4 2 2 = none ∧ first 0x6000000000000 8 0 6 = some 0 := by decide +kernel

/-- OutsideAccesses: a peer's request carries floors between the die of its port and the home of its bytes (R338). -/
theorem test_witness_peer_floors : portDie 47 = 3 ∧ homeOfKey (cellKey .vat (0x10 * 512 + 4088)) = some 0 ∧
    got (exec (.peerRequest 0x21 5 ⟨47, .write 4088 [1, 2]⟩) (outer.onDie 3 (fun d => { d with floorPkg := 50 }))) (fun t =>
      t.dies.toList.map (·.floorPkg)) = some [50, 0, 0, 50] := by refine ⟨?_, ?_, ?_⟩ <;> decide +kernel
/-- A read that fails holds no writes of its agent any more; the holds of others stand (R329). -/
theorem test_witness_failed_read_lets_go : got (exec (.tileApertureRead 0 4) { outer with
      host := { outer.host with tapsel := 0x0021000000000009 }
      aonHolds := [(gttKey 1, agentHold 0), (gttKey 1, 5)] }) (fun t => (t.host.answer, t.aonHolds)) = some (none, [(gttKey 1, 5)]) := by
  decide +kernel
/-- EngineThreadResults: the home holds the writes of a row-scale tile that an MMA reads (R329). -/
theorem test_witness_row_scale_hold : let s := (((tilesIn base).setTte (lttKey 0 0) (stored 0x10 ||| 0x100000000 ||| BitVec.ofNat 512 (2 ^ 192))).setTte
      (lttKey 0 1) (stored 0x20 ||| 0x800000000)).onJob (fun j => { j with mxQ := [{ cmd (.mma w0 .acc0 1 2 0 3 false false false false false) 0 0 with
        id := 6, capA := only 0, capB := only 0 }] })
    got (exec (.aonWriteHold 0) s) (fun t => t.aonHolds) = some [(lttKey 0 1, 6)] := by decide +kernel
/-- OrderedBatchResults: a peer package's member that meets an error counts in CORRUPT of its importer (R393). -/
theorem test_witness_peer_member : (endReq ⟨0, 0x21, cmd (.amoadd w0 .ord 3 1 2) 0 0, 5, 0x100, 8⟩ 3 { base with owners := [owner 0x21, owner 0] }).owners.map
    (fun o => (o.id, o.corrupt)) = [(0x21, 1), (0, 0)] := by decide +kernel
/-- FabricEvents: a failed tag cuts the transfers of its owner, and not those of another. -/
theorem test_witness_tag_cuts : let s := fun (o : BitVec 16) => ({ base with owners := [{ owner 0x21 with key0 := some 7 }] }.onPort 0 (fun p =>
      { p with up := true, groups := [⟨0x21, List.replicate 17 (flitOf 0 5)⟩] })).onJob (fun j => { j with owner := o, ceQ := [cmd (.tld w0 1 2 9 3 false) 1 0] })
    let after := fun (o : BitVec 16) => got (exec (.tagFlit 0 0x21 false ⟨1, [0]⟩) (s o)) (fun t => (t.owners.map (·.tagErr), t.job.ceQ.map (·.cut)))
    after 0x21 = some ([1], [true]) ∧ after 0x22 = some ([1], [false]) := by refine ⟨?_, ?_⟩ <;> decide +kernel

/-- VectorFloatResults: a special function of an FP32 operand, rounded to the nearest. -/
def specially (f : SpecialFn) (b : Nat) : Nat × FFlags := specialLane f .fp32 rneCtx 0 b
/-- Exact values: the reciprocal of 3, roots of 4, 2 to the 3, the logarithm of 8, and the values at 0, −1 and the infinities (R273). -/
theorem test_special_exact : specially .rcp 0x40400000 = (0x3EAAAAAB, ⟨false, false, false, true⟩) ∧ specially .sqrt 0x40800000 = (0x40000000, .none) ∧
    specially .rsq 0x40800000 = (0x3F000000, .none) ∧ specially .exp2 0x40400000 = (0x41000000, .none) ∧
    specially .log2 0x41000000 = (0x40400000, .none) ∧ specially .tanh 0x7F800000 = (0x3F800000, .none) ∧ specially .sigm 0 = (0x3F000000, .none) ∧
    specially .rcp 0 = (0x7F800000, ⟨false, true, false, false⟩) ∧ specially .sqrt 0xBF800000 = (0x7FC00000, ⟨true, false, false, false⟩) := by
  refine ⟨?_, ?_, ?_, ?_, ?_, ?_, ?_, ?_, ?_⟩ <;> decide +kernel
/-- Irrational values: roots of 2, 2 to the ±1,024, and the tails of VTANH and VSIGM, which the enclosures decide. -/
theorem test_special_enclosed : specially .sqrt 0x40000000 = (0x3FB504F3, ⟨false, false, false, true⟩) ∧
    specially .rsq 0x40000000 = (0x3F3504F3, ⟨false, false, false, true⟩) ∧ specially .exp2 0x44800000 = (0x7F800000, ⟨false, true, false, true⟩) ∧
    specially .exp2 0xC4800000 = (0, ⟨false, false, false, true⟩) ∧ specially .tanh 0x2B800000 = (0x2B800000, ⟨false, false, false, true⟩) ∧
    specially .tanh 0x43480000 = (0x3F800000, ⟨false, false, false, true⟩) ∧ specially .sigm 0xC4160000 = (0, ⟨false, false, false, true⟩) := by
  refine ⟨?_, ?_, ?_, ?_, ?_, ?_, ?_⟩ <;> decide +kernel

/-! ## Witnesses of placement, dropped transfers, holds and visibility -/

/-- A gang of eight jobs in one cluster of one die (levels DIE 1, CLUSTER 1, JOB 8). -/
def gang8 : Launch := launchOf (((List.replicate 32 0).set 0 (BitVec.ofNat 64 (2 ^ 40 + 3 * 2 ^ 26))).set 4 (BitVec.ofNat 64 (3 * 2 ^ 29 + 1 + 2 ^ 32 * (4 * 2 ^ 29 + 1)))
  |>.set 5 8) none none 0 [0] 0 0
/-- Eight free cores lie scattered over the clusters of die 0; cluster 9, of die 1, is free whole: the gang goes there (R107). -/
theorem test_witness_placement : let whole := (List.range 8).map (fun n => n + State.reset.clusterStart 9)
    let free := (List.range 6).map State.reset.clusterStart ++ [1, 2] ++ whole
    (free.filter (fun c => State.reset.dieOf c == 0)).length = 8 ∧
    (gang8.place State.reset (gang8.unit 0) free []).map (fun p => p.1.map (·.2)) = some whole := by
  refine ⟨?_, ?_⟩ <;> decide +kernel
/-- LaunchesAndDispatch: a set whose image passes its check, and one whose does not (R378). -/
theorem test_witness_image_check : let s := fun (bad : List (Nat × Bool)) => { idleWith .running [⟨0, 0, 0, 1, .preempted⟩] with
      saved := [({ Job.reset 0 with uid := 1, launch := 1, phase := .loaded }, [])], bad := bad }
    got (exec (.resume 1) (s [])) (fun t => (t.job.uid, t.job.phase, t.launches.map (·.state))) = some (1, .running, [.running]) ∧
    got (exec (.resume 1) (s [(2 ^ 80 + 2 ^ 16 + 65535, false)])) (fun t => (t.job.uid, t.launches.map (fun l => (l.state, l.status, l.trap)))) =
      some (0, [(.ended, 5, 0x12)]) := by refine ⟨?_, ?_⟩ <;> decide +kernel
/-- LaunchesAndDispatch: a package outside the box of a grant of two: it loads no table, runs no job, and starts with the grant (R101). -/
theorem test_witness_outside_box : let l := { waiting 1 .waiting 0 [] with words := ((List.replicate 32 0).set 0 0x20C000000).set 2 0x1000000000000 }
    let at_ := fun (x : Nat) => (State.newLaunch { base with torus := (4, 1, 1), coords := (x, 0, 0) } l false).launches.map (·.here)
    let away := { routed with launches := routed.launches.map (fun l => { l with here := false }) }
    at_ 1 = [true] ∧ at_ 2 = [false] ∧
    got (exec .dispatch away) (fun t => (t.launches.map (fun l => (l.state, l.share)), t.fabric.routes)) = some ([(.routing, 0)], []) ∧
    got (exec (.grantRelease ⟨1, .loaded⟩) { away with launches := away.launches.map (fun l => { l with state := .loading }) }) (fun t =>
      t.launches.map (·.state)) = some [.running] := by refine ⟨?_, ?_, ?_, ?_⟩ <;> decide +kernel
/-- EngineThreadResults: a command behind one of its party holds nothing; a TLDAS that must wait lets go of the writes that it held (R329). -/
theorem test_witness_hold_ends : let s := tabled 1 (inVat 0x40 ||| 0x800000000) base
    let c := fun (id : Nat) => { cmd (.tcopy w0 1 2 9 3 false) 0x100000000 0 with id := id, capA := gcap0 }
    let held := fun (n : Nat) => got (exec (.aonWriteHold n) (queued [c 5, c 6] s)) (·.aonHolds)
    let waits := { (committing []).onJob (fun j => { j with ceQ := [{ cmd (.tldas w0 3 2 8 2 false .pkg) 0x100000001 50 with id := 4, capA := gcap0 }] }) with
      aonHolds := [(gttKey 1, 4), (gttKey 1, 7)] }
    held 0 = some [(gttKey 1, 5)] ∧ held 1 = some [] ∧
    got (exec (.copyEngineCompletion 0) waits) (fun t => (t.aonHolds, t.job.ceQ.length)) = some ([(gttKey 1, 7)], 1) := by
  refine ⟨?_, ?_, ?_⟩ <;> decide +kernel
/-- A read of RAW blocks alone uses no press table, so an error in its slot drops nothing (R78, R394). -/
theorem test_raw_blocks_need_no_table : let t := ((stored 0x10).put 0 36 1 1).setPlens [63, 9]
    let c := (tabled 1 t base).job.tctx
    let s := { base with bad := [(((pressPlaces base c t.ptab).head?.map (·.1)).getD 0 + 7, false)] }
    (match tableOfBlocks s c t [0], tableOfBlocks s c t [0, 1] with | .ok _, .error (.post 3) => true | _, _ => false) = true := by decide +kernel
/-- A tile-mode VLD and VST carry the bytes of the elements that they reach: an error elsewhere in the tile drops nothing (R231, R234). -/
theorem test_reached_bytes : let s := fun (k : Nat) => { (withRegs (tilesIn (tiled .V)) [(8, 0)]).setVreg 5 (vec 32 [7, 8]) with
      bad := [(cellKey .scratch (0x10 * 512 + k), false)] }
    got (exec (.vld w0 1 8 8 0 true false) (s 16)) (fun t => (lanes 32 2 (t.vreg 1), t.job.errcnt)) = some ([0x3F800000, 0x40000000], 0) ∧
    got (exec (.vld w0 1 8 8 0 true false) (s 15)) (fun t => (lanes 32 2 (t.vreg 1), t.job.errcnt)) = some ([0, 0], 1) ∧
    got (exec (.vst w0 5 8 8 0 true false) (s 16)) (fun t => (memRead t.mem (cellKey .scratch (0x10 * 512)) 4, t.job.errcnt)) =
      some ([7, 0, 0, 0], 0) := by refine ⟨?_, ?_, ?_⟩ <;> decide +kernel
/-- A version of a die's domain that is visible becomes current past an older one of the package's that is not (R343, R347); TLDAS sees a
pending version as of its stamp (R349). -/
theorem test_versions_by_scope : let k := cellKey .vat 0x4000
    let v := fun (stamp : Word) (d : Domain) => (⟨k, 0, 0, .pending, entry (2 ^ 61 + 3 * 2 ^ 41 + 2 * 2 ^ 38 + 2 ^ 27) (0x40 * 2 ^ 24) 1, stamp, 4, d, none⟩ : TileVer)
    let s := { versionAt 0 with tileVers := [v 5 .pkg, v 6 (.die 0)] }.onDie 0 (fun d => { d with earliest := 7 })
    s.newestSeen (homeWho 0 0) 0 k = some 6 ∧ s.tileVers.map (s.finds (homeWho 0 0) 0) = [false, true] ∧
    (match versionAsOf (versionAt 0) k 9, versionAsOf (versionAt 0) k 8 with | .ok x, .ok y => (x.kind, y.kind) | _, _ => (9, 9)) = (1, 0) := by
  refine ⟨?_, ?_, ?_⟩ <;> decide +kernel
/-- VersionBecomesCurrent, FaultRing, CultureAndTokenResults: the record of the Cave, a fault entry and a header that meet an error are
counted, and nothing else happens (R393, R394; log 42). -/
theorem test_witness_counted : let k := cellKey .vat 0x4000
    let own := fun (s : State) (k : Nat) => { s with owners := [owner 0], bad := [(k, false)] }
    let key := cellKey .vat (0x40 * 512 + ((versionAt 10).tte k).backLen)
    got (exec (.versionCurrent k) (own (versionAt 10) (key + 63))) (fun t => (t.tileVers.length, t.owners.map (·.corrupt))) = some (1, [1]) ∧
    got (exec (.faultEntryWrite 0) (own (ringState 0x3F) (cellKey .vat (0x20000 + 32 * 0x40 - 1)))) (fun t =>
      (t.dies[0].waiting.length, t.owners.map (·.corrupt))) = some (1, [1]) ∧
    got (exec (.qcfg w0 3) (own dirs (cellKey .pkg 0x407))) (fun t => (t.st.blocked, t.job.errcnt, t.owners.map (·.corrupt))) =
      some (some .engineQueue, 1, [1]) := by refine ⟨?_, ?_, ?_⟩ <;> decide +kernel
/-- A block that a failed command gives back is lost where its link or its pool's descriptor has an error, and that is counted (R394). -/
theorem test_lost_block : let c := { cmd (.tcommit w0 1 2 8 3 false .pkg) 0 0 with ver := some (0, none, [(cellKey .vat 0x100, cellKey .vat 0x400, 2)]) }
    let after := fun (k : Nat) => let t := { base with owners := [owner 0], bad := [(cellKey .vat k, false)] }.giveBack 0 c
      (t.load (cellKey .vat 0x100) 5, t.owners.map (·.corrupt))
    after 0x408 = (2, [0]) ∧ after 0x407 = (0, [1]) ∧ after 0x117 = (0, [1]) := by refine ⟨?_, ?_, ?_⟩ <;> decide +kernel
/-- The promotion of a REPEAT writes a PEER tile under the same checks as any write, and drops at an error of its destination (R391, R394). -/
theorem test_promoted_repeat : let target := entry (3 * 2 ^ 41 + 2 * 2 ^ 38 + 2 ^ 27) (0x20 * 2 ^ 24) 2
    let s := fun (tier : Nat) =>
      (tabled 1 (entry (5 * 2 ^ 61 + 3 * 2 ^ 41 + tier * 2 ^ 38 + 2 ^ 27) (0x40 * 2 ^ 24) 0) base).setTte (gttKey 0) target
    let end_ := fun (s : State) => match promote s.job.tctx 1 (gttKey 1) s with | .ok t => (t.tte (gttKey 1)).kind | .error (.post st) => 100 + st | _ => 99
    end_ (s 2) = 0 ∧ end_ (s 5) = 106 ∧ end_ { s 2 with bad := [(cellKey .vat (0x40 * 512), false)] } = 103 := by
  refine ⟨?_, ?_, ?_⟩ <;> decide +kernel
/-- OrderedBatchResults: an OBOPEN reaches die 1 with the floors of its job's die (R338). -/
theorem test_witness_open_floors : let c := { opener with pa := 2 ^ 29, x := 0, y := 0x0000000100000040, tier := .vat, room := 64 }
    got (exec (.orderedRequestArrival 0) ((base.onJob (fun j => { j with vqQ := [c] })).onDie 0 (fun d => { d with floorPkg := 50 }))) (fun t =>
      (t.dies[1].batches.length, t.dies[1].floorPkg)) = some (1, 50) := by decide +kernel

end Sys2Proof.Tests
end

/-!
PROOFS. Counted loops: what LOOP and ENDL do to their counts, the stage predicates and the rotation state, and the statement
LoopAndRotationResults (spec/08_scalar_and_control.md R177, R178; spec/06_streams_and_words.md R134, R135, R137).
-/

namespace Sys2Proof.Machine

/-! ## The pc of a loop instruction -/

/-- A word offset counts from the instruction's own address (R171), which the pc has passed by one word. -/
theorem target_next {n : Nat} (pc : VA) (off : BitVec n) :
    target (pc + 4#57) off = BitVec.ofInt 57 (pc.toNat + 4 * off.toInt) := by
  have hoff : off.signExtend 57 = BitVec.ofInt 57 off.toInt := rfl
  calc target (pc + 4#57) off = pc + 4#57 - 4#57 + off.signExtend 57 * 4#57 := rfl
    _ = pc + 4#57 * BitVec.ofInt 57 off.toInt := by rw [BitVec.add_sub_cancel, hoff, BitVec.mul_comm]
    _ = BitVec.ofInt 57 (pc.toNat + 4 * off.toInt) := by rw [BitVec.ofInt_add, BitVec.ofInt_mul]; simp

/-- A jump from a state whose pc has passed the instruction's one word (R171). -/
theorem State.jumpIf_next {n : Nat} (s : State) (pc : VA) (c : Bool) (off : BitVec n) (h : s.st.pc = pc + 4#57) :
    s.jumpIf c off = if c then s.setPc (BitVec.ofInt 57 (pc.toNat + 4 * off.toInt)) else s := by
  rw [State.jumpIf, h, target_next]

/-! ## Rotation of the base and the live bits (R134, R135) -/

/-- A vector packed from bits reads back bit by bit. -/
theorem getLsbD_packedBits (n : Nat) (f : Nat → Bool) (m : Nat) (h : m < n) :
    (BitVec.ofNat n (packNat 1 ((List.range n).map (fun i => if f i then 1 else 0)))).getLsbD m = f m := by
  have hlt := packNat_lt 1 ((List.range n).map (fun i => if f i then 1 else 0))
  have hdigit := packNat_digit 1 ((List.range n).map (fun i => if f i then 1 else 0)) m
  simp only [List.length_map, List.length_range, Nat.one_mul, Nat.pow_one] at hlt hdigit
  rw [BitVec.getLsbD, BitVec.toNat_ofNat, Nat.mod_eq_of_lt hlt, Nat.testBit_eq_decide_div_mod_eq, hdigit]
  cases hf : f m <;> simp [h, hf]

/-- At most 16 slots rotate (R134). -/
theorem Job.rot_le (j : Job) : j.rot ≤ 16 := by
  unfold Job.rot rotSize
  split <;> decide

/-- The base moves down by one, modulo the number of slots. -/
theorem Job.rotate_rbase (j : Job) (h : j.rot ≠ 0) : j.rotate.rbase.toNat = (j.rbase.toNat + j.rot - 1) % j.rot := by
  have hlt := Nat.mod_lt (j.rbase.toNat + j.rot - 1) (Nat.pos_of_ne_zero h)
  have hle := j.rot_le
  exact (BitVec.toNat_ofNat _ _).trans (Nat.mod_eq_of_lt (by omega))

/-- A slot stays live where its distance from the new base is below the live depth. -/
theorem Job.rotate_slotLive (j : Job) (p : Nat) (hp : p < j.rot) :
    j.rotate.slotLive.getLsbD p =
      (j.slotLive.getLsbD p && decide ((p + j.rot - j.rotate.rbase.toNat) % j.rot < j.rlive.toNat)) := by
  have h16 := j.rot_le
  rw [j.rotate_rbase (by omega), Job.rotate, getLsbD_packedBits _ _ _ (by omega)]
  simp [Nat.not_le.mpr hp]

/-! ## Stages and counts (R137, R178) -/

/-- A loop instruction moves the rotation state in the V stream of a job that has rotating slots. -/
theorem Job.rotates_iff (j : Job) (x : StreamId) : j.rotates x = true ↔ x = .V ∧ j.rsize ≠ 0 := by
  simp [Job.rotates]

/-- The stages move up by one register, whatever else of the job has changed. -/
theorem Job.shiftStages_eq (j k : Job) (b : Bool) (h : j.pregs = k.pregs) :
    j.shiftStages b = (((j.setPred 7 (k.pred 6)).setPred 6 (k.pred 5)).setPred 5 (k.pred 4)).setPred 4
      (if b then BitVec.allOnes 512 else 0) := by
  simp only [Job.shiftStages, Job.pred, h]

/-- A count less one as a number, where it has not run out. -/
theorem ofNat_pred {n : Nat} (x : BitVec n) (h : x ≠ 0) : BitVec.ofNat n (x.toNat - 1) = x - 1 := by
  have hx : 1 ≤ x.toNat := Nat.pos_of_ne_zero fun e => h (BitVec.eq_of_toNat_eq (by simpa using e))
  refine BitVec.eq_sub_iff_add_eq.mpr ?_
  calc BitVec.ofNat n (x.toNat - 1) + 1#n = BitVec.ofNat n (x.toNat - 1 + 1) := (BitVec.ofNat_add _ _).symm
    _ = x := by rw [Nat.sub_add_cancel hx]; simp

/-- A stream whose loop counts are set from numbers. -/
def Stream.setCounts (t : Stream) (k e : Nat) : Stream := { t with kern := BitVec.ofNat 32 k, epi := BitVec.ofNat 6 e }
@[simp] theorem Stream.setCounts_kern (t : Stream) (k e : Nat) : (t.setCounts k e).kern = BitVec.ofNat 32 k := rfl
@[simp] theorem Stream.setCounts_epi (t : Stream) (k e : Nat) : (t.setCounts k e).epi = BitVec.ofNat 6 e := rfl
@[simp] theorem Stream.setCounts_pc (t : Stream) (k e : Nat) : (t.setCounts k e).pc = t.pc := rfl

/-- The counts of ENDL as numbers: the kernel's runs down first, and the epilogue's after it. -/
theorem Stream.countDown_eq (t : Stream) :
    (if t.kern ≠ 0 then { t with kern := t.kern - 1 } else if t.epi ≠ 0 then { t with epi := t.epi - 1 } else t) =
      t.setCounts (t.kern.toNat - 1) (if t.kern.toNat = 0 then t.epi.toNat - 1 else t.epi.toNat) := by
  have hkern : t.kern.toNat = 0 ↔ t.kern = 0 := (BitVec.toNat_eq (y := 0#32)).symm
  rw [Stream.setCounts]
  by_cases hk : t.kern = 0
  · by_cases he : t.epi = 0
    · cases t
      simp_all
    · cases t
      simp_all [ofNat_pred _ he]
  · simp only [ne_eq, hkern, hk, not_false_eq_true, if_true, if_false, ofNat_pred _ hk, BitVec.ofNat_toNat, BitVec.setWidth_eq]

/-- A count that has been set from a number in its range is zero exactly if the number is. -/
theorem ofNat_bne_zero {n : Nat} (x : Nat) (h : x < 2 ^ n) : (BitVec.ofNat n x != 0) = decide (0 < x) := by
  have hx : BitVec.ofNat n x = 0#n ↔ x = 0 := by
    rw [BitVec.toNat_eq, BitVec.toNat_ofNat, Nat.mod_eq_of_lt h]; simp
  rw [Bool.eq_iff_iff, bne_iff_ne, decide_eq_true_iff, Nat.pos_iff_ne_zero]
  exact not_congr hx

/-- Two changes of the job in focus, one after the other. -/
theorem State.onJob_onJob (s : State) (f g : Job → Job) : (s.onJob f).onJob g = s.onJob (fun j => g (f j)) := rfl

/-- LOOP's stages, one predicate register after the other. -/
theorem State.onJob_startStages (s : State) : s.onJob Job.startStages =
    (((s.setPred 4 (BitVec.allOnes 512)).setPred 5 0).setPred 6 0).setPred 7 0 := by
  simp only [State.setPred, State.onJob_onJob]
  exact congrArg s.onJob (funext fun j => by rw [Job.startStages])

/-- ENDL's rotation, one predicate register after the other: the stages take what the state before the instruction holds
(R137). -/
theorem State.onJob_rotate_shiftStages (s u : State) (b : Bool) (h : u.job.pregs = s.job.pregs) :
    u.onJob (fun j => j.rotate.shiftStages b) =
      ((((u.onJob Job.rotate).setPred 7 (s.pred 6)).setPred 6 (s.pred 5)).setPred 5 (s.pred 4)).setPred 4
        (if b then BitVec.allOnes 512 else 0) := by
  simp only [State.setPred, State.onJob_onJob, State.pred]
  simp only [State.onJob, Job.shiftStages_eq u.job.rotate s.job b h]

/-- The stages are no part of a stream. -/
@[simp] theorem Job.stream_setPred (j : Job) (k : KReg) (x : PredReg) (y : StreamId) : (j.setPred k x).stream y = j.stream y := by
  unfold Job.setPred
  split
  · rfl
  · cases y <;> rfl

/-- Rotation leaves the streams as they were. -/
@[simp] theorem Job.stream_rotate (j : Job) (y : StreamId) : j.rotate.stream y = j.stream y := by cases y <;> rfl

/-- Rotation and the move of the stages leave the stream in focus as it was. -/
theorem State.st_rotate_shiftStages (u : State) (b : Bool) : (u.onJob (fun j => j.rotate.shiftStages b)).st = u.st := by
  simp [State.st, Job.shiftStages]

/-- What a change of the stream in focus gives depends on the stream in focus alone. -/
theorem State.onSt_congr (s : State) (f g : Stream → Stream) (h : f s.st = g s.st) : s.onSt f = s.onSt g :=
  congrArg s.setSt h

/-! ## The two instructions -/

/-- LOOP with no kernel passes skips the loop and leaves its counts (R177). -/
theorem exec_loop_skips (w : Wheel) (a : SReg) (off : BitVec 14) (s : State) (h : s.canStart w (regBit a) = true)
    (hz : (s.reg a).toNat % 2 ^ 32 = 0) :
    exec (.loop w a off) s = s.does w 1 (·.setPc (BitVec.ofInt 57 (s.st.pc.toNat + 4 * off.toInt))) := by
  have hb : bits (s.reg a) 0 32 = 0 := by simpa [bits] using hz
  rw [exec_loop, execLoop]
  refine issue_does w 1 _ _ _ s _ h rfl ?_
  simp [hb, State.jumpIf, target_next]

/-- LOOP with kernel passes sets the counts and, where it rotates, the stages (R177). -/
theorem exec_loop_enters (w : Wheel) (a : SReg) (off : BitVec 14) (s : State) (h : s.canStart w (regBit a) = true)
    (hz : (s.reg a).toNat % 2 ^ 32 ≠ 0) :
    exec (.loop w a off) s = s.does w 1 (fun u =>
      let u := u.onSt (fun t => { t with kern := (s.reg a).extractLsb' 0 32, epi := (s.reg a).extractLsb' 32 6 })
      if s.cur = .V ∧ s.job.rsize ≠ 0 then
        (((u.setPred 4 (BitVec.allOnes 512)).setPred 5 0).setPred 6 0).setPred 7 0
      else u) := by
  have hb : bits (s.reg a) 0 32 ≠ 0 := by simpa [bits] using hz
  rw [exec_loop, execLoop]
  refine issue_does w 1 _ _ _ s _ h rfl ?_
  simp only [State.started_reg, hb, if_false, Job.rotates_iff, State.onJob_startStages, State.onSt_cur, State.onSt_job,
    State.started_cur, State.started_job_rsize, Job.setStream_rsize]

/-- ENDL counts down, rotates where it may, and goes back while either count is left (R137, R178). -/
theorem exec_endl_passes (w : Wheel) (off : BitVec 14) (s : State) (h : s.canStart w 0 = true) :
    let k := s.st.kern.toNat - 1
    let e := if s.st.kern.toNat = 0 then s.st.epi.toNat - 1 else s.st.epi.toNat
    exec (.endl w off) s = s.does w 1 (fun u =>
      let u := u.onSt (·.setCounts k e)
      let u := if s.cur = .V ∧ s.job.rsize ≠ 0 then
          let u := u.onJob Job.rotate
          (((u.setPred 7 (s.pred 6)).setPred 6 (s.pred 5)).setPred 5 (s.pred 4)).setPred 4
            (if 0 < k then BitVec.allOnes 512 else 0)
        else u
      if 0 < k + e then u.setPc (BitVec.ofInt 57 (s.st.pc.toNat + 4 * off.toInt)) else u) := by
  intro k e
  have hk : k < 2 ^ 32 := by omega
  have he : e < 2 ^ 6 := by
    have hepi := s.st.epi.isLt
    unfold e
    split <;> omega
  have hcount : (s.started w 1).onSt (fun t =>
      t.setCounts (t.kern.toNat - 1) (if t.kern.toNat = 0 then t.epi.toNat - 1 else t.epi.toNat)) =
        (s.started w 1).onSt (·.setCounts k e) := State.onSt_congr _ _ _ (by simp only [State.started_st, k, e])
  rw [exec_endl, execEndl]
  refine issue_does w 1 _ _ _ s _ h rfl ?_
  simp only [Stream.countDown_eq, hcount]
  generalize hu : (s.started w 1).onSt (·.setCounts k e) = u
  have hkern : (u.st.kern != 0) = decide (0 < k) := by subst hu; simpa using ofNat_bne_zero k hk
  have hepi : (u.st.epi != 0) = decide (0 < e) := by subst hu; simpa using ofNat_bne_zero e he
  have hrotates : u.job.rotates u.cur = true ↔ s.cur = .V ∧ s.job.rsize ≠ 0 := by subst hu; simp [Job.rotates_iff]
  have hpregs : u.job.pregs = s.job.pregs := by subst hu; simp
  have hpc : u.st.pc = s.st.pc + 4#57 := by subst hu; simp
  have hmore : (decide (0 < k) || decide (0 < e)) = true ↔ 0 < k + e := by
    rw [Bool.or_eq_true, decide_eq_true_iff, decide_eq_true_iff]
    omega
  simp only [hkern, hepi, hrotates]
  by_cases hr : s.cur = .V ∧ s.job.rsize ≠ 0
  · have hpc' : (u.onJob (fun j => j.rotate.shiftStages (decide (0 < k)))).st.pc = s.st.pc + 4#57 := by
      rw [State.st_rotate_shiftStages, hpc]
    rw [if_pos hr, if_pos hr, State.jumpIf_next _ _ _ _ hpc', State.onJob_rotate_shiftStages s u _ hpregs]
    simp only [hmore, decide_eq_true_eq]
  · simp only [hr, if_false, State.jumpIf_next _ _ _ _ hpc, hmore]

/-- Settles O6: LOOP by whether its kernel count is zero, ENDL in one case, and the fields of a rotated job. -/
theorem loopAndRotationResults : Obligations.LoopAndRotationResults := by
  unfold Obligations.LoopAndRotationResults
  refine ⟨fun w a off s => ⟨fun h => ?_, exec_endl_passes w off s⟩, fun j p hj hp => ?_⟩
  · by_cases hz : (s.reg a).toNat % 2 ^ 32 = 0
    · rw [if_pos hz, exec_loop_skips w a off s h hz]
    · rw [if_neg hz, exec_loop_enters w a off s h hz]
  · refine ⟨j.rotate_rbase hj, ?_, rfl, rfl, rfl, rfl⟩
    rw [j.rotate_slotLive p hp, Bool.and_eq_true, decide_eq_true_iff]

end Sys2Proof.Machine

/-!
PROOFS. The scalar ALU: what each function of major 0x01 gives on exact integers, and the statement ScalarResults
(spec/08_scalar_and_control.md R167, R168; spec/02_numbers.md R42).
-/

namespace Sys2Proof.Machine

/-! ## Sums, differences and products (R42) -/

/-- A word is the number that it holds, unsigned. -/
theorem ofNat_toNat_word (z : Word) : BitVec.ofNat 64 z.toNat = z := by
  rw [BitVec.ofNat_toNat, BitVec.setWidth_eq]

/-- A product of words is the exact product, narrowed. -/
theorem mul_eq_ofNat (x y : Word) : x * y = BitVec.ofNat 64 (x.toNat * y.toNat) := by
  rw [BitVec.ofNat_mul, ofNat_toNat_word, ofNat_toNat_word]

/-- A difference of words is the exact signed difference, narrowed. -/
theorem sub_eq_ofInt (x y : Word) : x - y = BitVec.ofInt 64 (x.toInt - y.toInt) :=
  BitVec.eq_of_toInt_eq (by rw [BitVec.toInt_sub, BitVec.toInt_ofInt])

/-- The upper half of a 128-bit number is its quotient by 2^64. -/
theorem high_half_nat (z : BitVec 128) : z.extractLsb' 64 64 = BitVec.ofNat 64 (z.toNat / 2 ^ 64) := by
  rw [BitVec.extractLsb', Nat.shiftRight_eq_div_pow]

/-- MULHN is the upper half of the exact natural product, which 128 bits hold. -/
theorem mulHighN_eq (x y : Word) : mulHighN x y = BitVec.ofNat 64 (x.toNat * y.toNat / 2 ^ 64) := by
  have hprod : x.toNat * y.toNat < 2 ^ 128 :=
    Nat.lt_of_lt_of_eq (Nat.mul_lt_mul'' x.isLt y.isLt) (Nat.pow_add 2 64 64).symm
  rw [mulHighN, high_half_nat, BitVec.toNat_mul, BitVec.toNat_setWidth_of_le (by decide),
    BitVec.toNat_setWidth_of_le (by decide), Nat.mod_eq_of_lt hprod]

/-! ## Quotients and remainders (R42) -/

/-- DIV truncates the exact quotient, and gives −1 for divisor 0. -/
theorem divS_eq (x y : Word) :
    divS x y = if y = 0 then BitVec.ofInt 64 (-1) else BitVec.ofInt 64 (x.toInt.tdiv y.toInt) := by
  rw [divS, sdiv_eq]
  rfl

/-- DIVN is the exact natural quotient, and gives 2^64 − 1 for divisor 0. -/
theorem divN_eq (x y : Word) :
    divN x y = if y = 0 then BitVec.ofNat 64 (2 ^ 64 - 1) else BitVec.ofNat 64 (x.toNat / y.toNat) := by
  rw [divN, BitVec.udiv_def]
  rfl

/-- REM has the sign of the dividend, and gives the dividend for divisor 0. -/
theorem remS_eq (x y : Word) : remS x y = if y = 0 then x else BitVec.ofInt 64 (x.toInt.tmod y.toInt) := by
  rw [remS, srem_eq]

/-- REMN is the exact natural remainder, and gives the dividend for divisor 0. -/
theorem remN_eq (x y : Word) : remN x y = if y = 0 then x else BitVec.ofNat 64 (x.toNat % y.toNat) := by
  rw [remN, BitVec.umod_def]

/-! ## Shifts, compares and selections (R168) -/

/-- A shift left multiplies by a power of two. -/
theorem shiftLeft_eq_ofNat (x : Word) (n : Nat) : x <<< n = BitVec.ofNat 64 (x.toNat * 2 ^ n) :=
  BitVec.eq_of_toNat_eq (by rw [BitVec.toNat_shiftLeft, Nat.shiftLeft_eq, BitVec.toNat_ofNat])

/-- A shift right with zeros divides by a power of two. -/
theorem ushiftRight_eq_ofNat (x : Word) (n : Nat) : x >>> n = BitVec.ofNat 64 (x.toNat / 2 ^ n) := by
  have hlt : x.toNat / 2 ^ n < 2 ^ 64 := Nat.lt_of_le_of_lt (Nat.div_le_self _ _) x.isLt
  refine BitVec.eq_of_toNat_eq ?_
  rw [BitVec.toNat_ushiftRight, Nat.shiftRight_eq_div_pow, BitVec.toNat_ofNat, Nat.mod_eq_of_lt hlt]

/-- A flag as a word is 1 exactly where the condition holds. -/
theorem flagWord_decide (p : Prop) [Decidable p] : flagWord (decide p) = if p then 1 else 0 := by
  simp only [flagWord, decide_eq_true_iff]

/-- A selection of words is the selection of the numbers that they hold, as a word. -/
theorem select_eq {α : Type} (num : Word → α) (ofNum : α → Word) (hnum : ∀ z, ofNum (num z) = z) (p : Prop) [Decidable p]
    (x y : Word) : (if decide p then y else x) = ofNum (if p then num y else num x) := by
  by_cases h : p
  · rw [if_pos (decide_eq_true h), if_pos h, hnum]
  · rw [if_neg (fun e => h (of_decide_eq_true e)), if_neg h, hnum]

/-- MIN selects the operand that holds the lesser signed number. -/
theorem min_signed_eq (x y : Word) : (if y.slt x then y else x) = BitVec.ofInt 64 (min x.toInt y.toInt) :=
  (select_eq BitVec.toInt (BitVec.ofInt 64) (fun _ => BitVec.ofInt_toInt) _ x y).trans (congrArg _ (by split <;> omega))

/-- MAX selects the operand that holds the greater signed number. -/
theorem max_signed_eq (x y : Word) : (if x.slt y then y else x) = BitVec.ofInt 64 (max x.toInt y.toInt) :=
  (select_eq BitVec.toInt (BitVec.ofInt 64) (fun _ => BitVec.ofInt_toInt) _ x y).trans (congrArg _ (by split <;> omega))

/-- MINN selects the operand that holds the lesser natural number. -/
theorem min_natural_eq (x y : Word) : (if y.ult x then y else x) = BitVec.ofNat 64 (min x.toNat y.toNat) :=
  (select_eq BitVec.toNat (BitVec.ofNat 64) ofNat_toNat_word _ x y).trans (congrArg _ (by split <;> omega))

/-- MAXN selects the operand that holds the greater natural number. -/
theorem max_natural_eq (x y : Word) : (if x.ult y then y else x) = BitVec.ofNat 64 (max x.toNat y.toNat) :=
  (select_eq BitVec.toNat (BitVec.ofNat 64) ofNat_toNat_word _ x y).trans (congrArg _ (by split <;> omega))

/-! ## Counts of bits (R167) -/

/-- CLZ gives 64 of zero, and else the n with bit 63 − n the highest bit set. -/
theorem countLeadingZeros_spec (x : Word) : ∃ n : Nat, n ≤ 64 ∧ countLeadingZeros x = BitVec.ofNat 64 n ∧
    (x = 0 → n = 64) ∧ (x ≠ 0 → n < 64 ∧ 2 ^ (63 - n) ≤ x.toNat ∧ x.toNat < 2 ^ (64 - n)) := by
  by_cases h : x = 0
  · exact ⟨64, Nat.le_refl _, by rw [countLeadingZeros, if_pos h]; rfl, fun _ => rfl, fun hx => absurd h hx⟩
  · have hx : x.toNat ≠ 0 := fun e => h (BitVec.eq_of_toNat_eq e)
    have hlog : x.toNat.log2 < 64 := (Nat.log2_lt hx).mpr x.isLt
    obtain ⟨hlow, hhigh⟩ := (Nat.log2_eq_iff hx).mp rfl
    refine ⟨63 - x.toNat.log2, by omega, by rw [countLeadingZeros, if_neg h, word], fun e => absurd e h,
      fun _ => ⟨by omega, ?_, ?_⟩⟩
    · rwa [show 63 - (63 - x.toNat.log2) = x.toNat.log2 by omega]
    · rwa [show 64 - (63 - x.toNat.log2) = x.toNat.log2 + 1 by omega]

/-- The 1 bits of the low n bits are the positions below n whose bit is set. -/
theorem countOnes_eq (x : Word) (n : Nat) : countOnes x n = ((List.range n).filter (fun i => x.getLsbD i)).length := by
  induction n with
  | zero => rfl
  | succ n ih =>
    rw [countOnes, ih, List.range_succ, List.filter_append, List.length_append]
    cases hbit : x.getLsbD n <;> simp [hbit]

/-! ## The statement -/

/-- Settles O2: every instruction has one of the two shared forms, and its function gives the value of its entry. -/
theorem scalarResults : Obligations.ScalarResults := by
  unfold Obligations.ScalarResults
  refine ⟨fun w d a b s h => ?_, fun w d a b s h => ?_, fun w d a s h => ?_⟩
  · have alu_gives := fun f v => alu_does w d a b f s v h
    exact ⟨(exec_add w d a b s).trans (alu_gives _ _ (BitVec.add_def _ _)),
      (exec_sub w d a b s).trans (alu_gives _ _ (sub_eq_ofInt _ _)),
      (exec_mul w d a b s).trans (alu_gives _ _ (mul_eq_ofNat _ _)),
      (exec_mulh w d a b s).trans (alu_gives _ _ (mulHigh_eq _ _)),
      (exec_mulhn w d a b s).trans (alu_gives _ _ (mulHighN_eq _ _)),
      (exec_div w d a b s).trans (alu_gives _ _ (divS_eq _ _)),
      (exec_divn w d a b s).trans (alu_gives _ _ (divN_eq _ _)),
      (exec_rem w d a b s).trans (alu_gives _ _ (remS_eq _ _)),
      (exec_remn w d a b s).trans (alu_gives _ _ (remN_eq _ _))⟩
  · have alu_gives := fun f v => alu_does w d a b f s v h
    exact ⟨(exec_and w d a b s).trans (alu_gives _ _ rfl),
      (exec_or w d a b s).trans (alu_gives _ _ rfl),
      (exec_xor w d a b s).trans (alu_gives _ _ rfl),
      (exec_shl w d a b s).trans (alu_gives _ _ (shiftLeft_eq_ofNat _ _)),
      (exec_shr w d a b s).trans (alu_gives _ _ (ushiftRight_eq_ofNat _ _)),
      (exec_sra w d a b s).trans (alu_gives _ _ (sshiftRight_eq _ _)),
      (exec_slt w d a b s).trans (alu_gives _ _ (flagWord_decide _)),
      (exec_sltn w d a b s).trans (alu_gives _ _ (flagWord_decide _)),
      (exec_min w d a b s).trans (alu_gives _ _ (min_signed_eq _ _)),
      (exec_max w d a b s).trans (alu_gives _ _ (max_signed_eq _ _)),
      (exec_minn w d a b s).trans (alu_gives _ _ (min_natural_eq _ _)),
      (exec_maxn w d a b s).trans (alu_gives _ _ (max_natural_eq _ _))⟩
  · obtain ⟨n, hn, hclz, hzero, hset⟩ := countLeadingZeros_spec (s.reg a)
    exact ⟨⟨n, hn, (exec_clz w d a s).trans (aluImm_does w d a _ s _ h hclz), hzero, hset⟩,
      (exec_popc w d a s).trans (aluImm_does w d a _ s _ h (congrArg word (countOnes_eq _ 64)))⟩

end Sys2Proof.Machine
